-- ==== Sys2Proof/Word.lean ====
section
/-!
DEFINITION. The words of the Ozpira OZ2208: 32-bit words, plant times, and sparse tables of numbered things.
-/

namespace Sys2Proof

/-- A word of memory: 32 bits (00_scope.md, "Units"). -/
abbrev Word := BitVec 32

/-- A plant time: a value of the plant counter, modulo 2^32 (00_scope.md, "Modular time"). -/
abbrev Time := BitVec 32

/-- Numbered things kept sparsely: pairs of a number and a thing, the numbers strictly rising. -/
abbrev Table (α : Type) := List (Nat × α)

end Sys2Proof
end

