-- ==== Sys2Proof/Config.lean ====
section
/-!
DEFINITION. The numbers the manual fixes for the OZ2208: capacities, widths and the places of the settings window.
No rule leaves a result undefined, so there is no free value here.
-/

namespace Sys2Proof.Config

/-- Context records in the station context table (R1). -/
abbrev contextCount : Nat := 1024
/-- Local channels (00_scope.md, "Terms"). -/
abbrev channelCount : Nat := 8
/-- Places in the intake queue (R39). -/
abbrev intakePlaces : Nat := 32
/-- Places in the held-write buffer (R143). -/
abbrev heldPlaces : Nat := 4
/-- Places in the waiting buffer (R144). -/
abbrev waitingPlaces : Nat := 16
/-- Entries of the own-write queue (R148). -/
abbrev ownPlaces : Nat := 32
/-- Own writes that may be outstanding (R148). -/
abbrev ownOutstanding : Nat := 256
/-- Places in the holding queue (R170). -/
abbrev holdingPlaces : Nat := 16
/-- Highest number of words in a request (R136). -/
abbrev maxWords : Nat := 64
/-- Bytes in a slot of the report ring and of the staging area (R29, R95). -/
abbrev slotBytes : Nat := 256
/-- Taps of a pre-equaliser (R3). -/
abbrev tapCount : Nat := 16
/-- The main tap's value (00_scope.md, "Units"). -/
abbrev unity : Nat := 8192

/-- Words of the settings window (R155). -/
abbrev windowWords : Nat := 4096
/-- Bytes of the settings window (R155). -/
abbrev windowBytes : Nat := 16384
/-- First word of the channel blocks, and words in one (chapter 08, "Window layout"). -/
abbrev channelBlocks : Nat := 64
abbrev channelBlockWords : Nat := 32
/-- First words of the range checkers, the key selectors and the verdict table (chapter 08, "Window layout"). -/
abbrev checkerBlocks : Nat := 320
abbrev selectorBlocks : Nat := 336
abbrev verdictTable : Nat := 1024
/-- The control words (chapter 08, "Window layout"). -/
abbrev applyWord : Nat := 3968
abbrev commandWord : Nat := 3969
abbrev firstArgument : Nat := 3970
abbrev secondArgument : Nat := 3971
abbrev consumerWord : Nat := 3972
/-- The status area's words (chapter 08, "Window layout"). -/
abbrev applyResultWord : Nat := 4064
abbrev commandResultWord : Nat := 4065
abbrev producerWord : Nat := 4066
abbrev errorStatusWord : Nat := 4067
abbrev firstPointerWord : Nat := 4068
abbrev freeCountWord : Nat := 4069
abbrev occupiedCountWord : Nat := 4070
/-- The 14 words of the status area, in word order (R155, R167). -/
abbrev statusWords : List Nat :=
  [4064, 4065, 4066, 4067, 4068, 4069, 4070, 4071, 4072, 4073, 4074, 4075, 4076, 4077]

/-- Word 12 of the global block: memory top, in 4 KiB units. -/
abbrev memoryTopWord : Nat := 12
/-- The highest memory top and guard range end, in 4 KiB units (R156). -/
abbrev maxMemoryTop : Nat := 1048576
/-- The longest interval and report age limit, in ticks (R122). -/
abbrev maxInterval : Nat := 1073741824

/-- The active settings after power-on reset and SOFT_RESET: 16-slot rings, one staging slot, memory top 1,048,576,
severity FATAL for INJECT_FAULT alone, every other word 0 (R75, R156, R157). -/
def defaultSettings : Table Word :=
  [(3, 16), (5, 1), (7, 16), (12, 1048576), (18, 256)]

end Sys2Proof.Config
end

