-- ==== Sys2Proof/Syntax.lean ====
section
/-!
DEFINITION. The commands of the OZ2208: one constructor of `Instr` for each row of spec/opcode_table.json, with the
requests, completions and straps the commands carry.
-/

namespace Sys2Proof

/-- The strap levels sampled at power-on reset (R177). -/
structure Straps where
  /-- base of the settings window, in 64 KiB units -/
  settingsBase : BitVec 12
  /-- source number of the settings source -/
  settingsSource : BitVec 4
  /-- source number carried by the part's own writes -/
  ownSource : BitVec 4
  deriving DecidableEq, Repr

/-- One word of a write with its byte lanes; lane `b` carries bits 8b+7..8b (words are stored little-endian). -/
structure LaneWord where
  lanes : BitVec 4
  data : Word
  deriving DecidableEq, Repr

/-- A request's kind: a READ of a number of words, or a WRITE of words with their byte lanes (R136). -/
inductive RequestBody where
  | read (words : Nat)
  | write (words : List LaneWord)
  deriving DecidableEq, Repr

/-- A request at the initiator port or the memory port (R136). -/
structure Request where
  /-- byte address -/
  address : Word
  source : BitVec 4
  tag : Nat
  body : RequestBody
  deriving DecidableEq, Repr

/-- The status of a completion (00_scope.md, "Ports and pins"). -/
inductive CompletionStatus where
  | okay
  | error
  deriving DecidableEq, Repr

/-- A completion: the source and tag of its request, a status, and the read data of a read (R136, R138). -/
structure Completion where
  source : BitVec 4
  tag : Nat
  status : CompletionStatus
  data : List Word
  deriving DecidableEq, Repr

/-- Where a request that a step acts on comes from. -/
inductive Origin where
  /-- it is presented at the initiator port -/
  | port (r : Request)
  /-- it stands at the stopped initiator port, untaken (R145) -/
  | stalled
  /-- it is the first of its source in the waiting buffer (R144) -/
  | waiting (source : BitVec 4)
  deriving DecidableEq, Repr

/-- The commands: the rows of spec/opcode_table.json, in its order. -/
inductive Instr where
  /-- POWER_ON_RESET: RSTn is released with these strap levels -/
  | powerOnReset (straps : Straps)
  /-- SYNC_LOAD: a rising edge of SYNC_IN -/
  | syncLoad
  /-- REQUEST_WAIT: a request taken before its turn -/
  | requestWait (o : Origin)
  /-- FORWARD_WRITE: a write that no block takes or blocks -/
  | forwardWrite (o : Origin)
  /-- FORWARD_READ: a read that is not a delivery read -/
  | forwardRead (o : Origin)
  /-- BLOCKED_WRITE: a write that fails a guard check -/
  | blockedWrite (o : Origin)
  /-- REPORT_WRITE: a write taken as a report -/
  | reportWrite (o : Origin)
  /-- TORN_WRITE: a receiver write into the report ring, not taken -/
  | tornWrite (o : Origin)
  /-- RESPONSE_WRITE: a write taken as a response -/
  | responseWrite (o : Origin)
  /-- RESPONSE_NOT_TAKEN: a write into the staging area, not taken -/
  | responseNotTaken (o : Origin)
  /-- DELIVERY_READ: a transmit-source read of a staging slot's first word -/
  | deliveryRead (o : Origin)
  /-- SETTINGS_WRITE: a settings-source write into the window that starts no step of its own row -/
  | settingsWrite (o : Origin)
  /-- APPLY: a settings write of the apply word -/
  | applyWrite (o : Origin)
  /-- CONSUMER_INDEX_WRITE: a settings write of the consumer index word -/
  | consumerIndexWrite (o : Origin)
  /-- SOFT_RESET: a settings write of the command word with code 1 -/
  | softReset (o : Origin)
  /-- CHANNEL_CLOSE: a settings write of the command word with code 2 -/
  | channelClose (o : Origin)
  /-- STATION_DROP: a settings write of the command word with code 3 -/
  | stationDrop (o : Origin)
  /-- STATION_RESTART: a settings write of the command word with code 4 -/
  | stationRestart (o : Origin)
  /-- STATION_MOVE: a settings write of the command word with code 5 -/
  | stationMove (o : Origin)
  /-- DRAIN: a settings write of the command word with code 6 -/
  | drain (o : Origin)
  /-- DRAIN_DONE: the DRAIN in progress completes -/
  | drainDone
  /-- ERROR_CLEAR: a settings write of the command word with code 7 -/
  | errorClear (o : Origin)
  /-- MEMORY_COMPLETION: the memory port returns the completion of a forwarded request -/
  | memoryCompletion (c : Completion)
  /-- OWN_WRITE_SEND: the head of the own-write queue is sent -/
  | ownWriteSend
  /-- OWN_WRITE_ACK: an own write with this tag is acknowledged -/
  | ownWriteAck (tag : BitVec 8) (status : CompletionStatus)
  /-- EVENT_WRITE_OUT: the head of the holding queue is written to the event ring -/
  | eventWriteOut
  /-- TAKE_HEAD: the corrector takes the head of the intake queue -/
  | takeHead
  /-- AGEING_COUNT: the ageing counter has reached its limit -/
  | ageingCount
  /-- NOTED_COMPLETION: a correction that is noted only completes -/
  | notedCompletion
  /-- FULL_COMPLETION: a fully corrected correction completes -/
  | fullCompletion
  /-- SILENCE_EXPIRY: the first due deadline is a SILENCE deadline and fires -/
  | silenceExpiry
  /-- CONFIRM_EXPIRY: the first due deadline is a CONFIRM deadline and fires -/
  | confirmExpiry
  /-- AGEING_TIMER: the ageing timer has reached its limit and fires -/
  | ageingTimer
  /-- PCLK_TICK: one tick of PCLK -/
  | pclkTick
  /-- RSTN_LOW: RSTn is driven low -/
  | rstnLow
  deriving DecidableEq, Repr

end Sys2Proof
end

