-- ==== Sys2Proof/Decode.lean ====
section
/-!
DEFINITION. The command that a word of table bits spells. The OZ2208 takes no encoded commands and
spec/opcode_table.json gives bits for none of its 35 rows ("fields" is empty in each), so no word spells a command.
-/

namespace Sys2Proof

/-- The command that `nbits` bits `w` spell by the bits of spec/opcode_table.json: none, since no row has bits. -/
def decodeTableWord (_nbits _w : Nat) : Option Instr := none

end Sys2Proof
end

