-- ==== Sys2Proof/Machine/Fields.lean ====
section
/-!
DEFINITION. Bit fields of words, signed fields, byte lanes and modular time (00_scope.md, "Conventions").
-/

namespace Sys2Proof

/-- Bits hi..lo of a word as a number. -/
def bits (w : Word) (hi lo : Nat) : Nat :=
  w.toNat / 2 ^ lo % 2 ^ (hi - lo + 1)

/-- The two's complement value of a field of `width` bits. -/
def signedField (width n : Nat) : Int :=
  if n < 2 ^ (width - 1) then (n : Int) else (n : Int) - (2 : Int) ^ width

/-- A number in a field of `width` bits, two's complement when negative. -/
def toField (width : Nat) (x : Int) : Nat :=
  (x % (2 : Int) ^ width).toNat

/-- A flag as a field of one bit. -/
def flagField (b : Bool) : Nat :=
  if b then 1 else 0

/-- A word made of fields, each a number and the place of its lowest bit. -/
def packed (fields : List (Nat × Nat)) : Word :=
  BitVec.ofNat 32 ((fields.map fun f => f.1 * 2 ^ f.2).sum)

/-- The bytes of `new` whose lanes are on, the others of `old` (R155). -/
def mergeLanes (lanes : BitVec 4) (old new : Word) : Word :=
  let mask : Word := packed [(255 * flagField (lanes.getLsbD 0), 0), (255 * flagField (lanes.getLsbD 1), 8),
    (255 * flagField (lanes.getLsbD 2), 16), (255 * flagField (lanes.getLsbD 3), 24)]
  (new &&& mask) ||| (old &&& ~~~mask)

/-- `t` is at or after `t0` (00_scope.md, "Modular time"). -/
def atOrAfter (t t0 : Time) : Bool :=
  decide ((t - t0).toNat < 2 ^ 31)

/-- The remaining time of an expiry, seen at a counter value (00_scope.md, "Modular time"). -/
def remaining (expiry counter : Time) : Nat :=
  (expiry - counter).toNat

/-- A plant time some ticks later. -/
def later (t : Time) (ticks : Nat) : Time :=
  t + BitVec.ofNat 32 ticks

/-- Two byte ranges, each a first byte and a length, share a byte (R136). -/
def rangesMeet (a la b lb : Nat) : Bool :=
  decide (a < b + lb) && decide (b < a + la)

end Sys2Proof
end

