-- ==== Sys2Proof/Machine/State.lean ====
section
/-!
DEFINITION. Everything the manual gives the OZ2208 to hold, block by block (00_scope.md, "Block diagram"), as plain
data, and the part right after power-on reset. Local channels are 0..7, context indices 0..1,023, slots 0..255 and
station tags 1..16,383 wherever the part holds them.
-/

namespace Sys2Proof.Machine

/-- Why the machine stops with a fault: never. Every error of the OZ2208 is a status bit, perhaps an event, perhaps
entry to STOPPED (R175, R180), and the part goes on in a next state. -/
inductive Fault where
  deriving DecidableEq, Repr

/-- Why a command has no meaning. -/
inductive Refusal where
  /-- raised by `exec` alone, for a row of the opcode table that has no meaning yet; safe: the run stops there -/
  | notModelled (mnemonic : String)
  deriving DecidableEq, Repr

/-! ### Stations and their corrections (chapter 01) -/

/-- A tap: a complex pair of signed components (00_scope.md, "Units"). -/
structure Tap where
  re : Int
  im : Int
  deriving DecidableEq, Repr

/-- The three burst kinds (chapter 02, "The report record"). -/
inductive BurstKind where
  | firstContact
  | keepalive
  | data
  deriving DecidableEq, Repr

/-- The states of an occupied context; VACANT is the absence of a record in the table (R3, R6). -/
inductive StationState where
  | contact
  | tracking
  | due
  | ending
  deriving DecidableEq, Repr

/-- How a context came to its station (R3). -/
inductive Birth where
  | contact
  | adopted
  | moved
  deriving DecidableEq, Repr

/-- The status of a verdict or a response (R81); `cont` is CONTINUE. -/
inductive Status where
  | cont
  | success
  | abort
  | silent
  deriving DecidableEq, Repr

/-- The next station state of a verdict (R81). -/
inductive NextState where
  | unchanged
  | contact
  | tracking
  deriving DecidableEq, Repr

/-- The issued correction (R5). Its status is never SILENT. -/
structure Issued where
  timing : Int
  residue : Nat
  power : Int
  frequency : Int
  coefficients : Option (List Tap)
  status : Status
  next : NextState
  conditions : BitVec 18
  deriving DecidableEq, Repr

/-- The correction state with what is present in it: the issued correction in READY, ISSUED and SENT, the slot in
ISSUED, the delivery time in SENT (R3, R8). -/
inductive Correction where
  | none
  | ready (issued : Issued)
  | issued (issued : Issued) (slot : Nat)
  | sent (issued : Issued) (delivered : Time)
  deriving DecidableEq, Repr

/-- The committed values: what the part believes the station is using (R4). -/
structure Committed where
  timing : Int
  residue : Nat
  power : Int
  frequency : Int
  coefficients : List Tap
  deriving DecidableEq, Repr

/-- The last metrics: E, F, G and MER, and SP and the last verdict status once produced (R3). -/
structure Metrics where
  timingError : Int
  frequencyError : Int
  powerError : Int
  mer : Nat
  spread : Option Nat
  status : Option Status
  deriving DecidableEq, Repr

/-- A station's key: a local channel and a station tag (R2). -/
structure Key where
  channel : Nat
  tag : Nat
  deriving DecidableEq, Repr

/-- The record of an occupied context (R3). -/
structure Context where
  key : Key
  station : StationState
  correction : Correction
  busy : Bool
  committed : Committed
  attempts : Nat
  age : Nat
  lastHeard : Time
  metrics : Option Metrics
  origin : Birth
  /-- the stored check code agrees with the record and its index (R26; log 8) -/
  intact : Bool
  deriving DecidableEq, Repr

/-- The station context table (R1, R2, R24, R28). A context without a record here is vacant and holds the vacant
values of R3. The counts of R1 are computed from it. -/
structure ContextTable where
  contexts : Table Context
  /-- key directory: key number (`Key.number`) to context index -/
  directory : Table Nat
  /-- indices that are vacant but not given out, each once -/
  quarantined : List Nat
  ageing : Nat
  deriving DecidableEq, Repr

/-! ### Reports and corrections in flight (chapter 02) -/

/-- The measures a MEASURES sub-block gives (R34). -/
structure Measures where
  timingError : Int
  frequencyError : Int
  powerError : Int
  mer : Nat
  collision : Bool
  deriving DecidableEq, Repr

/-- An entry of the intake queue (R39). -/
structure Report where
  channel : Nat
  kind : BurstKind
  tag : Nat
  sequence : BitVec 16
  arrival : Time
  measures : Measures
  taps : Option (List Tap)
  slot : Nat
  deriving DecidableEq, Repr

/-- The intake queue, head first, and each local channel's last accepted sequence, absent for none (R36, R39). -/
structure Intake where
  queue : List Report
  lastSequence : Table (BitVec 16)
  deriving DecidableEq, Repr

/-- The correction in flight (R43). -/
structure Flight where
  report : Report
  /-- the snapshot of the active settings -/
  snapshot : Table Word
  takeTime : Time
  index : Nat
  ageBefore : Nat
  /-- fully corrected, or noted only -/
  full : Bool
  deriving DecidableEq, Repr

/-! ### Time (chapter 06) -/

/-- The stage a SILENCE deadline was armed for (R130). -/
inductive Stage where
  | contact
  | dueWait
  | lostWait
  deriving DecidableEq, Repr

/-- The kind of a deadline, with the stage of a SILENCE deadline (R123). -/
inductive DeadlineKind where
  | silence (stage : Stage)
  | confirm
  deriving DecidableEq, Repr

/-- An entry of the deadline list (R123). -/
structure Deadline where
  index : Nat
  kind : DeadlineKind
  expiry : Time
  deriving DecidableEq, Repr

/-- The time unit (R118, R119, R123, R133). The deadlines stand in the order they were inserted; their order by
remaining time (R124) follows from that and the counter. -/
structure TimeUnit where
  counter : Time
  /-- a rising edge of SYNC_IN waits for the next tick -/
  syncEdge : Bool
  deadlines : List Deadline
  ageingTimer : Nat
  deriving DecidableEq, Repr

/-! ### The pass-through path (chapter 07) -/

/-- A held write: its data as the source wrote it, its local channel, station tag and slot (R143). The slot is absent
when an apply has moved the staging area away from under it (R96). -/
structure HeldWrite where
  request : Request
  key : Key
  slot : Option Nat
  deriving DecidableEq, Repr

/-- A forwarded request in flight (R136, R138), with the number the model gave it. -/
structure InFlight where
  serial : Nat
  source : BitVec 4
  tag : Nat
  deriving DecidableEq, Repr

/-- The forwarder's buffers (R143 to R145), the requests in flight (R136), and what its ports have issued. -/
structure Forwarder where
  held : List HeldWrite
  waiting : List Request
  /-- the request that stands at the stopped port (R145) -/
  stalled : Option Request
  inFlight : List InFlight
  nextSerial : Nat
  /-- requests issued at the memory port since power-on reset, oldest first -/
  toMemory : List Request
  /-- completions returned at the initiator port since power-on reset, oldest first -/
  toInitiator : List Completion
  deriving DecidableEq, Repr

/-- What an own write writes: an event record at a byte address, or one status-area word (R148). -/
inductive OwnBody where
  | record (address : Word) (words : List Word)
  | status (word : Nat) (value : Word)
  deriving DecidableEq, Repr

/-- An entry of the own-write queue. Its cause is the number of the forwarded write whose acknowledgement it waits
for, if any (R150). -/
structure OwnWrite where
  body : OwnBody
  cause : Option Nat
  deriving DecidableEq, Repr

/-- An own write sent and not yet acknowledged (R151). -/
structure Outstanding where
  tag : BitVec 8
  /-- it was sent before the last SOFT_RESET -/
  beforeReset : Bool
  deriving DecidableEq, Repr

/-- The part's own writes (R148). -/
structure OwnWrites where
  queue : List OwnWrite
  outstanding : List Outstanding
  nextTag : BitVec 8
  deriving DecidableEq, Repr

/-! ### Settings, events and errors (chapter 08) -/

/-- The settings intake: the staging copy and the active settings as words of the window, an unlisted word being 0,
and the command sequence of a DRAIN in progress (R153, R155, R158). -/
structure SettingsIntake where
  staging : Table Word
  active : Table Word
  draining : Option (BitVec 16)
  deriving DecidableEq, Repr

/-- The ten error kinds (R175). -/
inductive ErrorKind where
  | tornReport
  | malformedReport
  | shortResponse
  | guardBlock
  | intakeOverflow
  | verdictRowOverrun
  | verdictChainLong
  | eventLoss
  | injectFault
  | contextIntegrity
  deriving DecidableEq, Repr

/-- An event formed when it was handed on, without sequence and lost flag, with its cause (R150, R172). -/
structure EventRecord where
  /-- event kind code 1..12 -/
  kind : Nat
  words : List Word
  cause : Option Nat
  deriving DecidableEq, Repr

/-- The event writer (R159, R162, R168 to R176). -/
structure EventWriter where
  producer : Nat
  consumer : Nat
  mark : Nat
  sequence : BitVec 16
  lost : Bool
  holding : List EventRecord
  errors : BitVec 10
  firstPointer : Option ErrorKind
  applyResult : Word
  commandResult : Word
  deriving DecidableEq, Repr

/-! ### The part -/

/-- The three part states (chapter 09). -/
inductive PartState where
  | setup
  | running
  | stopped
  deriving DecidableEq, Repr

/-- The pins and the sampled straps (R173, R177). -/
structure Pins where
  resetLow : Bool
  straps : Straps
  attention : Bool
  deriving DecidableEq, Repr

/-- What holds only while a step is made (log 1): the cause that own writes made now carry, and whether a fatal error
was set whose entry to STOPPED is still to follow (R180). Between steps: none and false. -/
structure Now where
  cause : Option Nat
  stopDue : Bool
  deriving DecidableEq, Repr

/-- The OZ2208: its blocks, its pins, and the queue of the commands that are waiting. -/
structure State where
  pending : List Instr
  pins : Pins
  part : PartState
  forwarder : Forwarder
  own : OwnWrites
  settings : SettingsIntake
  intake : Intake
  flight : Option Flight
  table : ContextTable
  slotMap : Table Nat
  time : TimeUnit
  events : EventWriter
  now : Now
  deriving DecidableEq, Repr

/-- The 14 status-area words the part issues at release: 0 everywhere except a free-context count of 1,024 (R167,
R177). -/
def releaseWords : List OwnWrite :=
  Config.statusWords.map fun w => ⟨.status w (if w = Config.freeCountWord then 1024 else 0), none⟩

/-- The part after the release of RSTn with these straps, every block at its power-on value (R177). -/
def State.powerOn (straps : Straps) (pending : List Instr) : State :=
  { pending := pending
    pins := { resetLow := false, straps := straps, attention := false }
    part := .setup
    forwarder :=
      { held := [], waiting := [], stalled := none, inFlight := [], nextSerial := 0, toMemory := [], toInitiator := [] }
    own := { queue := releaseWords, outstanding := [], nextTag := 0 }
    settings := { staging := [], active := Config.defaultSettings, draining := none }
    intake := { queue := [], lastSequence := [] }
    flight := none
    table := { contexts := [], directory := [], quarantined := [], ageing := 0 }
    slotMap := []
    time := { counter := 0, syncEdge := false, deadlines := [], ageingTimer := 0 }
    events :=
      { producer := 0, consumer := 0, mark := 0, sequence := 0, lost := false, holding := [], errors := 0,
        firstPointer := none, applyResult := 0, commandResult := 0 }
    now := { cause := none, stopDue := false } }

/-- The machine right after power-on reset. The manual gives the strap levels no value of their own: DESIGN CHOICE
all 0 (log 4). -/
def State.reset : State := State.powerOn { settingsBase := 0, settingsSource := 0, ownSource := 0 } []

end Sys2Proof.Machine
end

