-- ==== Sys2Proof/Machine/Table.lean ====
section
/-!
DEFINITION. Reading and writing sparse tables, and words of the settings window kept in one.
-/

namespace Sys2Proof

/-- What a table holds under a number. -/
def Table.get? {α : Type} : Table α → Nat → Option α
  | [], _ => none
  | (k, v) :: t, n => if n = k then some v else Table.get? t n

/-- The table with `v` under `n`, the numbers still rising. -/
def Table.set {α : Type} : Table α → Nat → α → Table α
  | [], n, v => [(n, v)]
  | (k, w) :: t, n, v =>
    if n < k then (n, v) :: (k, w) :: t
    else if n = k then (n, v) :: t
    else (k, w) :: Table.set t n v

/-- The table with nothing under `n`. -/
def Table.erase {α : Type} (t : Table α) (n : Nat) : Table α :=
  t.filter fun p => p.1 != n

/-- The numbers the table lists, in rising order. -/
def Table.keys {α : Type} (t : Table α) : List Nat :=
  t.map fun p => p.1

/-- The canonical form: the numbers strictly rise. -/
def Table.wf {α : Type} : Table α → Bool
  | [] => true
  | [_] => true
  | (k, _) :: (k', v') :: t => decide (k < k') && Table.wf ((k', v') :: t)

/-- A word of a sparsely kept window: an unlisted word is 0 (R155). -/
def Words.read (t : Table Word) (n : Nat) : Word :=
  (Table.get? t n).getD 0

/-- Writing a word: a word of 0 is not listed, so that equal windows are equal data. -/
def Words.write (t : Table Word) (n : Nat) (v : Word) : Table Word :=
  if v = 0 then Table.erase t n else Table.set t n v

/-- The canonical form of a window: strictly rising, and no listed word is 0. -/
def Words.wf (t : Table Word) : Bool :=
  Table.wf t && t.all fun p => p.2 != 0

end Sys2Proof
end

