-- ==== Sys2Proof/Machine/Settings.lean ====
section
/-!
DEFINITION. The settings as the blocks read them from words of the settings window: the global block, the channel
blocks, the range checkers, the key selectors and the verdict table (chapter 08, "Window layout"; R156, R157).
-/

namespace Sys2Proof.Machine

/-- Bits hi..lo of a word of a window. -/
def setting (a : Table Word) (word hi lo : Nat) : Nat :=
  bits (Words.read a word) hi lo

/-! ### Global block -/

def receiverSource (a : Table Word) : BitVec 4 := BitVec.ofNat 4 (setting a 0 3 0)
def transmitSource (a : Table Word) : BitVec 4 := BitVec.ofNat 4 (setting a 0 7 4)

/-- A source belongs to the MAC source set: one of the four entries is used and holds its number. -/
def inMacSet (a : Table Word) (source : BitVec 4) : Bool :=
  [0, 8, 16, 24].any fun lo =>
    setting a 1 (lo + 4) (lo + 4) == 1 && setting a 1 (lo + 3) lo == source.toNat

def reportBase (a : Table Word) : Nat := setting a 2 31 0
def reportSlots (a : Table Word) : Nat := setting a 3 31 0
def stagingBase (a : Table Word) : Nat := setting a 4 31 0
def stagingSlots (a : Table Word) : Nat := setting a 5 31 0
def eventBase (a : Table Word) : Nat := setting a 6 31 0
def eventSlots (a : Table Word) : Nat := setting a 7 31 0

/-- The event enable mask and the attention kind mask, for an event kind code. -/
def eventEnabled (a : Table Word) (kind : Nat) : Bool := (Words.read a 8).getLsbD kind
def attentionKind (a : Table Word) (kind : Nat) : Bool := (Words.read a 9).getLsbD kind

def guardBase (a : Table Word) : Nat := setting a 10 20 0
def guardSize (a : Table Word) : Nat := setting a 11 20 0
def memoryTop (a : Table Word) : Nat := setting a 12 20 0
def firstContactReserve (a : Table Word) : Nat := setting a 13 6 0

/-- The ageing mode is TIME; it is REPORTS otherwise. -/
def ageingByTime (a : Table Word) : Bool := (Words.read a 14).getLsbD 8
def ageingN (a : Table Word) : Nat := setting a 14 3 0

def reportAgeLimit (a : Table Word) : Nat := setting a 15 31 0
/-- The sync value, read live from the staging copy (R119, R158). -/
def syncValue (staging : Table Word) : Time := Words.read staging 16
/-- The error mask and the error severity, for an error kind code. -/
def errorMasked (a : Table Word) (code : Nat) : Bool := (Words.read a 17).getLsbD code
def errorFatal (a : Table Word) (code : Nat) : Bool := (Words.read a 18).getLsbD code

/-! ### Channel blocks -/

/-- Word `k` of the block of local channel `c`. -/
def channelWord (c k : Nat) : Nat := Config.channelBlocks + Config.channelBlockWords * c + k

def channelSetting (a : Table Word) (c k hi lo : Nat) : Nat := setting a (channelWord c k) hi lo

/-- The local channel is open: enabled in these settings (00_scope.md, "Terms"). -/
def channelOpen (a : Table Word) (c : Nat) : Bool := (Words.read a (channelWord c 0)).getLsbD 0
def adoptEnabled (a : Table Word) (c : Nat) : Bool := (Words.read a (channelWord c 0)).getLsbD 1
def claimedNumber (a : Table Word) (c : Nat) : Nat := channelSetting a c 0 11 8
def quota (a : Table Word) (c : Nat) : Nat := channelSetting a c 1 10 0
def symbolPeriod (a : Table Word) (c : Nat) : Nat := channelSetting a c 2 15 0
def mainPosition (a : Table Word) (c : Nat) : Nat := channelSetting a c 3 3 0
def timingCeiling (a : Table Word) (c : Nat) : Nat := channelSetting a c 4 22 0
def powerLow (a : Table Word) (c : Nat) : Int := signedField 8 (channelSetting a c 5 7 0)
def powerHigh (a : Table Word) (c : Nat) : Int := signedField 8 (channelSetting a c 5 15 8)
def frequencyLimit (a : Table Word) (c : Nat) : Nat := channelSetting a c 6 14 0
def timingDeadZone (a : Table Word) (c : Nat) : Nat := channelSetting a c 7 14 0
def powerDeadZone (a : Table Word) (c : Nat) : Nat := channelSetting a c 8 6 0
def frequencyDeadZone (a : Table Word) (c : Nat) : Nat := channelSetting a c 9 14 0
def recentreLimit (a : Table Word) (c : Nat) : Nat := channelSetting a c 10 1 0
def attemptLimit (a : Table Word) (c : Nat) : Nat := channelSetting a c 11 7 0

/-- Where the start pair of a burst kind stands in a channel block. -/
def startWord : BurstKind → Nat
  | .firstContact => 12
  | .keepalive => 13
  | .data => 14

def startRow (a : Table Word) (c : Nat) (k : BurstKind) : Nat := channelSetting a c (startWord k) 7 0
def startSelector (a : Table Word) (c : Nat) (k : BurstKind) : Nat := channelSetting a c (startWord k) 10 8
def defaultVerdictWord (a : Table Word) (c : Nat) : Word := Words.read a (channelWord c 15)
def contactSilence (a : Table Word) (c : Nat) : Nat := channelSetting a c 16 31 0
def dueInterval (a : Table Word) (c : Nat) : Nat := channelSetting a c 17 31 0
def lostInterval (a : Table Word) (c : Nat) : Nat := channelSetting a c 18 31 0
def confirmWindow (a : Table Word) (c : Nat) : Nat := channelSetting a c 19 31 0
def applyMargin (a : Table Word) (c : Nat) : Nat := channelSetting a c 20 31 0

/-- The open local channel that claims a channel number, if any (R35, R97). -/
def claimant (a : Table Word) (number : Nat) : Option Nat :=
  (List.range Config.channelCount).find? fun c => channelOpen a c && claimedNumber a c == number

/-- The settings with the enable of a local channel off (R165). -/
def withChannelOff (a : Table Word) (c : Nat) : Table Word :=
  Words.write a (channelWord c 0) (Words.read a (channelWord c 0) &&& 0xFFFFFFFE#32)

/-! ### Areas of memory -/

/-- The slot of an area that begins at an address (R29, R95). -/
def slotAt (base slots address : Nat) : Option Nat :=
  if base ≤ address ∧ (address - base) % Config.slotBytes = 0 ∧ (address - base) / Config.slotBytes < slots then
    some ((address - base) / Config.slotBytes)
  else none

/-- The first byte of a slot of an area. -/
def slotStart (base slot : Nat) : Nat := base + Config.slotBytes * slot

/-- The first byte of the settings window (R141). -/
def windowBase (straps : Straps) : Nat := straps.settingsBase.toNat * 65536

end Sys2Proof.Machine
end

