-- ==== Sys2Proof/Machine/Deadlines.lean ====
section
/-!
DEFINITION. The deadline list: its order (R124), arming (R125), removal (R126) and which entry fires next (R127).
-/

namespace Sys2Proof.Machine

/-- Two entries are of the same kind, whatever their stages (R123). -/
def DeadlineKind.sameAs : DeadlineKind → DeadlineKind → Bool
  | .silence _, .silence _ => true
  | .confirm, .confirm => true
  | .silence _, .confirm => false
  | .confirm, .silence _ => false

/-- The entry is the one of this context and kind. -/
def Deadline.isFor (d : Deadline) (index : Nat) (kind : DeadlineKind) : Bool :=
  d.index == index && d.kind.sameAs kind

/-- The entry of a context and kind leaves the list (R126). -/
def State.removeDeadline (s : State) (index : Nat) (kind : DeadlineKind) : State :=
  { s with time := { s.time with deadlines := s.time.deadlines.filter fun d => !d.isFor index kind } }

/-- Both entries of a context leave the list (R18). -/
def State.removeDeadlines (s : State) (index : Nat) : State :=
  { s with time := { s.time with deadlines := s.time.deadlines.filter fun d => d.index != index } }

/-- A deadline is armed or re-armed: the old entry of the context and kind leaves, the new one is inserted last
(R125). -/
def State.arm (s : State) (index : Nat) (kind : DeadlineKind) (expiry : Time) : State :=
  let t := s.removeDeadline index kind
  { t with time := { t.time with deadlines := t.time.deadlines ++ [{ index := index, kind := kind, expiry := expiry }] } }

/-- An entry put before the entries of no less remaining time. -/
def insertByRemaining (counter : Time) (d : Deadline) : List Deadline → List Deadline
  | [] => [d]
  | e :: es =>
    if remaining d.expiry counter ≤ remaining e.expiry counter then d :: e :: es
    else e :: insertByRemaining counter d es

/-- The deadline list in its order: rising remaining time, equal ones in the order of insertion (R124). -/
def State.deadlineList (s : State) : List Deadline :=
  s.time.deadlines.foldr (insertByRemaining s.time.counter) []

/-- The entry is past: its remaining time is 2^31 or more (R127). -/
def State.isPast (s : State) (d : Deadline) : Bool := decide (2 ^ 31 ≤ remaining d.expiry s.time.counter)

/-- The entry is due (R127). -/
def State.isDue (s : State) (d : Deadline) : Bool :=
  remaining d.expiry s.time.counter == 0 || s.isPast d

/-- The entry that fires next: the first past entry in list order, else the first of remaining time 0 (R127). -/
def State.nextDue (s : State) : Option Deadline :=
  match s.deadlineList.find? s.isPast with
  | some d => some d
  | none => s.deadlineList.find? fun d => remaining d.expiry s.time.counter == 0

end Sys2Proof.Machine
end

