-- ==== Sys2Proof/Machine/Flags.lean ====
section
/-!
DEFINITION. The flags the part computes: counts of the context table (R1), codes of errors and states, the words of
the status area (chapter 08, "Control words and status area"), and the attention line (R173).
-/

namespace Sys2Proof.Machine

/-! ### Counts (R1) -/

/-- Number of occupied contexts on a local channel. -/
def State.occupiedCount (s : State) (c : Nat) : Nat :=
  (s.table.contexts.filter fun p => p.2.key.channel == c).length

/-- Number of vacant contexts. -/
def State.vacantCount (s : State) : Nat := Config.contextCount - s.table.contexts.length

/-- The free-context count: the vacant count less the quarantined count. -/
def State.freeCount (s : State) : Nat := s.vacantCount - s.table.quarantined.length

/-! ### Codes -/

/-- Error kind codes (R175). -/
def ErrorKind.code : ErrorKind → Nat
  | .tornReport => 0
  | .malformedReport => 1
  | .shortResponse => 2
  | .guardBlock => 3
  | .intakeOverflow => 4
  | .verdictRowOverrun => 5
  | .verdictChainLong => 6
  | .eventLoss => 7
  | .injectFault => 8
  | .contextIntegrity => 9

/-- Status codes of verdicts, responses and events (R81, chapter 08). -/
def Status.code : Status → Nat
  | .cont => 0
  | .success => 1
  | .abort => 2
  | .silent => 3

/-- Next state codes (R81). -/
def NextState.code : NextState → Nat
  | .unchanged => 0
  | .contact => 1
  | .tracking => 2

/-- Origin codes of events (chapter 08, "Event record layout"). -/
def Birth.code : Birth → Nat
  | .contact => 0
  | .adopted => 1
  | .moved => 2

/-- Silence stage codes of events (chapter 08, "Event record layout"). -/
def Stage.code : Stage → Nat
  | .contact => 1
  | .dueWait => 2
  | .lostWait => 3

/-- Burst kind codes (chapter 02, "The report record"). -/
def BurstKind.code : BurstKind → Nat
  | .firstContact => 0
  | .keepalive => 1
  | .data => 2

/-! ### The status area -/

/-- The error first pointer as its status-area word carries it. -/
def firstPointerValue : Option ErrorKind → Word
  | none => 0
  | some k => packed [(1, 31), (k.code, 0)]

/-- The value of a word of the status area. -/
def State.statusValue (s : State) (word : Nat) : Word :=
  if word = Config.applyResultWord then s.events.applyResult
  else if word = Config.commandResultWord then s.events.commandResult
  else if word = Config.producerWord then BitVec.ofNat 32 s.events.producer
  else if word = Config.errorStatusWord then s.events.errors.setWidth 32
  else if word = Config.firstPointerWord then firstPointerValue s.events.firstPointer
  else if word = Config.freeCountWord then BitVec.ofNat 32 s.freeCount
  else BitVec.ofNat 32 (s.occupiedCount (word - Config.occupiedCountWord))

/-! ### The event ring and the attention line -/

/-- The ring is full (R168). -/
def State.ringFull (s : State) : Bool :=
  (s.events.producer + 1) % eventSlots s.settings.active == s.events.consumer

/-- `(x - y) mod S` for ring indices. -/
def ringDistance (slots x y : Nat) : Nat := (x + slots - y) % slots

/-- The ring holds unread events written at or before the attention mark: u is greater than d (R173). -/
def State.markedUnread (s : State) : Bool :=
  let slots := eventSlots s.settings.active
  decide (ringDistance slots s.events.producer s.events.mark < ringDistance slots s.events.producer s.events.consumer)

/-- Some error kind is set in the error status and clear in the error mask (R173). -/
def State.unmaskedError (s : State) : Bool :=
  (List.range 10).any fun k => s.events.errors.getLsbD k && !errorMasked s.settings.active k

/-- The level of ATTN (R173). -/
def State.attentionLevel (s : State) : Bool := s.markedUnread || s.unmaskedError

end Sys2Proof.Machine
end

