-- ==== Sys2Proof/Machine/Events.lean ====
section
/-!
DEFINITION. The event writer: own writes joining their queue (R148), event records formed, written and held (R169 to
R172), errors set (R175, R176), and the results of applies and commands (R159, R162).
-/

namespace Sys2Proof.Machine

/-! ### The own-write queue (R148) -/

/-- The entry is a write of this status-area word. -/
def OwnWrite.isStatus (w : OwnWrite) (word : Nat) : Bool :=
  match w.body with
  | .record _ _ => false
  | .status n _ => n == word

/-- A status-area word is issued with its newest value; an entry of the word still waiting leaves its place (R148,
R167). DESIGN CHOICE (log 45): the new entry waits for its own cause alone, not for that of the entry it displaces. -/
def State.issueStatusFor (s : State) (cause : Option Nat) (word : Nat) : State :=
  { s with own := { s.own with
      queue := (s.own.queue.filter fun w => !w.isStatus word) ++
        [{ body := .status word (s.statusValue word), cause := cause }] } }

/-- A status-area word is issued because of the step being made. -/
def State.issueStatus (s : State) (word : Nat) : State :=
  s.issueStatusFor s.now.cause word

/-- An event record may join only while the free entries outnumber the status words with no entry waiting (R148). -/
def State.recordRoom (s : State) : Bool :=
  let absent := Config.statusWords.filter fun word => !(s.own.queue.any fun w => w.isStatus word)
  decide (absent.length < Config.ownPlaces - s.own.queue.length)

/-! ### Event records -/

/-- The fields of an event record; a field a kind does not use stays 0 (chapter 08, "Event record layout"). -/
structure EventFields where
  kind : Nat
  tag : Nat := 0
  number : Nat := 0
  burst : Nat := 0
  channel : Option Nat := none
  index : Option Nat := none
  reason : Nat := 0
  spreadAbsent : Bool := false
  metricsAbsent : Bool := false
  origin : Nat := 0
  stage : Nat := 0
  status : Nat := 0
  w4 : Word := 0
  w5 : Word := 0
  w6 : Word := 0
  w7 : Word := 0
  deriving DecidableEq, Repr

/-- Word w2 of an event record: tag, channel number, burst kind and local channel. -/
def keyWord (tag number burst : Nat) (channel : Option Nat) : Word :=
  packed [(tag, 16), (number, 12), (burst, 8), (flagField channel.isSome, 7), (channel.getD 0, 4)]

/-- The eight words of an event record, with sequence and lost flag still 0. -/
def EventFields.encode (f : EventFields) (time : Time) : List Word :=
  [ packed [(f.kind, 24)],
    time,
    keyWord f.tag f.number f.burst f.channel,
    packed [(f.index.getD 0, 0), (flagField f.index.isSome, 10), (f.reason, 16), (flagField f.spreadAbsent, 20),
      (flagField f.metricsAbsent, 21), (f.origin, 22), (f.stage, 24), (f.status, 26)],
    f.w4, f.w5, f.w6, f.w7 ]

/-- A record is written to the ring: it takes the sequence and the lost flag, goes to slot P, P rises, the producer
index word follows, and a record of an attention kind moves the mark (R169). -/
def State.writeRecord (s : State) (e : EventRecord) : State :=
  let a := s.settings.active
  let w0 : Word := e.words.headD 0 ||| packed [(flagField s.events.lost, 23), (s.events.sequence.toNat, 0)]
  let address : Word := BitVec.ofNat 32 (eventBase a + 32 * s.events.producer)
  let producer := (s.events.producer + 1) % eventSlots a
  let t : State := { s with
    own := { s.own with queue := s.own.queue ++ [{ body := .record address (w0 :: e.words.tail), cause := e.cause }] }
    events := { s.events with
      sequence := s.events.sequence + 1
      lost := false
      producer := producer
      mark := if attentionKind a e.kind then producer else s.events.mark } }
  t.issueStatusFor e.cause Config.producerWord

/-- The event writer may write a record to the ring: the ring is not full and the own-write queue has room (R169). -/
def State.canWriteRecord (s : State) : Bool := !s.ringFull && s.recordRoom

/-- An event offered to the event writer: dropped when its kind is off, written now, held, or discarded with the lost
flag set (R169, R170). The second part says whether it was discarded. -/
def State.offerEvent (s : State) (e : EventRecord) : State × Bool :=
  if !eventEnabled s.settings.active e.kind then (s, false)
  else if s.events.holding.isEmpty && s.canWriteRecord then (s.writeRecord e, false)
  else if s.events.holding.length < Config.holdingPlaces then
    ({ s with events := { s.events with holding := s.events.holding ++ [e] } }, false)
  else ({ s with events := { s.events with lost := true } }, true)

/-- The holding queue is written out while ring and own-write queue have room (R169). -/
def State.writeOut (s : State) : List EventRecord → State
  | [] => s
  | e :: rest =>
    if s.canWriteRecord then
      State.writeOut ({ s with events := { s.events with holding := rest } }.writeRecord e) rest
    else s

/-- The head of the holding queue is written, and the next, as far as there is room (R169). -/
def State.writeOutHeld (s : State) : State := s.writeOut s.events.holding

/-! ### Errors (R175, R176) -/

/-- Steps 1 to 3 of setting an error, but for the ERROR event: the status bit and its word, the first pointer and its
word, and the handing of a fatal setting to the part state. The second part says whether an ERROR event is due. -/
def State.markError (s : State) (k : ErrorKind) : State × Bool :=
  let a := s.settings.active
  let was := s.events.errors.getLsbD k.code
  let s1 := { s with events := { s.events with errors := s.events.errors ||| (1#10 <<< k.code) } }
  let s2 := if was then s1 else s1.issueStatus Config.errorStatusWord
  if errorMasked a k.code then (s2, false)
  else
    let loads := s2.events.firstPointer.isNone
    let s3 :=
      if loads then
        { s2 with events := { s2.events with firstPointer := some k } }.issueStatus Config.firstPointerWord
      else s2
    let s4 :=
      if errorFatal a k.code && s.part != .stopped then { s3 with now := { s3.now with stopDue := true } } else s3
    (s4, loads)

/-- The ERROR event of an error kind (R175, step 2). -/
def State.errorEvent (s : State) (k : ErrorKind) : EventFields :=
  { kind := 12
    reason := k.code
    w4 := packed [(s.events.errors.toNat, 0), (flagField (errorFatal s.settings.active k.code), 16)] }

/-- The record of an event handed on at this step (R172). -/
def State.formRecord (s : State) (f : EventFields) (time : Time) : EventRecord :=
  { kind := f.kind, words := f.encode time, cause := s.now.cause }

/-- An event is handed to the event writer. One that is discarded sets EVENT_LOSS; the ERROR event of that setting, if
the first pointer was empty, meets the same full holding queue (R170, R176). -/
def State.handOn (s : State) (f : EventFields) (time : Time) : State :=
  match s.offerEvent (s.formRecord f time) with
  | (s1, false) => s1
  | (s1, true) =>
    match s1.markError .eventLoss with
    | (s2, false) => s2
    | (s2, true) => (s2.offerEvent (s2.formRecord (s2.errorEvent .eventLoss) time)).1

/-- A block sets an error (R175). ATTN is judged afresh when the step ends. -/
def State.setError (s : State) (k : ErrorKind) (time : Time) : State :=
  match s.markError k with
  | (s1, false) => s1
  | (s1, true) => s1.handOn (s1.errorEvent k) time

/-! ### Results -/

/-- The result codes of commands (R162). -/
inductive CommandResult where
  | done
  | busy
  | badArgument
  | notFound
  | notRunning
  | abandoned
  | targetTaken
  | closed
  | quota
  deriving DecidableEq, Repr

def CommandResult.code : CommandResult → Nat
  | .done => 1
  | .busy => 2
  | .badArgument => 3
  | .notFound => 4
  | .notRunning => 5
  | .abandoned => 6
  | .targetTaken => 7
  | .closed => 8
  | .quota => 9

/-- The command result word: command sequence, command code, flags and result (chapter 08). -/
def commandResultValue (sequence : BitVec 16) (code flags : Nat) (result : CommandResult) : Word :=
  packed [(sequence.toNat, 16), (code, 8), (flags, 4), (result.code, 0)]

/-- A command result is handed to the event writer (R162). -/
def State.commandAnswer (s : State) (sequence : BitVec 16) (code flags : Nat) (result : CommandResult) : State :=
  { s with events := { s.events with commandResult := commandResultValue sequence code flags result } }.issueStatus
    Config.commandResultWord

/-- The results of an apply (R159). -/
inductive ApplyResult where
  | applied
  | refusedInvalid (offset : Nat)
  | refusedStructural (offset : Nat)
  | refusedStopped
  deriving DecidableEq, Repr

/-- The apply result word: apply sequence, result code and offset (R159). -/
def applyResultValue (sequence : BitVec 16) : ApplyResult → Word
  | .applied => packed [(sequence.toNat, 16), (1, 12)]
  | .refusedInvalid offset => packed [(sequence.toNat, 16), (2, 12), (offset, 0)]
  | .refusedStructural offset => packed [(sequence.toNat, 16), (3, 12), (offset, 0)]
  | .refusedStopped => packed [(sequence.toNat, 16), (4, 12)]

/-- An apply result is handed to the event writer (R159). -/
def State.applyAnswer (s : State) (sequence : BitVec 16) (result : ApplyResult) : State :=
  { s with events := { s.events with applyResult := applyResultValue sequence result } }.issueStatus
    Config.applyResultWord

end Sys2Proof.Machine
end

