-- ==== Sys2Proof/Machine/Contexts.lean ====
section
/-!
DEFINITION. The station context table: records and their check codes (R3, R26), the directory (R2), abandonment of the
correction in flight (R48), release (R18), integrity failures (R27, R28), restart (R17), occupation by a new station
(R12, R14, R23), confirmation (R71) and ageing (R24, R25).
-/

namespace Sys2Proof.Machine

/-! ### Records -/

/-- The place of a key in the directory. -/
def Key.number (k : Key) : Nat := k.channel * 16384 + k.tag

/-- The record of an occupied context; a vacant one has none. -/
def State.context? (s : State) (index : Nat) : Option Context := Table.get? s.table.contexts index

/-- A record is written whole, with a new check code (R26). -/
def State.writeContext (s : State) (index : Nat) (c : Context) : State :=
  { s with table := { s.table with contexts := Table.set s.table.contexts index { c with intact := true } } }

/-- Identity coefficients at a main position (R4). -/
def identityCoefficients (main : Nat) : List Tap :=
  (List.range Config.tapCount).map fun k => if k = main then ⟨Config.unity, 0⟩ else ⟨0, 0⟩

/-- The initial committed values at a channel's main position (R4). -/
def initialCommitted (main : Nat) : Committed :=
  { timing := 0, residue := 0, power := 0, frequency := 0, coefficients := identityCoefficients main }

/-! ### The correction in flight -/

/-- The correction in flight ends; busy clears on its context if that is still occupied (R9, R48). -/
def State.endFlight (s : State) : State :=
  match s.flight with
  | none => s
  | some f =>
    match s.context? f.index with
    | none => { s with flight := none }
    | some c => { s.writeContext f.index { c with busy := false } with flight := none }

/-- A correction in flight for this context is abandoned (R48). -/
def State.abandonFor (s : State) (index : Nat) : State :=
  match s.flight with
  | none => s
  | some f => if f.index = index then s.endFlight else s

/-! ### Events about stations -/

/-- The fields of an event that carries a key and an index (log 10). -/
def State.stationFields (s : State) (kind : Nat) (key : Key) (index : Nat) : EventFields :=
  { kind := kind
    tag := key.tag
    number := claimedNumber s.settings.active key.channel
    channel := some key.channel
    index := some index }

/-- Words w5 of errors E and F, as STATION_RELEASED carries them. -/
def errorsWord (timingError frequencyError : Int) : Word :=
  packed [(toField 16 timingError, 16), (toField 16 frequencyError, 0)]

/-- Word w6 of G, MER and SP, as STATION_RELEASED carries them. -/
def qualityWord (powerError : Int) (mer : Nat) (spread : Option Nat) : Word :=
  packed [(toField 8 powerError, 24), (mer, 16), (spread.getD 0, 0)]

/-- An event with origin, last heard and the last metrics of a record (chapter 08, STATION_RELEASED). -/
def EventFields.withHistory (f : EventFields) (c : Context) : EventFields :=
  let f : EventFields := { f with origin := c.origin.code, w4 := c.lastHeard }
  match c.metrics with
  | none => { f with spreadAbsent := true, metricsAbsent := true, status := 7 }
  | some m =>
    { f with
      spreadAbsent := m.spread.isNone
      status := (m.status.map Status.code).getD 7
      w5 := errorsWord m.timingError m.frequencyError
      w6 := qualityWord m.powerError m.mer m.spread }

/-! ### Release (R18, R27, R28) -/

/-- The release reasons (R18). -/
inductive ReleaseReason where
  | abortDelivered
  | dropped
  | reclaimed
  | lost
  | integrity
  | moved
  deriving DecidableEq, Repr

def ReleaseReason.code : ReleaseReason → Nat
  | .abortDelivered => 1
  | .dropped => 2
  | .reclaimed => 3
  | .lost => 4
  | .integrity => 5
  | .moved => 6

/-- The slot map entries that name a context are cleared. -/
def State.clearSlotsOf (s : State) (index : Nat) : State :=
  { s with slotMap := s.slotMap.filter fun p => p.2 != index }

/-- Steps 1 to 6 of a release, but for handing on the counts: the correction in flight is abandoned, slot map entry,
deadlines and directory entry go, the record takes its vacant values, and an INTEGRITY release quarantines the index
(R18, R28). -/
def State.vacate (s : State) (index : Nat) (reason : ReleaseReason) : State :=
  let s := ((s.abandonFor index).clearSlotsOf index).removeDeadlines index
  { s with table := { s.table with
      directory := s.table.directory.filter fun p => p.2 != index
      contexts := Table.erase s.table.contexts index
      quarantined := if reason = .integrity then s.table.quarantined ++ [index] else s.table.quarantined } }

/-- The changed counts of a local channel are handed to the event writer (R1); the free-context count is among them
where it changed, and goes first (DEDUCED, log 12). -/
def State.issueCounts (s : State) (channel : Nat) (freeChanged : Bool) : State :=
  let s := if freeChanged then s.issueStatus Config.freeCountWord else s
  s.issueStatus (Config.occupiedCountWord + channel)

/-- A context is released, with its counts and its STATION_RELEASED event (R18). -/
def State.release (s : State) (index : Nat) (reason : ReleaseReason) (time : Time) (stage : Nat) : State :=
  match s.context? index with
  | none => s
  | some c =>
    let t := (s.vacate index reason).issueCounts c.key.channel (reason != .integrity)
    let f : EventFields := { t.stationFields 4 c.key index with reason := reason.code, stage := stage }
    t.handOn (f.withHistory c) time

/-- A check fails on reading a context: it is released with reason INTEGRITY and its index quarantined, and then
CONTEXT_INTEGRITY is set (R27). DEDUCED (log 20): the error is set too where that release's event was lost with a fatal
EVENT_LOSS within a taking, which ends after it. -/
def State.integrityRelease (s : State) (index : Nat) (time : Time) : State :=
  (s.release index .integrity time 0).setError .contextIntegrity time

/-- A lookup of a station through the directory, which reads the context and checks its code: the index of a known
key, or none for an unknown one (R2, R26, R27). -/
def State.lookup (s : State) (key : Key) (time : Time) : State × Option Nat :=
  match Table.get? s.table.directory key.number with
  | none => (s, none)
  | some index =>
    match s.context? index with
    | none => (s, none)
    | some c => if c.intact then (s, some index) else (s.integrityRelease index time, none)

/-- The context that owns a staging slot returns from ISSUED to READY and the slot's entry is cleared (R99, R101,
R102; log 9). -/
def State.unmapSlot (s : State) (slot : Nat) : State :=
  match Table.get? s.slotMap slot with
  | none => s
  | some index =>
    let t := { s with slotMap := Table.erase s.slotMap slot }
    match t.context? index with
    | none => t
    | some c =>
      match c.correction with
      | .none => t
      | .ready _ => t
      | .issued issued _ => t.writeContext index { c with correction := .ready issued }
      | .sent _ _ => t

/-! ### A station comes in (R12, R13, R14, R23) -/

/-- The lowest-numbered vacant index that is not quarantined (R12, R28). -/
def State.lowestFree (s : State) : Option Nat :=
  (List.range Config.contextCount).find? fun i =>
    (s.context? i).isNone && !s.table.quarantined.contains i

/-- A context is given to a station: the key joins the directory, the record is written, SILENCE is armed and the
changed counts are handed on (R12). -/
def State.occupy (s : State) (index : Nat) (key : Key) (station : StationState) (origin : Birth) (committed : Committed)
    (time : Time) (stage : Stage) (interval : Nat) : State :=
  let record : Context :=
    { key := key, station := station, correction := .none, busy := false, committed := committed, attempts := 0, age := 0,
      lastHeard := time, metrics := none, origin := origin, intact := true }
  let s := { s with table := { s.table with directory := Table.set s.table.directory key.number index } }
  ((s.writeContext index record).arm index (.silence stage) (later time interval)).issueCounts key.channel true

/-! ### Restart (R17, R22) -/

/-- A context restarts: CONTACT, the initial committed values, attempts and age 0, no correction, its slot unmapped, its
CONFIRM deadline removed and SILENCE armed for CONTACT. STATION_RESTARTED carries the reason: 1 report, 2 command. -/
def State.restart (s : State) (index : Nat) (a : Table Word) (time : Time) (reason : Nat) : State :=
  match s.context? index with
  | none => s
  | some c =>
    let channel := c.key.channel
    let record : Context :=
      { c with
        station := .contact
        correction := .none
        committed := initialCommitted (mainPosition a channel)
        attempts := 0
        age := 0
        lastHeard := time
        origin := .contact }
    let t := (((s.clearSlotsOf index).removeDeadline index .confirm).writeContext index record).arm index
      (.silence .contact) (later time (contactSilence a channel))
    let f : EventFields := { t.stationFields 3 c.key index with reason := reason }
    t.handOn f time

/-! ### Confirmation (R45, R71) -/

/-- What confirmation makes of the committed values (R71). -/
def Committed.confirm (v : Committed) (issued : Issued) : Committed :=
  { timing := v.timing + issued.timing
    residue := issued.residue
    power := v.power + issued.power
    frequency := v.frequency + issued.frequency
    coefficients := issued.coefficients.getD v.coefficients }

/-- The station state after an event with this next state (R6). -/
def NextState.apply (n : NextState) (station : StationState) : StationState :=
  match n with
  | .unchanged => station
  | .contact => .contact
  | .tracking => .tracking

/-- An event about an issued correction: its status, conditions and delivery time (chapter 08,
CORRECTION_CONFIRMED). -/
def EventFields.withIssued (f : EventFields) (issued : Issued) (delivered : Time) : EventFields :=
  { f with status := issued.status.code, w4 := issued.conditions.setWidth 32, w5 := delivered }

/-- A SENT correction is confirmed: its values are committed, the next state acts, SUCCESS clears attempts, the CONFIRM
deadline goes, and CORRECTION_CONFIRMED is written (R45). -/
def State.confirm (s : State) (index : Nat) (c : Context) (issued : Issued) (delivered time : Time) : State :=
  let record : Context :=
    { c with
      committed := c.committed.confirm issued
      station := issued.next.apply c.station
      attempts := if issued.status = .success then 0 else c.attempts
      correction := .none }
  let t := (s.removeDeadline index .confirm).writeContext index record
  t.handOn ((t.stationFields 8 c.key index).withIssued issued delivered) time

/-- A SENT correction is withdrawn: it is discarded, attempts rise, and CORRECTION_UNCONFIRMED is written (R114). -/
def State.withdraw (s : State) (index : Nat) (c : Context) (issued : Issued) (delivered time : Time) : State :=
  let t := s.writeContext index { c with correction := .none, attempts := min 255 (c.attempts + 1) }
  t.handOn ((t.stationFields 9 c.key index).withIssued issued delivered) time

end Sys2Proof.Machine
end

