-- ==== Sys2Proof/WellFormed.lean ====
section
/-!
DEFINITION. When a command has the form the manual gives it. The initiator port takes well-formed requests only.
-/

namespace Sys2Proof

/-- How many words a request covers. -/
def Request.words (r : Request) : Nat :=
  match r.body with
  | .read n => n
  | .write ws => ws.length

/-- A request of the form R136 gives: a word-aligned address and a word count of 1..64. -/
def Request.wellFormed (r : Request) : Bool :=
  r.address.toNat % 4 == 0 && decide (1 ≤ r.words) && decide (r.words ≤ Config.maxWords)

/-- A settle step may take its request from anywhere; the request has the form of R136. -/
def Origin.wellFormed : Origin → Bool
  | .port r => r.wellFormed
  | .stalled => true
  | .waiting _ => true

/-- A request that joins the waiting buffer comes from the port, presented or standing there. -/
def Origin.fromPort : Origin → Bool
  | .port r => r.wellFormed
  | .stalled => true
  | .waiting _ => false

/-- A command has the form the manual gives it. -/
def Instr.wellFormed : Instr → Bool
  | .powerOnReset _ => true
  | .syncLoad => true
  | .requestWait o => o.fromPort
  | .forwardWrite o => o.wellFormed
  | .forwardRead o => o.wellFormed
  | .blockedWrite o => o.wellFormed
  | .reportWrite o => o.wellFormed
  | .tornWrite o => o.wellFormed
  | .responseWrite o => o.wellFormed
  | .responseNotTaken o => o.wellFormed
  | .deliveryRead o => o.wellFormed
  | .settingsWrite o => o.wellFormed
  | .applyWrite o => o.wellFormed
  | .consumerIndexWrite o => o.wellFormed
  | .softReset o => o.wellFormed
  | .channelClose o => o.wellFormed
  | .stationDrop o => o.wellFormed
  | .stationRestart o => o.wellFormed
  | .stationMove o => o.wellFormed
  | .drain o => o.wellFormed
  | .drainDone => true
  | .errorClear o => o.wellFormed
  | .memoryCompletion c => decide (c.data.length ≤ Config.maxWords)
  | .ownWriteSend => true
  | .ownWriteAck _ _ => true
  | .eventWriteOut => true
  | .takeHead => true
  | .ageingCount => true
  | .notedCompletion => true
  | .fullCompletion => true
  | .silenceExpiry => true
  | .confirmExpiry => true
  | .ageingTimer => true
  | .pclkTick => true
  | .rstnLow => true

end Sys2Proof
end

