-- ==== Sys2Proof/Machine/Operands.lean ====
section
/-!
DEFINITION. What the blocks read from a request: its range, its words and lanes, the windows it falls in, and from
the state: where a step's request comes from and whether its turn has come (R136, R139, R144).
-/

namespace Sys2Proof.Machine

/-- First byte of a request's address range (R136). -/
def Request.first (r : Request) : Nat := r.address.toNat

/-- Bytes in a request's address range (R136). -/
def Request.bytes (r : Request) : Nat := 4 * r.words

/-- The request is a WRITE. -/
def Request.isWrite (r : Request) : Bool :=
  match r.body with
  | .read _ => false
  | .write _ => true

/-- The words a write carries. -/
def Request.laneWords (r : Request) : List LaneWord :=
  match r.body with
  | .read _ => []
  | .write ws => ws

/-- The data of word `k` of a write. -/
def Request.word (r : Request) (k : Nat) : Word :=
  ((Request.laneWords r)[k]?.map LaneWord.data).getD 0

/-- Every byte lane of every word is on. -/
def Request.allLanes (r : Request) : Bool :=
  (Request.laneWords r).all fun w => w.lanes == 0xF

/-- The request's range shares a byte with another range (R136). -/
def Request.meets (r : Request) (base bytes : Nat) : Bool :=
  rangesMeet (Request.first r) (Request.bytes r) base bytes

/-- Two requests overlap (R136). -/
def Request.overlaps (r q : Request) : Bool :=
  Request.meets r (Request.first q) (Request.bytes q)

/-- The request overlaps the part's settings window (R141). -/
def Request.meetsWindow (r : Request) (straps : Straps) : Bool :=
  Request.meets r (windowBase straps) Config.windowBytes

/-- The window word that word `k` of a request falls on, if it falls in the window. -/
def Request.windowWord (r : Request) (straps : Straps) (k : Nat) : Option Nat :=
  let address := Request.first r + 4 * k
  if windowBase straps ≤ address ∧ address < windowBase straps + Config.windowBytes then
    some ((address - windowBase straps) / 4)
  else none

/-- A write covers a window word with every byte lane on (R155). -/
def Request.covers (r : Request) (straps : Straps) (word : Nat) : Bool :=
  (List.range r.words).any fun k =>
    Request.windowWord r straps k == some word &&
      ((Request.laneWords r)[k]?.map LaneWord.lanes) == some 0xF

/-! ### Where a request comes from, and its turn -/

/-- The request a step acts on: a well-formed one presented at a port that is taking requests, the one standing at the
stopped port, or the first of its source in the waiting buffer (R144, R145). -/
def State.requestAt (s : State) : Origin → Option Request
  | .port r => if s.forwarder.stalled.isNone && r.wellFormed then some r else none
  | .stalled => s.forwarder.stalled
  | .waiting source => s.forwarder.waiting.find? fun r => r.source == source

/-- The state once the request has left where it came from. -/
def State.leaving (s : State) : Origin → State
  | .port _ => s
  | .stalled => { s with forwarder := { s.forwarder with stalled := none } }
  | .waiting source =>
    { s with forwarder := { s.forwarder with waiting := s.forwarder.waiting.eraseP fun r => r.source == source } }

/-- A source has a held write. -/
def State.sourceHeld (s : State) (source : BitVec 4) : Bool :=
  s.forwarder.held.any fun h => h.request.source == source

/-- A source has a waiting request. -/
def State.sourceWaiting (s : State) (source : BitVec 4) : Bool :=
  s.forwarder.waiting.any fun r => r.source == source

/-- A read overlaps a held write. -/
def State.readBehindHeld (s : State) (r : Request) : Bool :=
  !Request.isWrite r && s.forwarder.held.any fun h => Request.overlaps r h.request

/-- The request has reached its turn: nothing of its source stands before it, and a read overlaps no held write
(R139, R144). -/
def State.atTurn (s : State) (o : Origin) (r : Request) : Bool :=
  let behindWaiting :=
    match o with
    | .port _ => s.sourceWaiting r.source
    | .stalled => s.sourceWaiting r.source
    | .waiting _ => false
  !s.sourceHeld r.source && !behindWaiting && !s.readBehindHeld r

/-! ### What a request at its turn is to the blocks -/

/-- The part is RUNNING. -/
def State.running (s : State) : Bool := s.part == .running

/-- A write that fails a guard check (R140, R141). -/
def State.guardFails (s : State) (r : Request) : Bool :=
  let a := s.settings.active
  Request.isWrite r &&
    ((s.part != .setup && (r.source == receiverSource a || r.source == transmitSource a) && guardSize a != 0 &&
        Request.meets r (guardBase a * 4096) (guardSize a * 4096)) ||
      (r.source != s.pins.straps.settingsSource && Request.meetsWindow r s.pins.straps))

/-- The slot of the report ring at which a write taken as a report starts (R30). DEDUCED (log 42): a write that waited in
the part across an apply is judged at its turn by the new ring. -/
def State.reportSlot? (s : State) (r : Request) : Option Nat :=
  let a := s.settings.active
  if s.running && Request.isWrite r && r.source == receiverSource a && Request.allLanes r && decide (4 ≤ r.words) &&
      decide (4 + bits (Request.word r 0) 7 0 ≤ r.words) then
    slotAt (reportBase a) (reportSlots a) (Request.first r)
  else none

/-- A torn write: a receiver write that overlaps the report ring in RUNNING and is not taken (R31). -/
def State.tornWrite (s : State) (r : Request) : Bool :=
  let a := s.settings.active
  s.running && Request.isWrite r && r.source == receiverSource a &&
    Request.meets r (reportBase a) (reportSlots a * Config.slotBytes) && (s.reportSlot? r).isNone

/-- The staging slot at which a write taken as a response starts (R98). DEDUCED (log 42): a request that waited in the
part across an apply is judged at its turn by the new area. -/
def State.responseSlot? (s : State) (r : Request) : Option Nat :=
  let a := s.settings.active
  if s.running && Request.isWrite r && inMacSet a r.source && Request.allLanes r && decide (22 ≤ r.words) &&
      decide (bits (Request.word r 0) 7 0 ≤ r.words) && bits (Request.word r 0) 31 24 == 0x5C &&
      bits (Request.word r 0) 23 16 == 1 then
    slotAt (stagingBase a) (stagingSlots a) (Request.first r)
  else none

/-- A write that overlaps the staging area in RUNNING and is not taken as a response (R99). -/
def State.responseNotTaken (s : State) (r : Request) : Bool :=
  let a := s.settings.active
  s.running && Request.isWrite r && Request.meets r (stagingBase a) (stagingSlots a * Config.slotBytes) &&
    (s.responseSlot? r).isNone

/-- A write not taken that looks like a response, so that SHORT_RESPONSE is set (R99). -/
def State.looksLikeResponse (s : State) (r : Request) : Bool :=
  let a := s.settings.active
  inMacSet a r.source && (slotAt (stagingBase a) (stagingSlots a) (Request.first r)).isSome &&
    ((Request.laneWords r)[0]?.map LaneWord.lanes) == some 0xF && bits (Request.word r 0) 31 24 == 0x5C

/-- The staging slot whose first word a delivery read includes (R110). A read reaches at most one. -/
def State.deliverySlot? (s : State) (r : Request) : Option Nat :=
  let a := s.settings.active
  if s.running && !Request.isWrite r && r.source == transmitSource a then
    (List.range (stagingSlots a)).find? fun k =>
      decide (Request.first r ≤ slotStart (stagingBase a) k) &&
        decide (slotStart (stagingBase a) k < Request.first r + Request.bytes r)
  else none

/-- A settings write: a write from the settings source that overlaps the window (R155). -/
def State.settingsRequest (s : State) (r : Request) : Bool :=
  Request.isWrite r && r.source == s.pins.straps.settingsSource && Request.meetsWindow r s.pins.straps

/-- What a write that is not blocked and not taken as a response can meet: the report intake, the fill unit or the
settings intake. -/
def State.examined (s : State) (r : Request) : Bool :=
  (s.reportSlot? r).isSome || s.tornWrite r || (s.responseSlot? r).isSome || s.responseNotTaken r || s.settingsRequest r

end Sys2Proof.Machine
end

