-- ==== Sys2Proof/Machine/Sending.lean ====
section
/-!
DEFINITION. The part's own writes sent: when the head of their queue may be sent, as which request it goes to the memory
port, and the priority it has there over a forwarded request (R148 to R150).
-/

namespace Sys2Proof.Machine

/-- The cause of an own write has been met: the forwarded write it waits for has been acknowledged, and so is not the one
this step is about to pass (R150). -/
def State.causeMet (s : State) (w : OwnWrite) : Bool :=
  match w.cause with
  | none => true
  | some serial => s.now.cause != some serial && !s.forwarder.inFlight.any fun q => q.serial == serial

/-- The address of a status-area word. -/
def State.statusAddress (s : State) (word : Nat) : Word :=
  BitVec.ofNat 32 (windowBase s.pins.straps + 4 * word)

/-- An own write as a request at the memory port: own source number, every lane on, the next tag (R148). -/
def State.ownRequest (s : State) (w : OwnWrite) : Request :=
  { address :=
      match w.body with
      | .record address _ => address
      | .status word _ => s.statusAddress word
    source := s.pins.straps.ownSource
    tag := s.own.nextTag.toNat
    body := .write ((match w.body with
      | .record _ words => words
      | .status _ value => [value]).map fun data => { lanes := 0xF, data := data }) }

/-- An own write at the head of its queue may be sent (R148, R149). -/
def State.maySend (s : State) (w : OwnWrite) : Bool :=
  s.causeMet w && decide (s.own.outstanding.length < Config.ownOutstanding) &&
    !s.own.outstanding.any fun o => o.tag == s.own.nextTag

/-- The own-write queue has a head, and it may be sent (R149). -/
def State.ownReady (s : State) : Bool := s.own.queue.head?.any s.maySend

/-- The head of the own-write queue is sent, and the room it leaves lets held events be written (R149, R169; log 18). -/
def State.sendOwn (s : State) : State :=
  match s.own.queue with
  | [] => s
  | w :: rest =>
    if s.maySend w then
      let t : State := { s with
        forwarder := { s.forwarder with toMemory := s.forwarder.toMemory ++ [s.ownRequest w] }
        own :=
          { queue := rest
            outstanding := s.own.outstanding ++ [{ tag := s.own.nextTag, beforeReset := false }]
            nextTag := s.own.nextTag + 1 } }
      t.writeOutHeld
    else s

/-- Own writes are sent while the head may be, at most so many. -/
def State.sendUpTo : Nat → State → State
  | 0, s => s
  | n + 1, s => if s.ownReady then State.sendUpTo n s.sendOwn else s

/-- The own writes that go to the memory port before a forwarded request that is ready: the head of their queue, while it
may be sent (R149; log 40). No more than 256 can be outstanding. -/
def State.sendReady (s : State) : State := State.sendUpTo Config.ownOutstanding s

end Sys2Proof.Machine
end

