-- ==== Sys2Proof/Machine/Fill.lean ====
section
/-!
DEFINITION. Forwarding (R137), the filling of responses (R101 to R106), writes not taken (R99), and the release of held
writes to the fill unit (R103, R143, R146).
-/

namespace Sys2Proof.Machine

/-! ### Forwarding -/

/-- A request comes to be forwarded: own writes that may be sent go first (R149; log 40); then it takes the next number,
and own writes made from here on wait for its acknowledgement (R150). -/
def State.beginForward (s : State) : State :=
  let t := s.sendReady
  { t with
    forwarder := { t.forwarder with nextSerial := t.forwarder.nextSerial + 1 }
    now := { t.now with cause := some t.forwarder.nextSerial } }

/-- A request is passed to the memory port under its number, and is in flight (R136, R137). -/
def State.forwardAs (s : State) (serial : Nat) (r : Request) : State :=
  { s with forwarder := { s.forwarder with
      inFlight := s.forwarder.inFlight ++ [{ serial := serial, source := r.source, tag := r.tag }]
      toMemory := s.forwarder.toMemory ++ [r] } }

/-- What own writes made from here on wait for. -/
def State.withCause (s : State) (cause : Option Nat) : State := { s with now := { s.now with cause := cause } }

/-! ### The words of a filled response -/

/-- What a fill writes into words w2 to w21; no status leaves w2 as firmware wrote it (R102). -/
structure Fill where
  status : Option Status
  timing : Word
  levels : Word
  coefficients : Option (List Tap)
  result : Nat
  deriving DecidableEq, Repr

/-- Word w4: power and frequency adjustments. -/
def levelsWord (power frequency : Int) : Word :=
  packed [(toField 16 power, 16), (toField 16 frequency, 0)]

/-- A tap as a response carries it. -/
def tapWord (t : Tap) : Word := packed [(toField 16 t.re, 16), (toField 16 t.im, 0)]

/-- Word `k` of a filled response whose word was `old` (R102). -/
def Fill.word (f : Fill) (main k : Nat) (old : Word) : Word :=
  if k = 2 then (f.status.map fun st => packed [(st.code, 0)]).getD old
  else if k = 3 then f.timing
  else if k = 4 then f.levels
  else if k = 5 then packed [(flagField f.coefficients.isSome, 16), (main, 8), (f.result, 0)]
  else if 6 ≤ k ∧ k ≤ 21 then ((f.coefficients.bind fun ts => ts[k - 6]?).map tapWord).getD 0
  else old

/-- The words of a write with a fill's words in place, counted from `k`. -/
def Fill.patch (f : Fill) (main : Nat) : Nat → List LaneWord → List LaneWord
  | _, [] => []
  | k, w :: ws => { w with data := f.word main k w.data } :: Fill.patch f main (k + 1) ws

/-- The response as it is forwarded: address, source, tag and lanes unchanged, words w2 to w21 filled (R137). -/
def Fill.request (f : Fill) (main : Nat) (r : Request) : Request :=
  match r.body with
  | .read _ => r
  | .write ws => { r with body := .write (f.patch main 0 ws) }

/-- The fill from an issued correction (R102). -/
def Issued.fill (i : Issued) : Fill :=
  { status := some i.status
    timing := BitVec.ofInt 32 i.timing
    levels := levelsWord i.power i.frequency
    coefficients := i.coefficients
    result := 1 }

/-- A fill that carries a status and nothing else (R102). -/
def emptyFill (status : Option Status) (result : Nat) : Fill :=
  { status := status, timing := 0, levels := 0, coefficients := none, result := result }

/-- The fill result of a slot for the context a response finds (R102). -/
def fillFor (slot : Nat) : Option Context → Fill
  | none => emptyFill none 3
  | some c =>
    match c.correction with
    | .none => emptyFill (some (if c.station = .tracking ∨ c.station = .due then .success else .cont)) 2
    | .ready issued => issued.fill
    | .issued issued k => if k = slot then issued.fill else emptyFill (some .cont) 4
    | .sent _ _ => emptyFill (some .cont) 4

/-- The slot's previous owner, if it is another context than the one found, is unmapped (R102). -/
def State.settleOwner (s : State) (slot : Nat) (found : Option Nat) : State :=
  match Table.get? s.slotMap slot with
  | none => s
  | some index => if found = some index then s else s.unmapSlot slot

/-- A response is filled against the context found and forwarded; from READY the context becomes ISSUED in the slot and
the slot names it (R102, R104). -/
def State.fillAndForward (s : State) (serial : Nat) (r : Request) (key : Key) (slot : Nat) (found : Option Nat) : State :=
  let t := s.settleOwner slot found
  let main := mainPosition t.settings.active key.channel
  let c := found.bind t.context?
  let filled := (fillFor slot c).request main r
  let u :=
    match found, c with
    | some index, some c =>
      match c.correction with
      | .none => t
      | .ready issued =>
        { t.writeContext index { c with correction := .issued issued slot } with slotMap := Table.set t.slotMap slot index }
      | .issued _ _ => t
      | .sent _ _ => t
    | _, _ => t
  u.forwardAs serial filled

/-! ### Writes not taken (R99) -/

/-- Every mapped slot of the staging area that a write overlaps is unmapped (R99). -/
def State.unmapOverlapped (s : State) (r : Request) : State :=
  let base := stagingBase s.settings.active
  (s.slotMap.keys.filter fun slot => Request.meets r (slotStart base slot) Config.slotBytes).foldl State.unmapSlot s

/-- What the fill unit does about a write that overlaps the staging area and is not taken: it unmaps the overlapped slots,
and sets SHORT_RESPONSE when the write looks like a response (R99). -/
def State.notTaken (s : State) (r : Request) : State :=
  if s.responseNotTaken r then
    let t := s.unmapOverlapped r
    if s.looksLikeResponse r then t.setError .shortResponse t.time.counter else t
  else s

/-! ### Held writes released (R103, R143, R146) -/

/-- A held write that has left the buffer goes to the fill unit: it is filled against the context as it now stands, or,
where the staging area has moved from under it, forwarded as a write not taken (R96, R103). -/
def State.fillHeldWrite (s : State) (h : HeldWrite) : State :=
  let serial := s.forwarder.nextSerial
  let t := s.beginForward
  let u :=
    match h.slot with
    | none => (t.notTaken h.request).forwardAs serial h.request
    | some slot =>
      match t.lookup h.key t.time.counter with
      | (v, found) => v.fillAndForward serial h.request h.key slot found
  u.withCause s.now.cause

/-- Every held write goes to the fill unit, in the order held. Every held write belongs to the station of the correction
in flight, so this is done when that ends (R143, R145; log 25). -/
def State.releaseHeld (s : State) : State :=
  s.forwarder.held.foldl State.fillHeldWrite { s with forwarder := { s.forwarder with held := [] } }

/-- Held writes are released once no correction is in flight. -/
def State.settleHeld (s : State) : State := if s.flight.isNone then s.releaseHeld else s

/-- A held write is forwarded as its source wrote it (R108, R146). -/
def State.forwardUnfilled (s : State) (h : HeldWrite) : State :=
  (s.beginForward.forwardAs s.forwarder.nextSerial h.request).withCause s.now.cause

/-- Every held write is forwarded unfilled, in the order held (R108). -/
def State.forwardHeldUnfilled (s : State) : State :=
  s.forwarder.held.foldl State.forwardUnfilled { s with forwarder := { s.forwarder with held := [] } }

/-! ### Releases that set held writes free -/

/-- A release, after which the writes held for the station find UNKNOWN_STATION (R18, R108). -/
def State.releaseStation (s : State) (index : Nat) (reason : ReleaseReason) (time : Time) (stage : Nat) : State :=
  (s.release index reason time stage).settleHeld

/-- An integrity release, after which the writes held for the station find UNKNOWN_STATION (R27, R108). -/
def State.failIntegrity (s : State) (index : Nat) (time : Time) : State :=
  (s.integrityRelease index time).settleHeld

end Sys2Proof.Machine
end

