-- ==== Sys2Proof/Machine/Part.lean ====
section
/-!
DEFINITION. Part states and ageing: entry to STOPPED (R180), how a step ends, the ageing step (R25), and the ageing
counter of REPORTS mode (R24).
-/

namespace Sys2Proof.Machine

/-! ### Entry to STOPPED -/

/-- A DRAIN in progress ends with the result ABANDONED (R154, R180). DESIGN CHOICE (log 50): also where its conditions have
come to hold in the step that stops the part. -/
def State.abandonDrain (s : State) : State :=
  match s.settings.draining with
  | none => s
  | some sequence =>
    { s with settings := { s.settings with draining := none } }.commandAnswer sequence 6 0 .abandoned

/-- The part enters STOPPED: the DRAIN ends, the correction in flight is abandoned, held writes go unfilled, and the part
state freezes time and intake (R180). -/
def State.enterStopped (s : State) : State :=
  { s.abandonDrain.endFlight.forwardHeldUnfilled with part := .stopped }

/-- A fatal setting made so far puts a part that is not stopped in STOPPED (R175, R180). -/
def State.stopIfDue (s : State) : State :=
  let t := { s with now := { s.now with stopDue := false } }
  if s.now.stopDue && s.part != .stopped then t.enterStopped else t

/-- How every step ends: a fatal setting takes effect, the cause of own writes is dropped, and ATTN is judged (R173,
R174, R180). DESIGN CHOICE (log 50): so a DRAIN whose conditions this step made hold is abandoned, not done. -/
def State.finish (s : State) : State :=
  let t := s.stopIfDue.withCause none
  { t with pins := { t.pins with attention := t.attentionLevel } }

/-- A step of a part that is not in reset: while RSTn is low nothing but its release acts (R177; log 6). -/
def State.act (s : State) (f : State → State) : Host.Outcome State Fault Refusal :=
  .next (if s.pins.resetLow then s else (f s).finish)

/-! ### Ageing -/

/-- An ageing step's effect on one context: it ages, unless its check code does not match (R25, R27). -/
def State.ageContext (s : State) (index : Nat) : State :=
  match s.context? index with
  | none => s
  | some c =>
    if c.intact then s.writeContext index { c with age := min 3 (c.age + 1) }
    else s.failIntegrity index s.time.counter

/-- An ageing step: every occupied context in ascending index order (R25). -/
def State.ageingStep (s : State) : State :=
  s.table.contexts.keys.foldl State.ageContext s

/-- The ageing step that the ageing counter makes when it stands at 16 x N or more, with its return to 0 (R24). -/
def State.ageByCount (s : State) : State :=
  let a := s.settings.active
  if !ageingByTime a && decide (1 ≤ ageingN a) && decide (16 * ageingN a ≤ s.table.ageing) then
    let t := s.ageingStep
    { t with table := { t.table with ageing := 0 } }
  else s

/-- In REPORTS mode the ageing counter counts a report that reached a context (R24, R44). With N = 0 there are no
ageing steps, and the counter counts on without a bound (DESIGN CHOICE, log 41). -/
def State.countReport (s : State) : State :=
  if ageingByTime s.settings.active then s
  else { s with table := { s.table with ageing := s.table.ageing + 1 } }.ageByCount

end Sys2Proof.Machine
end

