-- ==== Sys2Proof/Machine/Reports.lean ====
section
/-!
DEFINITION. The report intake: reading a report record (R32 to R34), its checks (R35 to R38) and the intake queue (R39
to R42).
-/

namespace Sys2Proof.Machine

/-! ### The report record (R32) -/

/-- The header of a report as it stands in the write, however it reads (R32, R38). -/
structure Header where
  mark : Nat
  format : Nat
  bodyLength : Nat
  sequence : BitVec 16
  number : Nat
  kindCode : Nat
  tag : Nat
  arrival : Time
  deriving DecidableEq, Repr

/-- The header is read from w0 to w3 (R32). -/
def readHeader (r : Request) : Header :=
  { mark := bits (Request.word r 0) 31 24
    format := bits (Request.word r 0) 23 16
    bodyLength := bits (Request.word r 0) 7 0
    sequence := BitVec.ofNat 16 (bits (Request.word r 1) 31 16)
    number := bits (Request.word r 1) 15 12
    kindCode := bits (Request.word r 1) 11 8
    tag := bits (Request.word r 2) 15 0
    arrival := Request.word r 3 }

/-- The burst kind of a code; 3..15 is invalid (R32). -/
def burstKind? : Nat → Option BurstKind
  | 0 => some .firstContact
  | 1 => some .keepalive
  | 2 => some .data
  | _ => none

/-- A station tag is in range (R32). -/
def tagInRange (tag : Nat) : Bool := decide (1 ≤ tag) && decide (tag ≤ 16383)

/-- What the sub-block walk recorded: where the first MEASURES and the first TAPS begin in the body (R33). -/
structure Walk where
  measures : Option Nat
  taps : Option Nat
  deriving DecidableEq, Repr

/-- The sub-block walk over a body, from word `at_` with `seen` sub-blocks seen; none when the report is malformed. The
ninth sub-block fails, so nine steps suffice (R33). -/
def walkBody (body : List Word) : Nat → Nat → Nat → Walk → Option Walk
  | 0, _, _, _ => none
  | fuel + 1, at_, seen, found =>
    if body.length ≤ at_ then some found
    else
      let typeWord := body.getD at_ 0
      let length := bits typeWord 7 0
      let kind := bits typeWord 31 24
      if length = 0 ∨ 20 < length ∨ body.length < at_ + length ∨ 8 ≤ seen ∨ (kind = 1 ∧ length ≠ 3) ∨
          (kind = 2 ∧ length ≠ 17) then none
      else
        let found :=
          if kind = 1 then { found with measures := found.measures.or (some at_) }
          else if kind = 2 then { found with taps := found.taps.or (some at_) }
          else found
        walkBody body fuel (at_ + length) (seen + 1) found

/-- The body of a report: the body-length words that follow w3 (R32). -/
def reportBody (r : Request) : List Word :=
  (((Request.laneWords r).map LaneWord.data).drop 4).take (readHeader r).bodyLength

/-- The measures of a recorded MEASURES sub-block (R34). -/
def readMeasures (body : List Word) (at_ : Nat) : Measures :=
  let first := body.getD (at_ + 1) 0
  let second := body.getD (at_ + 2) 0
  { timingError := signedField 16 (bits first 31 16)
    frequencyError := signedField 16 (bits first 15 0)
    powerError := signedField 8 (bits second 31 24)
    mer := bits second 23 16
    collision := second.getLsbD 0 }

/-- A tap as a report carries it. -/
def readTap (w : Word) : Tap := ⟨signedField 16 (bits w 31 16), signedField 16 (bits w 15 0)⟩

/-- The burst taps of a recorded TAPS sub-block (R34). -/
def readTaps (body : List Word) (at_ : Nat) : List Tap :=
  (List.range Config.tapCount).map fun k => readTap (body.getD (at_ + 1 + k) 0)

/-! ### The checks (R35 to R38) -/

/-- The reasons a report is rejected for (chapter 08, REPORT_REJECTED). -/
inductive RejectReason where
  | malformed
  | duplicate
  | skew
  | stale
  | overflow
  | displaced
  deriving DecidableEq, Repr

def RejectReason.code : RejectReason → Nat
  | .malformed => 1
  | .duplicate => 2
  | .skew => 3
  | .stale => 4
  | .overflow => 5
  | .displaced => 6

/-- What the checks make of a taken report. -/
inductive Checked where
  /-- it is of no open local channel (checks 2 and 3) -/
  | ignored
  /-- it is rejected, by the local channel where check 3 was passed (R38) -/
  | rejected (reason : RejectReason) (channel : Option Nat)
  /-- it passes every check -/
  | accepted (report : Report)
  deriving DecidableEq, Repr

/-- Checks 1 to 9, in their order (R35, R36, R37). -/
def State.checkReport (s : State) (r : Request) (slot : Nat) : Checked :=
  let h := readHeader r
  let a := s.settings.active
  let c := s.time.counter
  if h.mark ≠ 0xB7 ∨ h.format ≠ 1 then .rejected .malformed none
  else
    match claimant a h.number with
    | none => .ignored
    | some channel =>
      match burstKind? h.kindCode, tagInRange h.tag, walkBody (reportBody r) 10 0 0 ⟨none, none⟩ with
      | some kind, true, some ⟨some measures, taps⟩ =>
        if Table.get? s.intake.lastSequence channel = some h.sequence then .rejected .duplicate (some channel)
        else if atOrAfter h.arrival c then .rejected .skew (some channel)
        else if reportAgeLimit a < (c - h.arrival).toNat then .rejected .stale (some channel)
        else
          .accepted
            { channel := channel
              kind := kind
              tag := h.tag
              sequence := h.sequence
              arrival := h.arrival
              measures := readMeasures (reportBody r) measures
              taps := taps.map (readTaps (reportBody r))
              slot := slot }
      | _, _, _ => .rejected .malformed (some channel)

/-- The fields of a REPORT_REJECTED event for an arriving report (R38). -/
def rejectedFields (h : Header) (reason : RejectReason) (channel : Option Nat) (slot : Nat) : EventFields :=
  { kind := 10
    tag := h.tag
    number := h.number
    burst := h.kindCode
    channel := channel
    reason := reason.code
    w4 := h.sequence.setWidth 32
    w5 := BitVec.ofNat 32 slot }

/-- The fields of a REPORT_REJECTED event for a displaced entry (R41; log 10). -/
def State.displacedFields (s : State) (e : Report) : EventFields :=
  { kind := 10
    tag := e.tag
    number := claimedNumber s.settings.active e.channel
    burst := e.kind.code
    channel := some e.channel
    reason := RejectReason.displaced.code
    w4 := e.sequence.setWidth 32
    w5 := BitVec.ofNat 32 e.slot }

/-! ### The intake queue (R39 to R42) -/

/-- A report joins the queue at its tail, and its sequence becomes its channel's last accepted one (R36, R39). -/
def State.joinIntake (s : State) (e : Report) : State :=
  { s with intake :=
    { queue := s.intake.queue ++ [e], lastSequence := Table.set s.intake.lastSequence e.channel e.sequence } }

/-- The queue without its newest DATA entry, and that entry (R41). -/
def takeNewestData : List Report → Option (Report × List Report)
  | [] => none
  | e :: rest =>
    match takeNewestData rest with
    | some (d, kept) => some (d, e :: kept)
    | none => if e.kind = .data then some (e, rest) else none

/-- A report that passed every check meets the queue: it joins, or displaces the newest DATA entry, or is lost (R39 to
R41). A fatal EVENT_LOSS set at the DISPLACED event leaves the joining to be done: the part stops after it (DEDUCED,
log 20). -/
def State.enqueue (s : State) (h : Header) (e : Report) : State :=
  let now := s.time.counter
  if s.intake.queue.length < Config.intakePlaces then s.joinIntake e
  else
    let lost := rejectedFields h .overflow (some e.channel) e.slot
    match e.kind, takeNewestData s.intake.queue with
    | .data, _ => s.handOn lost now
    | _, none => (s.handOn lost now).setError .intakeOverflow now
    | _, some (displaced, kept) =>
      let t := { s with intake := { s.intake with queue := kept } }
      (t.handOn (t.displacedFields displaced) now).joinIntake e

/-- What the report intake does about a write taken as a report: the checks, and their outcome (R30, R35 to R41). DEDUCED
(log 51): at a rejection for MALFORMED, REPORT_REJECTED is handed on before MALFORMED_REPORT is set. -/
def State.takeReport (s : State) (r : Request) (slot : Nat) : State :=
  let h := readHeader r
  match s.checkReport r slot with
  | .ignored => s
  | .rejected reason channel =>
    let t := s.handOn (rejectedFields h reason channel slot) s.time.counter
    if reason = .malformed then t.setError .malformedReport t.time.counter else t
  | .accepted e => s.enqueue h e

/-- What the report intake does about any write at its turn (R30, R31). -/
def State.intakeWrite (s : State) (r : Request) : State :=
  match s.reportSlot? r with
  | some slot => s.takeReport r slot
  | none => if s.tornWrite r then s.setError .tornReport s.time.counter else s

/-- A local channel's queued reports are discarded, and its last accepted sequence becomes none (R42). -/
def State.discardReports (s : State) (channel : Nat) : State :=
  { s with intake :=
    { queue := s.intake.queue.filter fun e => e.channel != channel
      lastSequence := Table.erase s.intake.lastSequence channel } }

end Sys2Proof.Machine
end

