-- ==== Sys2Proof/Machine/Arithmetic.lean ====
section
/-!
DEFINITION. The correction arithmetic, stage by stage (R50 to R68): exact integers, two rounding points, and clamps
only where a rule says so.
-/

namespace Sys2Proof.Machine

/-! ### Rounding and clamping (00_scope.md, "Conventions") -/

/-- `n / d` rounded to nearest, a value exactly halfway away from zero; `d` is positive. -/
def roundDiv (n d : Int) : Int :=
  if 0 ≤ n then (2 * n + d) / (2 * d) else -((2 * -n + d) / (2 * d))

/-- A component saturated to −32,768..32,767. -/
def saturate (x : Int) : Int := if x < -32768 then -32768 else if 32767 < x then 32767 else x

/-- A value clamped into a window. -/
def clampInto (low high x : Int) : Int := if x < low then low else if high < x then high else x

/-! ### Stage 1: timing measure (R52, R53) -/

/-- The dead-zoned error (R52). -/
def deadZoned (zone : Nat) (e : Int) : Int := if e.natAbs ≤ zone then 0 else e

/-- T = E' x P + r (R52). -/
def timingTotal (zone period : Nat) (e : Int) (residue : Nat) : Int := deadZoned zone e * period + residue

/-! ### Stage 2: coefficients (R54 to R63) -/

/-- Tap `k` of a set of taps. -/
def tapAt (ts : List Tap) (k : Nat) : Tap := ts.getD k ⟨0, 0⟩

/-- The exact product of two complex numbers (R55). -/
def Tap.mul (x y : Tap) : Tap := ⟨x.re * y.re - x.im * y.im, x.re * y.im + x.im * y.re⟩

/-- The exact sum of two complex numbers. -/
def Tap.add (x y : Tap) : Tap := ⟨x.re + y.re, x.im + y.im⟩

/-- The energy of a tap (R57). -/
def Tap.energy (t : Tap) : Int := t.re * t.re + t.im * t.im

/-- S_k: the sum of C_i x B_j over the pairs with i + j − m = k (R55). -/
def convolutionSum (committed burst : List Tap) (main k : Nat) : Tap :=
  (List.range Config.tapCount).foldl
    (fun sum i =>
      if i ≤ k + main ∧ k + main - i < Config.tapCount then
        sum.add ((tapAt committed i).mul (tapAt burst (k + main - i)))
      else sum)
    ⟨0, 0⟩

/-- The convolved taps V (R56). -/
def convolved (committed burst : List Tap) (main : Nat) : List Tap :=
  (List.range Config.tapCount).map fun k =>
    let sum := convolutionSum committed burst main k
    ⟨roundDiv sum.re Config.unity, roundDiv sum.im Config.unity⟩

/-- The index of the largest tap, the lowest on a tie (R57). -/
def largestTap (v : List Tap) : Nat :=
  (List.range Config.tapCount).foldl (fun best k => if (tapAt v best).energy < (tapAt v k).energy then k else best) 0

/-- Every tap is (0, 0) (R58). -/
def allZero (v : List Tap) : Bool := v.all fun t => t == ⟨0, 0⟩

/-- Taps shifted by `d` places: tap k takes tap k + d, or (0, 0) from outside (R59). -/
def shifted (v : List Tap) (d : Int) : List Tap :=
  (List.range Config.tapCount).map fun (k : Nat) =>
    let j : Int := k + d
    if 0 ≤ j ∧ j < Config.tapCount then tapAt v j.toNat else ⟨0, 0⟩

/-- The normalised taps (R60). -/
def normalised (v : List Tap) (main : Nat) : List Tap :=
  let m := tapAt v main
  let q := m.energy
  (List.range Config.tapCount).map fun k =>
    if k = main then ⟨Config.unity, 0⟩
    else
      let t := tapAt v k
      ⟨roundDiv (Config.unity * (t.re * m.re + t.im * m.im)) q, roundDiv (Config.unity * (t.im * m.re - t.re * m.im)) q⟩

/-- The new coefficients: every component but the main tap's saturated (R61). -/
def saturated (n : List Tap) : List Tap := n.map fun t => ⟨saturate t.re, saturate t.im⟩

/-- The spread metric SP of new coefficients (R62). -/
def spreadOf (n : List Tap) (main : Nat) : Nat :=
  let outside := (List.range Config.tapCount).foldl (fun sum k => if k = main then sum else sum + (tapAt n k).energy) 0
  min 65535 (outside / 1024).toNat

/-- What stage 2 hands on (R54, R63). -/
structure CoefficientStage where
  coefficients : Option (List Tap)
  spread : Option Nat
  /-- metric |d| -/
  offset : Option Nat
  shift : Int
  offCentre : Bool
  nullMain : Bool
  saturatedTap : Bool
  tapsAbsent : Bool
  deriving DecidableEq, Repr

/-- Stage 2 for a report with taps (R55 to R62). -/
def coefficientsOf (committed burst : List Tap) (main period recentre : Nat) : CoefficientStage :=
  let v := convolved committed burst main
  if allZero v then
    { coefficients := none, spread := none, offset := some 0, shift := 0, offCentre := false, nullMain := true,
      saturatedTap := false, tapsAbsent := false }
  else
    let d : Int := (largestTap v : Int) - main
    let moves := d.natAbs ≤ recentre
    let centred := if moves then shifted v d else v
    let shift : Int := if moves then d * period else 0
    if (tapAt centred main).energy = 0 then
      { coefficients := none, spread := none, offset := some d.natAbs, shift := shift, offCentre := !moves,
        nullMain := true, saturatedTap := false, tapsAbsent := false }
    else
      let n := normalised centred main
      { coefficients := some (saturated n), spread := some (spreadOf (saturated n) main), offset := some d.natAbs,
        shift := shift, offCentre := !moves, nullMain := false, saturatedTap := saturated n != n, tapsAbsent := false }

/-- Stage 2 (R54): it runs only when the report carries taps. -/
def coefficientStage (committed : List Tap) (burst : Option (List Tap)) (main period recentre : Nat) : CoefficientStage :=
  match burst with
  | some b => coefficientsOf committed b main period recentre
  | none =>
    { coefficients := none, spread := none, offset := none, shift := 0, offCentre := false, nullMain := false,
      saturatedTap := false, tapsAbsent := true }

/-! ### Stages 3 to 5: clamps (R64 to R66) -/

/-- An adjustment reduced so that `committed + adjustment` stays in a window, and whether it was reduced. -/
def clampAdjustment (low high committed adjustment : Int) : Int × Bool :=
  let sum := committed + adjustment
  if sum < low then (low - committed, true)
  else if high < sum then (high - committed, true)
  else (adjustment, false)

/-- Stage 4 (R65). -/
def powerStage (zone : Nat) (low high committed g : Int) : Int × Bool :=
  clampAdjustment low high committed (-(deadZoned zone g))

/-- Stage 5 (R66): an F of −32,768 counts as reduced before the window test. -/
def frequencyStage (zone limit : Nat) (committed f : Int) : Int × Bool :=
  let wanted := -(deadZoned zone f)
  if 32767 < wanted then ((clampAdjustment (-limit) limit committed 32767).1, true)
  else clampAdjustment (-limit) limit committed wanted

/-! ### The whole arithmetic (R50) -/

/-- What stages 1 to 6 produce (R50, R67, R68). -/
structure Arithmetic where
  timing : Int
  residue : Nat
  timingClamped : Bool
  power : Int
  powerClamped : Bool
  frequency : Int
  frequencyClamped : Bool
  stage2 : CoefficientStage
  deriving DecidableEq, Repr

/-- Stages 1 to 5 on a report, the committed values and the snapshot's settings of the report's channel (R50, R51). -/
def arithmetic (snapshot : Table Word) (channel : Nat) (measures : Measures) (taps : Option (List Tap))
    (committed : Committed) : Arithmetic :=
  let period := symbolPeriod snapshot channel
  let total := timingTotal (timingDeadZone snapshot channel) period measures.timingError committed.residue
  let stage2 := coefficientStage committed.coefficients taps (mainPosition snapshot channel) period
    (recentreLimit snapshot channel)
  let ceiling : Int := timingCeiling snapshot channel
  let timing := clampAdjustment (-ceiling) ceiling committed.timing (total / 256 + stage2.shift)
  let power := powerStage (powerDeadZone snapshot channel) (powerLow snapshot channel) (powerHigh snapshot channel)
    committed.power measures.powerError
  let frequency := frequencyStage (frequencyDeadZone snapshot channel) (frequencyLimit snapshot channel)
    committed.frequency measures.frequencyError
  { timing := timing.1
    residue := if timing.2 then 0 else (total % 256).toNat
    timingClamped := timing.2
    power := power.1
    powerClamped := power.2
    frequency := frequency.1
    frequencyClamped := frequency.2
    stage2 := stage2 }

end Sys2Proof.Machine
end

