-- ==== Sys2Proof/Machine/Verdict.lean ====
section
/-!
DEFINITION. The verdict unit: range checkers (R76, R77), conditions and key selectors (R78, R79), the verdict table and
its chain (R80 to R86), and the issued correction a verdict builds (R69, R70).
-/

namespace Sys2Proof.Machine

/-! ### Entries of the verdict table (R81) -/

/-- The fields of a FINAL entry: the verdict (R81). -/
structure Verdict where
  status : Status
  timing : Bool
  power : Bool
  frequency : Bool
  coefficients : Bool
  next : NextState
  countAttempt : Bool
  event : Bool
  deriving DecidableEq, Repr

/-- An entry of the verdict table: STEP or FINAL (R81). -/
inductive Entry where
  | step (row selector : Nat)
  | final (verdict : Verdict)
  deriving DecidableEq, Repr

/-- The status of a code; the field has two bits (R81). -/
def statusOf (code : Nat) : Status :=
  if code = 0 then .cont else if code = 1 then .success else if code = 2 then .abort else .silent

/-- What a word of no valid form is read as: SILENT, UNCHANGED, an empty mask and both flags clear (R81). -/
def silentVerdict : Verdict :=
  { status := .silent, timing := false, power := false, frequency := false, coefficients := false, next := .unchanged,
    countAttempt := false, event := false }

/-- The word is a valid FINAL entry: kind 2 and a next state that is not code 3 (R81). -/
def validFinal (w : Word) : Bool := bits w 31 28 == 2 && bits w 9 8 != 3

/-- A word read as a FINAL entry (R81). -/
def readFinal (w : Word) : Verdict :=
  if validFinal w then
    { status := statusOf (bits w 1 0)
      timing := w.getLsbD 4
      power := w.getLsbD 5
      frequency := w.getLsbD 6
      coefficients := w.getLsbD 7
      next := if bits w 9 8 = 1 then .contact else if bits w 9 8 = 2 then .tracking else .unchanged
      countAttempt := w.getLsbD 12
      event := w.getLsbD 13 }
  else silentVerdict

/-- A table word as an entry (R81). -/
def readEntry (w : Word) : Entry :=
  if bits w 31 28 = 1 then .step (bits w 15 8) (bits w 2 0) else .final (readFinal w)

/-! ### Range checkers (R76, R77) -/

/-- The metrics of a correction (R68). -/
structure VerdictInput where
  measures : Measures
  arithmetic : Arithmetic
  attempts : Nat
  ageBefore : Nat
  station : StationState
  deriving DecidableEq, Repr

/-- The value of a metric code; absent where the metric is (R77). -/
def VerdictInput.metric (v : VerdictInput) (code : Nat) : Option Nat :=
  if code = 1 then some v.measures.timingError.natAbs
  else if code = 2 then some v.measures.powerError.natAbs
  else if code = 3 then some v.measures.frequencyError.natAbs
  else if code = 4 then some v.measures.mer
  else if code = 5 then v.arithmetic.stage2.spread
  else if code = 6 then v.arithmetic.stage2.offset
  else if code = 7 then some v.attempts
  else if code = 8 then some (min 65535 v.arithmetic.timing.natAbs)
  else if code = 9 then some (flagField v.measures.collision)
  else if code = 10 then some v.ageBefore
  else none

/-- The flag of range checker `n` (R76). -/
def checkerFlag (snapshot : Table Word) (v : VerdictInput) (n : Nat) : Bool :=
  let word := Config.checkerBlocks + 2 * n
  let code := setting snapshot word 7 0
  if code = 0 then false
  else
    match v.metric code with
    | none => (Words.read snapshot word).getLsbD 8
    | some value =>
      decide (setting snapshot (word + 1) 15 0 ≤ value) && decide (value ≤ setting snapshot (word + 1) 31 16)

/-! ### Conditions and keys (R67, R78, R79) -/

/-- Condition `n` of a correction (R67, R78). -/
def condition (snapshot : Table Word) (channel : Nat) (v : VerdictInput) (n : Nat) : Bool :=
  if n < 8 then checkerFlag snapshot v n
  else if n = 8 then decide (attemptLimit snapshot channel ≤ v.attempts)
  else if n = 9 then v.arithmetic.timingClamped
  else if n = 10 then v.arithmetic.powerClamped
  else if n = 11 then v.arithmetic.frequencyClamped
  else if n = 12 then v.arithmetic.stage2.offCentre
  else if n = 13 then v.arithmetic.stage2.nullMain
  else if n = 14 then v.arithmetic.stage2.tapsAbsent
  else if n = 15 then v.station == .tracking || v.station == .due
  else if n = 16 then v.arithmetic.stage2.saturatedTap
  else v.measures.collision

/-- The 18 condition bits (R78). -/
def conditionBits (snapshot : Table Word) (channel : Nat) (v : VerdictInput) : BitVec 18 :=
  BitVec.ofNat 18 (((List.range 18).map fun n => flagField (condition snapshot channel v n) * 2 ^ n).sum)

/-- The condition numbers a key selector lists (R79, chapter 08). -/
def selectorList (snapshot : Table Word) (selector : Nat) : List Nat :=
  let word := Config.selectorBlocks + 2 * selector
  ([setting snapshot word 15 8, setting snapshot word 23 16, setting snapshot word 31 24,
    setting snapshot (word + 1) 7 0, setting snapshot (word + 1) 15 8, setting snapshot (word + 1) 23 16]).take
    (setting snapshot word 7 0)

/-- The key of a selector: the first-listed condition gives the most significant bit (R79). -/
def selectorKey (conditions : BitVec 18) (listed : List Nat) : Nat :=
  listed.foldl (fun key n => 2 * key + flagField (conditions.getLsbD n)) 0

/-! ### The chain (R80 to R86) -/

/-- Why a chain fell back to the default verdict (R87). -/
inductive Fallback where
  | none
  | rowOverrun
  | chainLong
  deriving DecidableEq, Repr

def Fallback.code : Fallback → Nat
  | .none => 0
  | .rowOverrun => 1
  | .chainLong => 2

/-- A verdict with the account of how it was reached (R74). -/
structure Judgement where
  verdict : Verdict
  lookups : Nat
  /-- the row and entry that ended the chain; absent on a fallback -/
  ended : Option (Nat × Nat)
  fallback : Fallback
  deriving DecidableEq, Repr

/-- The chain from one lookup on, with `left` lookups allowed and `made` made (R83 to R86). -/
def chain (snapshot : Table Word) (channel : Nat) (conditions : BitVec 18) :
    (left made row selector : Nat) → Judgement
  | 0, made, _, _ =>
    { verdict := readFinal (defaultVerdictWord snapshot channel), lookups := made, ended := none, fallback := .chainLong }
  | left + 1, made, row, selector =>
    let key := selectorKey conditions (selectorList snapshot selector)
    let at_ := row + key / 8
    if 255 < at_ then
      { verdict := readFinal (defaultVerdictWord snapshot channel), lookups := made, ended := none,
        fallback := .rowOverrun }
    else
      match readEntry (Words.read snapshot (Config.verdictTable + 8 * at_ + key % 8)) with
      | .final verdict => { verdict := verdict, lookups := made + 1, ended := some (at_, key % 8), fallback := .none }
      | .step row' selector' => chain snapshot channel conditions left (made + 1) row' selector'

/-- The verdict unit's consultation (R74, R82). -/
def judge (snapshot : Table Word) (channel : Nat) (kind : BurstKind) (conditions : BitVec 18) : Judgement :=
  chain snapshot channel conditions 4 0 (startRow snapshot channel kind) (startSelector snapshot channel kind)

/-! ### The issued correction (R69, R70) -/

/-- The issued correction of a verdict: what the mask leaves out is issued as no change (R69, R70). -/
def buildIssued (v : Verdict) (conditions : BitVec 18) (r : Arithmetic) (committed : Committed) : Issued :=
  { timing := if v.timing then r.timing else 0
    residue := if v.timing then r.residue else committed.residue
    power := if v.power then r.power else 0
    frequency := if v.frequency then r.frequency else 0
    coefficients := if v.coefficients then r.stage2.coefficients else none
    status := v.status
    next := v.next
    conditions := conditions }

end Sys2Proof.Machine
end

