-- ==== Sys2Proof/Machine/Corrector.lean ====
section
/-!
DEFINITION. The corrector: taking the head of the intake queue (R43 to R45) with admission (R11 to R15), and the
completion of a correction (R46, R47, R88 to R93).
-/

namespace Sys2Proof.Machine

/-- The next part of a taking, which a fatal setting ends where it stands (R180, step 2). -/
def State.goOn (s : State) (f : State → State) : State := if s.now.stopDue then s else f s

/-! ### The correction-state test (R45) -/

/-- Arms SILENCE for the station state a context holds after the taking; ENDING keeps its deadline (R7, R44). -/
def State.rearmSilence (s : State) (index : Nat) (a : Table Word) (time : Time) : State :=
  match s.context? index with
  | none => s
  | some c =>
    match c.station with
    | .contact => s.arm index (.silence .contact) (later time (contactSilence a c.key.channel))
    | .tracking => s.arm index (.silence .dueWait) (later time (dueInterval a c.key.channel))
    | .due => s
    | .ending => s

/-- The correction in flight is fully corrected. -/
def State.markFull (s : State) : State :=
  { s with flight := s.flight.map fun f => { f with full := true } }

/-- The correction-state test at the taking of a report (R45). -/
def State.testCorrection (s : State) (index : Nat) (a : Table Word) (report : Report) (time : Time) : State :=
  match s.context? index with
  | none => s
  | some c =>
    if c.station = .ending then s
    else
      match c.correction with
      | .none => s.markFull
      | .ready _ => (s.writeContext index { c with correction := .none }).markFull
      | .issued _ _ => s
      | .sent issued delivered =>
        if atOrAfter report.arrival (later delivered (applyMargin a c.key.channel)) then
          (s.confirm index c issued delivered time).markFull
        else s

/-- A report has reached a context: the steps of R44 in their order. The age before it is handed in. -/
def State.bindReport (s : State) (index ageBefore : Nat) (report : Report) : State :=
  let a := s.settings.active
  let time := s.time.counter
  match s.context? index with
  | none => s
  | some c =>
    let f : Flight :=
      { report := report, snapshot := a, takeTime := time, index := index, ageBefore := ageBefore, full := false }
    let t : State := { s with flight := some f }
    let t := t.writeContext index { c with busy := true, age := 0, lastHeard := time }
    t.countReport.goOn fun u =>
      match u.context? index with
      | none => u
      | some c =>
        let v := if c.station = .due then u.writeContext index { c with station := .tracking } else u
        (v.testCorrection index a report time).goOn fun w => w.rearmSilence index a time

/-! ### Admission (R11 to R15) -/

/-- The causes of a refusal (R15). -/
inductive RefusalCause where
  | noContext
  | adoptOff
  | reserve
  | quota
  deriving DecidableEq, Repr

def RefusalCause.code : RefusalCause → Nat
  | .noContext => 1
  | .adoptOff => 2
  | .reserve => 3
  | .quota => 4

/-- The report is refused: ADMISSION_REFUSED is written and nothing else changes (R15). -/
def State.refuse (s : State) (report : Report) (cause : RefusalCause) : State :=
  let f : EventFields :=
    { kind := 6
      tag := report.tag
      number := claimedNumber s.settings.active report.channel
      burst := report.kind.code
      channel := some report.channel
      reason := cause.code }
  s.handOn f s.time.counter

/-- The report's key (R35). -/
def Report.key (r : Report) : Key := { channel := r.channel, tag := r.tag }

/-- A context is given to the report's station in CONTACT, STATION_NEW is written, and the report is bound to it (R12). -/
def State.allocate (s : State) (index : Nat) (report : Report) : State :=
  let a := s.settings.active
  let time := s.time.counter
  let t := s.occupy index report.key .contact .contact (initialCommitted (mainPosition a report.channel)) time .contact
    (contactSilence a report.channel)
  let f : EventFields := { t.stationFields 1 report.key index with origin := Birth.contact.code }
  (t.handOn f time).goOn fun u => u.bindReport index 0 report

/-- A context is given to the report's station in TRACKING, STATION_ADOPTED is written, and the report is bound to it
(R14). -/
def State.adopt (s : State) (index : Nat) (report : Report) : State :=
  let a := s.settings.active
  let time := s.time.counter
  let t := s.occupy index report.key .tracking .adopted (initialCommitted (mainPosition a report.channel)) time .dueWait
    (dueInterval a report.channel)
  let f : EventFields := { t.stationFields 2 report.key index with origin := Birth.adopted.code }
  (t.handOn f time).goOn fun u => u.bindReport index 0 report

/-- A context that a first contact on this channel may reclaim (R13). -/
def Context.reclaimable (c : Context) (channel : Nat) : Bool :=
  c.key.channel == channel && c.age == 3 && (c.station == .tracking || c.station == .due) && c.correction == .none &&
    !c.busy

/-- The reclaim scan over context indices: a damaged record is released and passed over; the first candidate is found
(R13, R27). A fatal setting ends it. DESIGN CHOICE (log 38): the scan reads and checks every occupied context up to the
candidate, those of other channels too. -/
def State.reclaimScan (channel : Nat) : List Nat → State → State × Option Nat
  | [], s => (s, none)
  | index :: rest, s =>
    match s.context? index with
    | none => State.reclaimScan channel rest s
    | some c =>
      if c.intact then
        if c.reclaimable channel then (s, some index) else State.reclaimScan channel rest s
      else
        let t := s.failIntegrity index s.time.counter
        if t.now.stopDue then (t, none) else State.reclaimScan channel rest t

/-- A FIRST_CONTACT report for an unknown key: allocation, else reclaim, else refusal (R12, R13, R15). -/
def State.admitFirstContact (s : State) (report : Report) : State :=
  let a := s.settings.active
  let room := decide (0 < s.freeCount) && decide (s.occupiedCount report.channel < quota a report.channel)
  match room, s.lowestFree with
  | true, some index => s.allocate index report
  | _, _ =>
    match State.reclaimScan report.channel s.table.contexts.keys s with
    | (t, none) => t.goOn fun u => u.refuse report .noContext
    | (t, some index) =>
      (t.releaseStation index .reclaimed t.time.counter 0).goOn fun u => u.allocate index report

/-- A KEEPALIVE report for an unknown key: adoption, else refusal (R14, R15). -/
def State.admitKeepalive (s : State) (report : Report) : State :=
  let a := s.settings.active
  if !adoptEnabled a report.channel then s.refuse report .adoptOff
  else if s.freeCount ≤ firstContactReserve a then s.refuse report .reserve
  else if quota a report.channel ≤ s.occupiedCount report.channel then s.refuse report .quota
  else
    match s.lowestFree with
    | some index => s.adopt index report
    | none => s.refuse report .reserve

/-- What the table answers to a report (R11). -/
def State.admitReport (s : State) (found : Option Nat) (report : Report) : State :=
  match found with
  | some index =>
    match s.context? index with
    | none => s
    | some c =>
      match report.kind with
      | .firstContact =>
        (s.restart index s.settings.active s.time.counter 1).goOn fun t => t.bindReport index c.age report
      | .keepalive => s.bindReport index c.age report
      | .data => s.bindReport index c.age report
  | none =>
    match report.kind with
    | .firstContact => s.admitFirstContact report
    | .keepalive => s.admitKeepalive report
    | .data => s

/-- The corrector takes the head of the intake queue, when it is idle, the part RUNNING and the queue not empty
(R43, R44). -/
def State.takeHead (s : State) : State :=
  match s.running, s.flight, s.intake.queue with
  | true, none, report :: rest =>
    let t : State := { s with intake := { s.intake with queue := rest } }
    match t.lookup report.key t.time.counter with
    | (u, found) => u.goOn fun v => v.admitReport found report
  | _, _, _ => s

/-! ### Completion (R46, R47, R93) -/

/-- The last metrics of a report, with a spread and a status (R46, R47). -/
def Report.metrics (r : Report) (spread : Option Nat) (status : Option Status) : Metrics :=
  { timingError := r.measures.timingError
    frequencyError := r.measures.frequencyError
    powerError := r.measures.powerError
    mer := r.measures.mer
    spread := spread
    status := status }

/-- A correction that is noted only completes (R46); a damaged record is released instead (R27). -/
def State.completeNoted (s : State) : State :=
  match s.flight with
  | none => s
  | some f =>
    if f.full then s
    else
      match s.context? f.index with
      | none => s.endFlight.settleHeld
      | some c =>
        if c.intact then
          let metrics := f.report.metrics (c.metrics.bind Metrics.spread) (c.metrics.bind Metrics.status)
          let t := s.writeContext f.index { c with metrics := some metrics, busy := false }
          ({ t with flight := none } : State).settleHeld
        else s.failIntegrity f.index s.time.counter

/-- What the verdict unit is handed for a correction (R68). -/
def Flight.input (f : Flight) (c : Context) : VerdictInput :=
  { measures := f.report.measures
    arithmetic := arithmetic f.snapshot f.report.channel f.report.measures f.report.taps c.committed
    attempts := c.attempts
    ageBefore := f.ageBefore
    station := c.station }

/-- The record after a verdict: the issued correction or the next state of SILENT, ENDING for ABORT, the attempts, the
last metrics, and busy clear (R88 to R91, R93). -/
def Flight.judged (f : Flight) (c : Context) (conditions : BitVec 18) (v : Verdict) : Context :=
  let r := (f.input c).arithmetic
  { c with
    correction := if v.status = .silent then c.correction else .ready (buildIssued v conditions r c.committed)
    station :=
      if v.status = .silent then v.next.apply c.station else if v.status = .abort then .ending else c.station
    attempts := if v.countAttempt then min 255 (c.attempts + 1) else c.attempts
    metrics := some (f.report.metrics r.stage2.spread (some v.status))
    busy := false }

/-- A SILENT verdict that changes the station state re-arms SILENCE at the completion time (R90). -/
def State.rearmAfterSilent (s : State) (index : Nat) (a : Table Word) (v : Verdict) (before : StationState) : State :=
  if v.status = .silent ∧ v.next.apply before ≠ before then s.rearmSilence index a s.time.counter else s

/-- The VERDICT event of a correction (R92). -/
def State.verdictFields (s : State) (f : Flight) (c : Context) (conditions : BitVec 18) (j : Judgement) : EventFields :=
  let m := f.report.measures
  let r := (f.input c).arithmetic
  let v := j.verdict
  { s.stationFields 7 c.key f.index with
    reason := j.fallback.code
    spreadAbsent := r.stage2.spread.isNone
    status := v.status.code
    w4 := packed [(conditions.toNat, 0), (v.next.code, 20), (flagField v.timing, 24), (flagField v.power, 25),
      (flagField v.frequency, 26), (flagField v.coefficients, 27), (j.lookups, 28)]
    w5 := errorsWord m.timingError m.frequencyError
    w6 := qualityWord m.powerError m.mer r.stage2.spread
    w7 :=
      match j.ended with
      | none => 0
      | some (row, entry) => packed [(row, 8), (entry, 0), (1, 16)] }

/-- The error of a fallback (R87). -/
def State.setFallback (s : State) (f : Fallback) : State :=
  match f with
  | .none => s
  | .rowOverrun => s.setError .verdictRowOverrun s.time.counter
  | .chainLong => s.setError .verdictChainLong s.time.counter

/-- A fully corrected correction completes (R47, R93); a damaged record is released instead (R27). -/
def State.completeFull (s : State) : State :=
  match s.flight with
  | none => s
  | some f =>
    if !f.full then s
    else
      match s.context? f.index with
      | none => s.endFlight.settleHeld
      | some c =>
        if c.intact then
          let conditions := conditionBits f.snapshot f.report.channel (f.input c)
          let j := judge f.snapshot f.report.channel f.report.kind conditions
          let t : State := { s.writeContext f.index (f.judged c conditions j.verdict) with flight := none }
          let t := t.rearmAfterSilent f.index f.snapshot j.verdict c.station
          let t := if j.verdict.event then t.handOn (t.verdictFields f c conditions j) t.time.counter else t
          (t.setFallback j.fallback).settleHeld
        else s.failIntegrity f.index s.time.counter

/-! ### Expiries (R114, R131, R132) -/

/-- The effect of a SILENCE expiry on its context (R131). -/
def State.expireSilence (s : State) (index : Nat) (stage : Stage) (expiry : Time) : State :=
  match s.context? index with
  | none => s
  | some c =>
    if !c.intact then s.failIntegrity index expiry
    else if c.station = .tracking then
      let lost := later expiry (lostInterval s.settings.active c.key.channel)
      let t := (s.writeContext index { c with station := .due }).arm index (.silence .lostWait) lost
      let f : EventFields := { t.stationFields 5 c.key index with stage := stage.code, w7 := lost }
      t.handOn (f.withHistory c) expiry
    else s.releaseStation index .lost expiry stage.code

/-- The effect of a CONFIRM expiry on its context (R114, R132). -/
def State.expireConfirm (s : State) (index : Nat) (expiry : Time) : State :=
  match s.context? index with
  | none => s
  | some c =>
    if !c.intact then s.failIntegrity index expiry
    else
      match c.correction with
      | .none => s
      | .ready _ => s
      | .issued _ _ => s
      | .sent issued delivered => s.withdraw index c issued delivered expiry

/-- A due entry leaves the list (R127). -/
def State.takeDeadline (s : State) (d : Deadline) : State := s.removeDeadline d.index d.kind

/-- The entry that fires next is a SILENCE entry, and fires (R127, R131). -/
def State.fireSilence (s : State) : State :=
  match s.running, s.nextDue with
  | true, some d =>
    match d.kind with
    | .silence stage => (s.takeDeadline d).expireSilence d.index stage d.expiry
    | .confirm => s
  | _, _ => s

/-- The entry that fires next is a CONFIRM entry, and fires (R127, R132). -/
def State.fireConfirm (s : State) : State :=
  match s.running, s.nextDue with
  | true, some d =>
    match d.kind with
    | .silence _ => s
    | .confirm => (s.takeDeadline d).expireConfirm d.index d.expiry
  | _, _ => s

/-- The ageing timer has reached N x 65,536 ticks: an ageing step, and its count returns to 0 (R133). -/
def State.fireAgeingTimer (s : State) : State :=
  let a := s.settings.active
  if s.running && ageingByTime a && decide (1 ≤ ageingN a) && decide (ageingN a * 65536 ≤ s.time.ageingTimer) then
    let t := s.ageingStep
    { t with time := { t.time with ageingTimer := 0 } }
  else s

end Sys2Proof.Machine
end

