-- ==== Sys2Proof/Machine/Apply.lean ====
section
/-!
DEFINITION. Apply: validation of the staging copy (R160), adoption (R161) and the closing of a local channel (R165).
-/

namespace Sys2Proof.Machine

/-! ### Validation, step 1: field ranges (R156, R157, R160) -/

/-- A base is aligned to 4 KiB. -/
def aligned4K (x : Nat) : Bool := x % 4096 == 0

/-- A power of two in 16..high. -/
def powerOfTwoTo (high x : Nat) : Bool :=
  [16, 32, 64, 128, 256, 512, 1024, 2048, 4096].any fun p => p == x && decide (p ≤ high)

/-- The global words whose fields can lie outside their ranges, with whether they lie inside (R156; log 15). -/
def globalChecks (a : Table Word) : List (Nat × Bool) :=
  [ (2, aligned4K (reportBase a)),
    (3, powerOfTwoTo 1024 (reportSlots a)),
    (4, aligned4K (stagingBase a)),
    (5, decide (1 ≤ stagingSlots a) && decide (stagingSlots a ≤ 256)),
    (6, aligned4K (eventBase a)),
    (7, powerOfTwoTo 4096 (eventSlots a)),
    (10, decide (guardBase a ≤ Config.maxMemoryTop)),
    (11, decide (guardBase a + guardSize a ≤ Config.maxMemoryTop)),
    (12, decide (1 ≤ memoryTop a) && decide (memoryTop a ≤ Config.maxMemoryTop)),
    (13, decide (firstContactReserve a ≤ 64)),
    (15, decide (reportAgeLimit a ≤ Config.maxInterval)) ]

/-- The words of an enabled channel block that can fail (R157, R160). -/
def channelChecks (a : Table Word) (c : Nat) : List (Nat × Bool) :=
  if channelOpen a c then
    [ (channelWord c 1, decide (quota a c ≤ 1024)),
      (channelWord c 2, decide (1 ≤ symbolPeriod a c)),
      (channelWord c 4, decide (1 ≤ timingCeiling a c)),
      (channelWord c 5, decide (powerLow a c ≤ 0) && decide (0 ≤ powerHigh a c)),
      (channelWord c 11, decide (1 ≤ attemptLimit a c)),
      (channelWord c 15, validFinal (defaultVerdictWord a c)),
      (channelWord c 16, decide (contactSilence a c ≤ Config.maxInterval)),
      (channelWord c 17, decide (dueInterval a c ≤ Config.maxInterval)),
      (channelWord c 18, decide (lostInterval a c ≤ Config.maxInterval)),
      (channelWord c 19, decide (1 ≤ confirmWindow a c) && decide (confirmWindow a c ≤ Config.maxInterval)),
      (channelWord c 20, decide (applyMargin a c < confirmWindow a c)) ]
  else []

/-- The words of a range checker that can fail (R160). -/
def checkerChecks (a : Table Word) (n : Nat) : List (Nat × Bool) :=
  [(Config.checkerBlocks + 2 * n, decide (setting a (Config.checkerBlocks + 2 * n) 7 0 ≤ 10))]

/-- The words of a key selector that can fail: a length above 6, or a listed condition above 17 (R160). -/
def selectorChecks (a : Table Word) (n : Nat) : List (Nat × Bool) :=
  let word := Config.selectorBlocks + 2 * n
  let length := setting a word 7 0
  let listed := selectorList a n
  [ (word, decide (length ≤ 6) && (listed.take 3).all fun k => decide (k ≤ 17)),
    (word + 1, (listed.drop 3).all fun k => decide (k ≤ 17)) ]

/-- Every examined word, in ascending offset (R160, step 1). -/
def rangeChecks (a : Table Word) : List (Nat × Bool) :=
  globalChecks a ++ (List.range 8).flatMap (channelChecks a) ++ (List.range 8).flatMap (checkerChecks a) ++
    (List.range 8).flatMap (selectorChecks a)

/-! ### Validation, step 2: cross-checks (R160) -/

/-- An area of memory: the word of its base in the window, its first byte and its length. -/
structure Area where
  word : Nat
  base : Nat
  bytes : Nat
  deriving DecidableEq, Repr

/-- The report ring, the staging area and the event ring of a staging copy. -/
def firmwareAreas (a : Table Word) : List Area :=
  [ ⟨2, reportBase a, reportSlots a * 256⟩, ⟨4, stagingBase a, stagingSlots a * 256⟩,
    ⟨6, eventBase a, eventSlots a * 32⟩ ]

/-- The settings window as an area. -/
def windowArea (straps : Straps) : Area := ⟨Config.memoryTopWord, windowBase straps, Config.windowBytes⟩

/-- The area lies wholly below memory top. -/
def Area.belowTop (x : Area) (a : Table Word) : Bool := decide (x.base + x.bytes ≤ memoryTop a * 4096)

/-- Two areas overlap. -/
def Area.meets (x y : Area) : Bool := rangesMeet x.base x.bytes y.base y.bytes

/-- The areas, each with whether it overlaps none of the areas before it (R160; log 16). -/
def overlapChecks : List Area → List Area → List (Nat × Bool)
  | _, [] => []
  | before, x :: rest => (x.word, !(before.any fun y => x.meets y)) :: overlapChecks (before ++ [x]) rest

/-- No enabled block below this one claims its channel number (R160). DESIGN CHOICE (log 47): of several blocks that repeat
a lower block's claim, the lowest is named. -/
def claimChecks (a : Table Word) : List (Nat × Bool) :=
  (List.range 8).map fun c =>
    (channelWord c 0,
      !(channelOpen a c && (List.range c).any fun b => channelOpen a b && claimedNumber a b == claimedNumber a c))

/-- The running sum of the enabled quotas, at each block, is at most 1,024. -/
def quotaChecks (a : Table Word) : List (Nat × Bool) :=
  (List.range 8).map fun c =>
    (channelWord c 1,
      decide ((((List.range (c + 1)).filter (channelOpen a)).map (quota a)).sum ≤ 1024))

/-- The cross-checks, in the order of R160. -/
def crossChecks (a : Table Word) (straps : Straps) : List (Nat × Bool) :=
  ((firmwareAreas a).map fun x => (x.word, x.belowTop a)) ++
    [((windowArea straps).word, (windowArea straps).belowTop a)] ++
    overlapChecks [windowArea straps] (firmwareAreas a) ++ claimChecks a ++ quotaChecks a

/-! ### Validation, step 3: structural settings (R157, R160) -/

/-- The structural words of a channel open now and enabled in the staging copy, with whether they are unchanged. -/
def structuralChecks (active staging : Table Word) : List (Nat × Bool) :=
  (List.range 8).flatMap fun c =>
    if channelOpen active c && channelOpen staging c then
      [ (channelWord c 2, symbolPeriod active c == symbolPeriod staging c),
        (channelWord c 3, mainPosition active c == mainPosition staging c),
        (channelWord c 4, timingCeiling active c == timingCeiling staging c),
        (channelWord c 5, channelSetting active c 5 15 0 == channelSetting staging c 5 15 0),
        (channelWord c 6, frequencyLimit active c == frequencyLimit staging c) ]
    else []

/-- The offset of the first check that fails. -/
def firstFailing (checks : List (Nat × Bool)) : Option Nat :=
  (checks.find? fun p => !p.2).map fun p => p.1

/-- The result of validating the staging copy (R160). -/
def State.validate (s : State) : ApplyResult :=
  match firstFailing (rangeChecks s.settings.staging ++ crossChecks s.settings.staging s.pins.straps) with
  | some offset => .refusedInvalid offset
  | none =>
    match firstFailing (structuralChecks s.settings.active s.settings.staging) with
    | some offset => .refusedStructural offset
    | none => .applied

/-! ### Closing a local channel (R19, R165) -/

/-- A context is released silently at a channel close; a check that fails still sets the error and quarantines the
index (R19, R27). -/
def State.releaseSilently (s : State) (index : Nat) : State :=
  match s.context? index with
  | none => s
  | some c =>
    if c.intact then s.vacate index .dropped
    else (s.vacate index .integrity).setError .contextIntegrity s.time.counter

/-- The indices of a local channel's occupied contexts, ascending. -/
def State.contextsOf (s : State) (channel : Nat) : List Nat :=
  Table.keys (s.table.contexts.filter fun p => p.2.key.channel == channel)

/-- An open local channel is closed: steps 1 to 6 of R165 but for the result. A correction in flight for a station of the
channel is abandoned by the release of its context, which reads and checks the record first (R27, R48; log 32). The cause
is 1 COMMAND or 2 APPLY. DEDUCED (log 12): of the changed counts, the free-context count goes before the occupied count. -/
def State.closeChannel (s : State) (channel cause : Nat) : State :=
  let free := s.freeCount
  let released := s.contextsOf channel
  let t := released.foldl State.releaseSilently s
  let t := (t.discardReports channel).settleHeld
  let t := { t with settings := { t.settings with active := withChannelOff t.settings.active channel } }
  let f : EventFields :=
    { kind := 11, channel := some channel, reason := cause, w4 := BitVec.ofNat 32 released.length }
  let t := t.handOn f t.time.counter
  let t := if t.freeCount = free then t else t.issueStatus Config.freeCountWord
  if released.length = 0 then t else t.issueStatus (Config.occupiedCountWord + channel)

/-! ### Adoption (R161) -/

/-- The words of the staging copy that the active settings take: all but the control words and the status area. -/
def adoptedWords (staging : Table Word) : Table Word :=
  staging.filter fun p =>
    !(decide (Config.applyWord ≤ p.1) && decide (p.1 ≤ Config.consumerWord)) &&
      !(decide (Config.applyResultWord ≤ p.1) && decide (p.1 ≤ 4077))

/-- The staging area differs in base or slot count (R96). -/
def stagingMoved (old new : Table Word) : Bool :=
  stagingBase old != stagingBase new || stagingSlots old != stagingSlots new

/-- The event ring differs in base or slot count (R161). -/
def eventRingMoved (old new : Table Word) : Bool :=
  eventBase old != eventBase new || eventSlots old != eventSlots new

/-- A mapped context at a change of the staging area: back from ISSUED to READY, or released when its check fails
(R96). -/
def State.returnToReady (s : State) (index : Nat) : State :=
  match s.context? index with
  | none => s
  | some c =>
    if !c.intact then s.failIntegrity index s.time.counter
    else
      match c.correction with
      | .none => s
      | .ready _ => s
      | .issued issued _ => s.writeContext index { c with correction := .ready issued }
      | .sent _ _ => s

/-- The slot map is cleared at a change of the staging area (R96). DESIGN CHOICE (log 43): the mapped contexts are read in
rising slot number. -/
def State.clearSlotMap (s : State) : State :=
  let t := (s.slotMap.map fun p => p.2).foldl State.returnToReady s
  { t with slotMap := [] }

/-- Held writes are judged against the staging area now in force (R96). -/
def State.rejudgeHeld (s : State) : State :=
  let a := s.settings.active
  { s with forwarder := { s.forwarder with held := s.forwarder.held.map fun h =>
    { h with slot := slotAt (stagingBase a) (stagingSlots a) (Request.first h.request) } } }

/-- The event ring starts afresh: producer, consumer and mark 0, and the producer index word written (R161, step 5). -/
def State.restartRing (s : State) : State :=
  { s with events := { s.events with producer := 0, consumer := 0, mark := 0 } }.issueStatus Config.producerWord

/-- A local channel opens: its last accepted sequence becomes none (R161, step 3). -/
def State.openChannel (s : State) (channel : Nat) : State :=
  { s with intake := { s.intake with lastSequence := Table.erase s.intake.lastSequence channel } }

/-- The first apply that is APPLIED takes the part from SETUP to RUNNING (R161, R179). -/
def PartState.afterApply : PartState → PartState
  | .setup => .running
  | .running => .running
  | .stopped => .stopped

/-- Steps 1 to 7 of an APPLIED apply (R161). DESIGN CHOICE (log 44): a held write set free in steps 2 to 4 meets the old
slot map under its new slot number. DEDUCED (log 48): an event record written in steps 2 to 4 goes to the new ring at the
old producer index. -/
def State.adoptSettings (s : State) : State :=
  let old := s.settings.active
  let new := adoptedWords s.settings.staging
  let t : State := { s with settings := { s.settings with active := new } }
  let t := if stagingMoved old new then t.rejudgeHeld else t
  let closing := (List.range Config.channelCount).filter fun c => channelOpen old c && !channelOpen new c
  let opening := (List.range Config.channelCount).filter fun c => !channelOpen old c && channelOpen new c
  let t := closing.foldl (fun u c => u.closeChannel c 2) t
  let t := opening.foldl State.openChannel t
  let t := if stagingMoved old new then t.clearSlotMap else t
  let t := if eventRingMoved old new then t.restartRing else t
  { t with
    table := { t.table with ageing := 0 }
    time := { t.time with ageingTimer := 0 }
    part := t.part.afterApply }

/-- An apply: refused in STOPPED, otherwise validated and, when it passes, adopted; its result is handed to the event
writer (R159, R161). -/
def State.applySettings (s : State) (sequence : BitVec 16) : State :=
  if s.part = .stopped then s.applyAnswer sequence .refusedStopped
  else
    match s.validate with
    | .applied => s.adoptSettings.applyAnswer sequence .applied
    | refused => s.applyAnswer sequence refused

end Sys2Proof.Machine
end

