-- ==== Sys2Proof/Machine/Commands.lean ====
section
/-!
DEFINITION. The commands of the command word (R162 to R166, R20 to R23, R153, R154) and SOFT_RESET (R181).
-/

namespace Sys2Proof.Machine

/-! ### Arguments (R20, R162) -/

/-- A station named by an argument word: channel field and tag field (chapter 08, "Control words and status area"). -/
structure StationName where
  number : Nat
  tag : Nat
  deriving DecidableEq, Repr

def stationName (argument : Word) : StationName := { number := bits argument 23 16, tag := bits argument 15 0 }

/-- The arguments are in range (R20). -/
def StationName.inRange (n : StationName) : Bool := decide (n.number ≤ 15) && tagInRange n.tag

/-- The station is found by its channel number's open local channel and its tag; a failed check counts as unknown (R20,
R27). -/
def State.findStation (s : State) (n : StationName) : State × Option Nat :=
  match claimant s.settings.active n.number with
  | none => (s, none)
  | some channel =>
    match s.lookup { channel := channel, tag := n.tag } s.time.counter with
    | (t, found) => (t.settleHeld, found)

/-! ### Station commands (R21 to R23) -/

/-- A command's effect, and its result. -/
abbrev Answered := State × CommandResult

/-- STATION_DROP (R21). -/
def State.stationDrop (s : State) (n : StationName) : Answered :=
  if !n.inRange then (s, .badArgument)
  else
    match s.findStation n with
    | (t, none) => (t, .notFound)
    | (t, some index) => (t.releaseStation index .dropped t.time.counter 0, .done)

/-- STATION_RESTART (R22). -/
def State.stationRestart (s : State) (n : StationName) : Answered :=
  if !n.inRange then (s, .badArgument)
  else
    match s.findStation n with
    | (t, none) => (t, .notFound)
    | (t, some index) =>
      (((t.abandonFor index).restart index t.settings.active t.time.counter 2).settleHeld, .done)

/-- The committed values a move carries to its target channel (R23). -/
def Committed.moved (v : Committed) (a : Table Word) (channel : Nat) : Committed :=
  let ceiling : Int := timingCeiling a channel
  let timing := clampInto (-ceiling) ceiling v.timing
  { timing := timing
    residue := if timing = v.timing then v.residue else 0
    power := clampInto (powerLow a channel) (powerHigh a channel) v.power
    frequency := 0
    coefficients := identityCoefficients (mainPosition a channel) }

/-- The move itself, when every test has passed: the source is released, the target given the lowest free index, and
STATION_NEW written with origin MOVED (R23). -/
def State.moveStation (s : State) (source : Nat) (c : Context) (target : Key) : State :=
  let a := s.settings.active
  let now := s.time.counter
  let t := s.releaseStation source .moved now 0
  match t.lowestFree with
  | none => t
  | some index =>
    let u := t.occupy index target .contact .moved (c.committed.moved a target.channel) now .contact
      (contactSilence a target.channel)
    let f : EventFields :=
      { u.stationFields 1 target index with
        origin := Birth.moved.code
        w4 := keyWord c.key.tag (claimedNumber a c.key.channel) 0 (some c.key.channel)
        w5 := BitVec.ofNat 32 source }
    u.handOn f now

/-- STATION_MOVE: the tests of R23 in their order, then the move. DESIGN CHOICE (log 39): a move within the source's own
channel passes the QUOTA test by R23 whatever the quota, also where R16 has quota 0. DESIGN CHOICE (log 49): a target whose
record fails its check is released, and the move goes on with its key unknown. -/
def State.stationMove (s : State) (origin target : StationName) : Answered :=
  if !(origin.inRange && target.inRange) then (s, .badArgument)
  else
    match s.findStation origin with
    | (t, none) => (t, .notFound)
    | (t, some source) =>
      match t.findStation target with
      | (u, some _) => (u, .targetTaken)
      | (u, none) =>
        match claimant u.settings.active target.number, u.context? source with
        | none, _ => (u, .closed)
        | some _, none => (u, .notFound)
        | some channel, some c =>
          if u.occupiedCount channel < quota u.settings.active channel ∨ channel = c.key.channel then
            (u.moveStation source c { channel := channel, tag := target.tag }, .done)
          else (u, .quota)

/-! ### Other commands -/

/-- CHANNEL_CLOSE (R165). -/
def State.channelClose (s : State) (field : Nat) : Answered :=
  if 7 < field then (s, .badArgument)
  else if !channelOpen s.settings.active field then (s, .closed)
  else (s.closeChannel field 1, .done)

/-- ERROR_CLEAR: the named kinds clear, the first pointer empties when its kind is cleared, and quarantine ends when
CONTEXT_INTEGRITY is named (R28, R166). -/
def State.errorClear (s : State) (argument : Word) : State :=
  let named : BitVec 10 := argument.setWidth 10
  let errors := s.events.errors &&& ~~~named
  let empties := s.events.firstPointer.any fun k => named.getLsbD k.code
  let t : State := { s with events := { s.events with errors := errors } }
  let t :=
    if named.getLsbD ErrorKind.contextIntegrity.code then
      { t with table := { t.table with quarantined := [] } }.issueStatus Config.freeCountWord
    else t
  let t := if errors = s.events.errors then t else t.issueStatus Config.errorStatusWord
  if empties then { t with events := { t.events with firstPointer := none } }.issueStatus Config.firstPointerWord else t

/-! ### DRAIN (R153, R154) -/

/-- The three conditions of a DRAIN: intake queue empty, corrector idle, held-write buffer empty (R153). -/
def State.drained (s : State) : Bool := s.intake.queue.isEmpty && s.flight.isNone && s.forwarder.held.isEmpty

/-- The four idle flags of a DONE, the first in the lowest bit (R153; log 14). -/
def State.idleFlags (s : State) : Nat :=
  flagField s.intake.queue.isEmpty + 2 * flagField s.flight.isNone + 4 * flagField s.forwarder.held.isEmpty +
    8 * flagField (s.own.queue.isEmpty && s.own.outstanding.isEmpty)

/-- A DRAIN completes with DONE and its idle flags (R153). -/
def State.drainAnswer (s : State) (sequence : BitVec 16) : State :=
  { s with settings := { s.settings with draining := none } }.commandAnswer sequence 6 s.idleFlags .done

/-- DRAIN as it is taken: at once when the conditions hold, held in the command-in-progress record otherwise (R153). -/
def State.startDrain (s : State) (sequence : BitVec 16) : State :=
  if s.drained then s.drainAnswer sequence
  else { s with settings := { s.settings with draining := some sequence } }

/-- The DRAIN in progress completes once its conditions hold (R153). -/
def State.finishDrain (s : State) : State :=
  match s.settings.draining with
  | none => s
  | some sequence => if s.drained then s.drainAnswer sequence else s

/-! ### SOFT_RESET (R164, R181) -/

/-- Steps 4 to 8 of SOFT_RESET: unsent own writes are discarded and the sent ones marked, and every block but the
forwarder, the staging copy and the plant counter returns to its reset value (R181). -/
def State.clearForSetup (s : State) : State :=
  { s with
    part := .setup
    own := { s.own with queue := [], outstanding := s.own.outstanding.map fun o => { o with beforeReset := true } }
    settings := { s.settings with active := Config.defaultSettings, draining := none }
    intake := { queue := [], lastSequence := [] }
    flight := none
    table := { contexts := [], directory := [], quarantined := [], ageing := 0 }
    slotMap := []
    time := { s.time with deadlines := [], ageingTimer := 0 }
    events :=
      { s.events with
        producer := 0, consumer := 0, mark := 0, sequence := 0, lost := false, holding := [], errors := 0,
        firstPointer := none, applyResult := 0 } }

/-- The 13 status words that follow the command results of a SOFT_RESET (R167). -/
def wordsAfterReset : List Nat := Config.statusWords.filter fun w => w != Config.commandResultWord

/-- SOFT_RESET: one transition of the whole part (R181). The ABANDONED of a DRAIN and the DONE of the reset go to one
status word, so DONE displaces it within the step (R148, R164; log 35). -/
def State.softReset (s : State) (sequence : BitVec 16) : State :=
  let t := s.endFlight.forwardHeldUnfilled.clearForSetup
  let t :=
    match s.settings.draining with
    | none => t
    | some drain => t.commandAnswer drain 6 0 .abandoned
  let t := t.commandAnswer sequence 1 (flagField s.settings.draining.isSome) .done
  wordsAfterReset.foldl State.issueStatus t

/-! ### The command word (R162, R163) -/

/-- A command that is taken in RUNNING alone: its result is NOT_RUNNING elsewhere (R163). -/
def State.whenRunning (s : State) (f : State → Answered) : Answered :=
  if s.running then f s else (s, .notRunning)

/-- The answer of a command of code 2 to 7 other than DRAIN (R162, R163). -/
def State.answerCommand (s : State) (code : Nat) (first second : Word) : Answered :=
  if code = 2 then s.whenRunning fun t => t.channelClose (bits first 23 16)
  else if code = 3 then s.whenRunning fun t => t.stationDrop (stationName first)
  else if code = 4 then s.whenRunning fun t => t.stationRestart (stationName first)
  else if code = 5 then s.whenRunning fun t => t.stationMove (stationName first) (stationName second)
  else (s.errorClear first, .done)

/-- A command is taken, with the command word and the argument words as the staging copy holds them: the tests of R163
in their order, then the command, then its result (R162, R163). -/
def State.takeCommand (s : State) : State :=
  let word := Words.read s.settings.staging Config.commandWord
  let first := Words.read s.settings.staging Config.firstArgument
  let second := Words.read s.settings.staging Config.secondArgument
  let code := bits word 7 0
  let sequence : BitVec 16 := BitVec.ofNat 16 (bits word 31 16)
  if code = 0 then s
  else if 8 ≤ code then s.commandAnswer sequence code 0 .badArgument
  else if code = 1 then s.softReset sequence
  else if s.settings.draining.isSome then s.commandAnswer sequence code 0 .busy
  else if code = 6 then
    if s.part = .stopped then s.commandAnswer sequence code 0 .notRunning else s.startDrain sequence
  else
    match s.answerCommand code first second with
    | (t, result) => t.commandAnswer sequence code 0 result

/-! ### The consumer index (R171, R174) -/

/-- A consumer index is offered: it is taken when it is below S and does not pass the producer; then the mark follows a
consumer that has reached it, and the holding queue is written out (R171, R174; log 19). -/
def State.offerConsumer (s : State) : State :=
  let v := setting s.settings.staging Config.consumerWord 11 0
  let slots := eventSlots s.settings.active
  if v < slots ∧ ringDistance slots v s.events.consumer ≤ ringDistance slots s.events.producer s.events.consumer then
    let t : State := { s with events := { s.events with consumer := v } }
    let t := if t.markedUnread then t else { t with events := { t.events with mark := v } }
    t.writeOutHeld
  else s

end Sys2Proof.Machine
end

