-- ==== Sys2Proof/Machine/Ops.lean ====
section
/-!
DEFINITION. The shared operations of the steps: the settling of a request at its turn (R139), the settings write (R155),
waiting and the stopped port (R144, R145), completions (R138), own writes acknowledged (R151), and ticks (R118, R119,
R133).
-/

namespace Sys2Proof.Machine

/-! ### Settings writes (R155) -/

/-- Word `k` of a settings write is copied into the staging copy, lane by lane, unless it falls outside the window or in
the status area. -/
def copyWord (straps : Straps) (r : Request) (staging : Table Word) (k : Nat) : Table Word :=
  match Request.windowWord r straps k, (Request.laneWords r)[k]? with
  | some word, some w =>
    if Config.statusWords.contains word then staging
    else Words.write staging word (mergeLanes w.lanes (Words.read staging word) w.data)
  | _, _ => staging

/-- The settings intake copies a settings write (R155). -/
def State.copySettings (s : State) (r : Request) : State :=
  { s with settings := { s.settings with
    staging := (List.range r.words).foldl (copyWord s.pins.straps r) s.settings.staging } }

/-- A control word is acted on when the write covers it with every lane on; a fatal setting of the action takes effect
before the next control word (R155, R180). -/
def State.onControl (s : State) (r : Request) (word : Nat) (f : State → State) : State :=
  if Request.covers r s.pins.straps word then (f s).stopIfDue else s

/-- The apply that the staging copy's apply word asks for (R159). -/
def State.takeApply (s : State) : State :=
  s.applySettings (BitVec.ofNat 16 (setting s.settings.staging Config.applyWord 15 0))

/-- A settings write is copied, and then its control words act in ascending order (R155). -/
def State.settingsWrite (s : State) (r : Request) : State :=
  if s.settingsRequest r then
    (((s.copySettings r).onControl r Config.applyWord State.takeApply).onControl r Config.commandWord
      State.takeCommand).onControl r Config.consumerWord State.offerConsumer
  else s

/-! ### Settling a request at its turn (R139) -/

/-- A write that fails a guard check is answered with ERROR and sets GUARD_BLOCK (R142). -/
def State.blockWrite (s : State) (r : Request) : State :=
  let answer : Completion := { source := r.source, tag := r.tag, status := .error, data := [] }
  let t : State := { s with forwarder := { s.forwarder with toInitiator := s.forwarder.toInitiator ++ [answer] } }
  t.setError .guardBlock t.time.counter

/-- A write that is neither blocked nor taken as a response is forwarded unchanged, and the report intake, the fill unit
and the settings intake each act on it as it is passed (R139; log 22). A fatal setting made by the report intake or the
fill unit takes effect when both have done with the write, and before the settings intake acts (DEDUCED, log 20). -/
def State.passWrite (s : State) (r : Request) : State :=
  let serial := s.forwarder.nextSerial
  let t := s.beginForward.forwardAs serial r
  (((t.intakeWrite r).notTaken r).stopIfDue.withCause none).settingsWrite r

/-- The key of a response: the open local channel that claims its channel number, with its station tag (R97). -/
def State.responseKey? (s : State) (r : Request) : Option Key :=
  (claimant s.settings.active (bits (Request.word r 1) 3 0)).map fun channel =>
    { channel := channel, tag := bits (Request.word r 1) 31 16 }

/-- The fill request flag of a response. -/
def fillRequested (r : Request) : Bool := (Request.word r 0).getLsbD 8

/-- A response to be filled whose station's context is busy, so that it wants a held place (R101, R103): its key. -/
def State.wantsHold (s : State) (r : Request) : Option Key :=
  if (s.responseSlot? r).isSome && fillRequested r then
    match s.responseKey? r with
    | none => none
    | some key =>
      match (Table.get? s.table.directory key.number).bind s.context? with
      | none => none
      | some c => if tagInRange key.tag && c.intact && c.busy then some key else none
  else none

/-- A response that is not held is filled, or passed untouched with its slot unmapped, and forwarded (R101, R102). A tag
out of range finds no station (R106). -/
def State.passResponse (s : State) (r : Request) (slot : Nat) : State :=
  let serial := s.forwarder.nextSerial
  let t := s.beginForward
  match fillRequested r, s.responseKey? r with
  | true, some key =>
    if tagInRange key.tag then
      match t.lookup key t.time.counter with
      | (u, found) => (u.settleHeld.withCause (some serial)).fillAndForward serial r key slot found
    else t.fillAndForward serial r key slot none
  | _, _ => (t.unmapSlot slot).forwardAs serial r

/-- A read is forwarded, and a delivery read acts on the context its slot names (R110 to R112). -/
def State.deliver (s : State) (slot : Nat) : State :=
  let now := s.time.counter
  match Table.get? s.slotMap slot with
  | none => s
  | some index =>
    match s.context? index with
    | none => s
    | some c =>
      if !c.intact then s.failIntegrity index now
      else
        match c.correction with
        | .none => s
        | .ready _ => s
        | .issued issued _ =>
          if issued.status = .abort then s.releaseStation index .abortDelivered now 0
          else
            let t := { s.writeContext index { c with correction := .sent issued now } with
              slotMap := Table.erase s.slotMap slot }
            t.arm index .confirm (later now (confirmWindow t.settings.active c.key.channel))
        | .sent _ _ => s

/-- A read at its turn (R139). Own writes a delivery makes wait for nothing more, since the read has been passed
(R150). -/
def State.passRead (s : State) (r : Request) : State :=
  let t := (s.beginForward.forwardAs s.forwarder.nextSerial r).withCause none
  match s.deliverySlot? r with
  | none => t
  | some slot => t.deliver slot

/-! ### Held places, waiting places and the stopped port (R143 to R145) -/

/-- How many waiting requests stand at their turn and want a held place (R145); a source has at most one. -/
def State.waitingHolds (s : State) : Nat :=
  (List.range 16).countP fun n =>
    let o : Origin := .waiting (BitVec.ofNat 4 n)
    (s.requestAt o).any fun r => s.atTurn o r && (s.wantsHold r).isSome

/-- A held place is free for a request of this origin; waiting requests that want one come first (R145). -/
def State.heldPlaceFor (s : State) (o : Origin) : Bool :=
  let ahead :=
    match o with
    | .port _ => s.waitingHolds
    | .stalled => s.waitingHolds
    | .waiting _ => 0
  decide (s.forwarder.held.length + ahead < Config.heldPlaces)

/-- The port stops with this request standing at it, untaken (R145); a request from elsewhere stays where it is. -/
def State.stallPort (s : State) : Origin → State
  | .port r => { s with forwarder := { s.forwarder with stalled := some r } }
  | .stalled => s
  | .waiting _ => s

/-- A response becomes a held write (R143). -/
def State.hold (s : State) (r : Request) (key : Key) (slot : Nat) : State :=
  { s with forwarder := { s.forwarder with
    held := s.forwarder.held ++ [{ request := r, key := key, slot := some slot }] } }

/-- A write taken as a response, at its turn: held, or passed; it waits where it is when no held place is free (R98,
R101, R143, R145). -/
def State.settleResponse (s : State) (o : Origin) (r : Request) (slot : Nat) : State :=
  match s.wantsHold r with
  | some key => if s.heldPlaceFor o then (s.leaving o).hold r key slot else s.stallPort o
  | none => (s.leaving o).passResponse r slot

/-- A request before its turn joins the waiting buffer, or stops the port when its places are used (R144, R145). -/
def State.joinWaiting (s : State) (o : Origin) (r : Request) : State :=
  match o with
  | .waiting _ => s
  | .port _ =>
    if s.forwarder.waiting.length < Config.waitingPlaces then
      { s with forwarder := { s.forwarder with waiting := s.forwarder.waiting ++ [r] } }
    else s.stallPort o
  | .stalled =>
    if s.forwarder.waiting.length < Config.waitingPlaces then
      { s with forwarder := { s.forwarder with stalled := none, waiting := s.forwarder.waiting ++ [r] } }
    else s

/-- A step that settles a request: it happens when there is such a request, its turn has come and it is of the step's
kind; otherwise the step does not happen and nothing changes (log 2). -/
def State.settle (s : State) (o : Origin) (kind : Request → Bool) (f : Request → State) : State :=
  match s.requestAt o with
  | none => s
  | some r => if s.atTurn o r && kind r then f r else s

/-- A settle step of a write that is forwarded unchanged. -/
def State.settlePass (s : State) (o : Origin) (kind : Request → Bool) : State :=
  s.settle o (fun r => Request.isWrite r && !s.guardFails r && (s.responseSlot? r).isNone && kind r) fun r =>
    (s.leaving o).passWrite r

/-- A settings write that covers a control word with every lane on. -/
def State.controls (s : State) (r : Request) (word : Nat) : Bool :=
  s.settingsRequest r && Request.covers r s.pins.straps word

/-- The code of the command a settings write starts: read from the staging copy with the write copied into it (R162). -/
def State.commandCode (s : State) (r : Request) : Nat :=
  bits (Words.read (s.copySettings r).settings.staging Config.commandWord) 7 0

/-- A settings write that starts the command of this code. -/
def State.commands (s : State) (r : Request) (code : Nat) : Bool :=
  s.controls r Config.commandWord && s.commandCode r == code

/-- A settings write that is no other row's: it covers neither the apply word nor the consumer index word, and starts no
command of a row (R155, R163; log 21). -/
def State.plainSettings (s : State) (r : Request) : Bool :=
  s.settingsRequest r && !s.controls r Config.applyWord && !s.controls r Config.consumerWord &&
    !(s.controls r Config.commandWord && decide (1 ≤ s.commandCode r) && decide (s.commandCode r ≤ 7))

/-! ### The memory port (R138, R149 to R151) -/

/-- The completion is that of an outstanding own write (R138). -/
def State.ownCompletion (s : State) (c : Completion) : Bool :=
  c.source == s.pins.straps.ownSource && s.own.outstanding.any fun o => o.tag.toNat == c.tag

/-- The in-flight request a completion answers. -/
def InFlight.answeredBy (q : InFlight) (c : Completion) : Bool := q.source == c.source && q.tag == c.tag

/-- A completion of a forwarded request is returned unchanged; one of no request in flight is discarded (R138, R147).
DESIGN CHOICE (log 46): a late completion of a request from before a power-on reset answers a newer one of its source and
tag, if there is one. -/
def State.returnCompletion (s : State) (c : Completion) : State :=
  if s.ownCompletion c then s
  else if s.forwarder.inFlight.any fun q => q.answeredBy c then
    { s with forwarder := { s.forwarder with
      inFlight := s.forwarder.inFlight.eraseP fun q => q.answeredBy c
      toInitiator := s.forwarder.toInitiator ++ [c] } }
  else s

/-- An own write is acknowledged: it is outstanding no more, and ERROR sets INJECT_FAULT unless it was sent before the
last SOFT_RESET (R151). DESIGN CHOICE (log 46): a late acknowledgement of an own write from before a power-on reset ends a
newer one of its tag, if there is one. -/
def State.ackOwn (s : State) (tag : BitVec 8) (status : CompletionStatus) : State :=
  match s.own.outstanding.find? fun o => o.tag == tag with
  | none => s
  | some o =>
    let t := { s with own := { s.own with outstanding := s.own.outstanding.eraseP fun p => p.tag == tag } }
    if status = .error ∧ !o.beforeReset then t.setError .injectFault t.time.counter else t

/-- The head of the holding queue is written to the ring, if there is room (R169). -/
def State.writeHeldEvent (s : State) : State :=
  match s.events.holding with
  | [] => s
  | e :: rest =>
    if s.canWriteRecord then { s with events := { s.events with holding := rest } }.writeRecord e else s

/-! ### Ticks and pins (R118, R119, R133, R177) -/

/-- The ageing timer counts while the part is RUNNING in TIME mode with N of 1..15 (R133). -/
def State.ageingTimerCounts (s : State) : Bool :=
  s.running && ageingByTime s.settings.active && decide (1 ≤ ageingN s.settings.active)

/-- A tick of PCLK: the counter rises by one, or takes the sync value when an edge of SYNC_IN waits; the ageing timer
counts on (R118, R119, R133). -/
def State.tick (s : State) : State :=
  { s with time := { s.time with
    counter := if s.time.syncEdge then syncValue s.settings.staging else s.time.counter + 1
    syncEdge := false
    ageingTimer := if s.ageingTimerCounts then s.time.ageingTimer + 1 else s.time.ageingTimer } }

/-- RSTn low: the part forgets every request and completion in flight, and its own writes (R147, R151, R177). -/
def State.holdInReset (s : State) : State :=
  { s with
    pins := { s.pins with resetLow := true }
    forwarder := { s.forwarder with held := [], waiting := [], stalled := none, inFlight := [] }
    own := { s.own with queue := [], outstanding := [] } }

end Sys2Proof.Machine
end

