-- ==== Sys2Proof/Machine/Internal.lean ====
section
/-!
DEFINITION. The steps the part makes on its own: takings, completions, expiries, ageing, DRAIN_DONE and events written
out. One whose condition does not hold does not happen (log 2).
-/

namespace Sys2Proof.Machine

/-- DRAIN_DONE (R153). -/
def execDrainDone (s : State) : Host.Outcome State Fault Refusal := s.act State.finishDrain

/-- EVENT_WRITE_OUT (R169). -/
def execEventWriteOut (s : State) : Host.Outcome State Fault Refusal := s.act State.writeHeldEvent

/-- TAKE_HEAD (R43 to R45). -/
def execTakeHead (s : State) : Host.Outcome State Fault Refusal := s.act State.takeHead

/-- AGEING_COUNT: the ageing counter standing at 16 x N or more makes an ageing step (R24; log 17). -/
def execAgeingCount (s : State) : Host.Outcome State Fault Refusal :=
  s.act fun t => if t.running then t.ageByCount else t

/-- NOTED_COMPLETION (R46). -/
def execNotedCompletion (s : State) : Host.Outcome State Fault Refusal := s.act State.completeNoted

/-- FULL_COMPLETION (R47). -/
def execFullCompletion (s : State) : Host.Outcome State Fault Refusal := s.act State.completeFull

/-- SILENCE_EXPIRY (R127, R131). -/
def execSilenceExpiry (s : State) : Host.Outcome State Fault Refusal := s.act State.fireSilence

/-- CONFIRM_EXPIRY (R127, R132). -/
def execConfirmExpiry (s : State) : Host.Outcome State Fault Refusal := s.act State.fireConfirm

/-- AGEING_TIMER (R133). -/
def execAgeingTimer (s : State) : Host.Outcome State Fault Refusal := s.act State.fireAgeingTimer

end Sys2Proof.Machine
end

