-- ==== Sys2Proof/Machine/MemoryPort.lean ====
section
/-!
DEFINITION. The commands of the memory port: completions of forwarded requests, and the part's own writes sent and
acknowledged.
-/

namespace Sys2Proof.Machine

/-- MEMORY_COMPLETION (R138, R147). -/
def execMemoryCompletion (c : Completion) (s : State) : Host.Outcome State Fault Refusal :=
  s.act fun t => t.returnCompletion c

/-- OWN_WRITE_SEND (R148, R149). -/
def execOwnWriteSend (s : State) : Host.Outcome State Fault Refusal := s.act State.sendOwn

/-- OWN_WRITE_ACK (R151). -/
def execOwnWriteAck (tag : BitVec 8) (status : CompletionStatus) (s : State) : Host.Outcome State Fault Refusal :=
  s.act fun t => t.ackOwn tag status

end Sys2Proof.Machine
end

