-- ==== Sys2Proof/Machine/Pins.lean ====
section
/-!
DEFINITION. The commands of the pins: POWER_ON_RESET, RSTN_LOW, SYNC_LOAD and PCLK_TICK.
-/

namespace Sys2Proof.Machine

/-- POWER_ON_RESET: every block at its power-on value, with the straps sampled (R177). -/
def execPowerOnReset (straps : Straps) (s : State) : Host.Outcome State Fault Refusal :=
  .next (State.powerOn straps s.pending)

/-- RSTN_LOW: the part takes and issues no request, and forgets what is in flight (R147, R177). -/
def execRstnLow (s : State) : Host.Outcome State Fault Refusal := .next s.holdInReset

/-- SYNC_LOAD: a rising edge of SYNC_IN waits for the next tick, which loads the sync value; edges closer together than
one tick make one load (R119; log 5). -/
def execSyncLoad (s : State) : Host.Outcome State Fault Refusal :=
  s.act fun t => { t with time := { t.time with syncEdge := true } }

/-- PCLK_TICK (R118, R119, R133). -/
def execPclkTick (s : State) : Host.Outcome State Fault Refusal := s.act State.tick

end Sys2Proof.Machine
end

