-- ==== Sys2Proof/Machine/Requests.lean ====
section
/-!
DEFINITION. The commands that are requests of the initiators, but for settings writes that start something: they wait,
are forwarded, blocked, taken or held (chapters 02, 05, 07).
-/

namespace Sys2Proof.Machine

/-- REQUEST_WAIT: a request before its turn joins the waiting buffer, or stops the port (R144, R145). -/
def execRequestWait (o : Origin) (s : State) : Host.Outcome State Fault Refusal :=
  s.act fun t =>
    match t.requestAt o with
    | none => t
    | some r => if t.atTurn o r then t else t.joinWaiting o r

/-- FORWARD_WRITE: a write that no block takes or blocks is forwarded unchanged (R137). -/
def execForwardWrite (o : Origin) (s : State) : Host.Outcome State Fault Refusal :=
  s.act fun t => t.settlePass o fun r => !t.examined r

/-- FORWARD_READ: a read that is no delivery read is forwarded unchanged (R137). -/
def execForwardRead (o : Origin) (s : State) : Host.Outcome State Fault Refusal :=
  s.act fun t =>
    t.settle o (fun r => !Request.isWrite r && (t.deliverySlot? r).isNone) fun r => (t.leaving o).passRead r

/-- BLOCKED_WRITE: a write that fails a guard check is answered with ERROR and not forwarded (R142). -/
def execBlockedWrite (o : Origin) (s : State) : Host.Outcome State Fault Refusal :=
  s.act fun t => t.settle o t.guardFails fun r => (t.leaving o).blockWrite r

/-- REPORT_WRITE: a write taken as a report is forwarded unchanged and its copy checked and queued or rejected (R30,
R35 to R41). -/
def execReportWrite (o : Origin) (s : State) : Host.Outcome State Fault Refusal :=
  s.act fun t => t.settlePass o fun r => (t.reportSlot? r).isSome

/-- TORN_WRITE: a receiver write into the ring that is not taken is forwarded unchanged and sets TORN_REPORT (R31). -/
def execTornWrite (o : Origin) (s : State) : Host.Outcome State Fault Refusal :=
  s.act fun t => t.settlePass o t.tornWrite

/-- RESPONSE_WRITE: a write taken as a response is filled, held or passed (R98, R101 to R106). -/
def execResponseWrite (o : Origin) (s : State) : Host.Outcome State Fault Refusal :=
  s.act fun t =>
    t.settle o (fun r => !t.guardFails r && (t.responseSlot? r).isSome) fun r =>
      t.settleResponse o r ((t.responseSlot? r).getD 0)

/-- RESPONSE_NOT_TAKEN: a write into the staging area that is not taken is forwarded unchanged, unmaps the slots it
overlaps and may set SHORT_RESPONSE (R99). -/
def execResponseNotTaken (o : Origin) (s : State) : Host.Outcome State Fault Refusal :=
  s.act fun t => t.settlePass o t.responseNotTaken

/-- DELIVERY_READ: a transmit-source read of a slot's first word is forwarded and delivers what the slot maps (R110 to
R112). -/
def execDeliveryRead (o : Origin) (s : State) : Host.Outcome State Fault Refusal :=
  s.act fun t => t.settle o (fun r => (t.deliverySlot? r).isSome) fun r => (t.leaving o).passRead r

/-- SETTINGS_WRITE: a settings write is forwarded and copied; it starts no step of another row (R155, R163). -/
def execSettingsWrite (o : Origin) (s : State) : Host.Outcome State Fault Refusal :=
  s.act fun t => t.settlePass o t.plainSettings

end Sys2Proof.Machine
end

