-- ==== Sys2Proof/Machine/Window.lean ====
section
/-!
DEFINITION. The commands that are settings writes covering a control word: APPLY, CONSUMER_INDEX_WRITE and the commands
of the command word. A write that covers several control words is a step of each of their rows, and acts on all of them
in ascending order (R155; log 21).
-/

namespace Sys2Proof.Machine

/-- APPLY (R159 to R161). -/
def execApplyWrite (o : Origin) (s : State) : Host.Outcome State Fault Refusal :=
  s.act fun t => t.settlePass o fun r => t.controls r Config.applyWord

/-- CONSUMER_INDEX_WRITE (R171). -/
def execConsumerIndexWrite (o : Origin) (s : State) : Host.Outcome State Fault Refusal :=
  s.act fun t => t.settlePass o fun r => t.controls r Config.consumerWord

/-- SOFT_RESET (R164, R181). -/
def execSoftReset (o : Origin) (s : State) : Host.Outcome State Fault Refusal :=
  s.act fun t => t.settlePass o fun r => t.commands r 1

/-- CHANNEL_CLOSE (R165). -/
def execChannelClose (o : Origin) (s : State) : Host.Outcome State Fault Refusal :=
  s.act fun t => t.settlePass o fun r => t.commands r 2

/-- STATION_DROP (R21). -/
def execStationDrop (o : Origin) (s : State) : Host.Outcome State Fault Refusal :=
  s.act fun t => t.settlePass o fun r => t.commands r 3

/-- STATION_RESTART (R22). -/
def execStationRestart (o : Origin) (s : State) : Host.Outcome State Fault Refusal :=
  s.act fun t => t.settlePass o fun r => t.commands r 4

/-- STATION_MOVE (R23). -/
def execStationMove (o : Origin) (s : State) : Host.Outcome State Fault Refusal :=
  s.act fun t => t.settlePass o fun r => t.commands r 5

/-- DRAIN (R153). -/
def execDrain (o : Origin) (s : State) : Host.Outcome State Fault Refusal :=
  s.act fun t => t.settlePass o fun r => t.commands r 6

/-- ERROR_CLEAR (R166). -/
def execErrorClear (o : Origin) (s : State) : Host.Outcome State Fault Refusal :=
  s.act fun t => t.settlePass o fun r => t.commands r 7

end Sys2Proof.Machine
end

