-- ==== Sys2Proof/Machine/Dispatch.lean ====
section
/-!
DEFINITION. One arm for each command, in the order of spec/opcode_table.json.
-/

namespace Sys2Proof.Machine

def exec (i : Instr) (s : State) : Host.Outcome State Fault Refusal :=
  match i with
  | .powerOnReset straps => Sys2Proof.Machine.execPowerOnReset straps s
  | .syncLoad => Sys2Proof.Machine.execSyncLoad s
  | .requestWait o => Sys2Proof.Machine.execRequestWait o s
  | .forwardWrite o => Sys2Proof.Machine.execForwardWrite o s
  | .forwardRead o => Sys2Proof.Machine.execForwardRead o s
  | .blockedWrite o => Sys2Proof.Machine.execBlockedWrite o s
  | .reportWrite o => Sys2Proof.Machine.execReportWrite o s
  | .tornWrite o => Sys2Proof.Machine.execTornWrite o s
  | .responseWrite o => Sys2Proof.Machine.execResponseWrite o s
  | .responseNotTaken o => Sys2Proof.Machine.execResponseNotTaken o s
  | .deliveryRead o => Sys2Proof.Machine.execDeliveryRead o s
  | .settingsWrite o => Sys2Proof.Machine.execSettingsWrite o s
  | .applyWrite o => Sys2Proof.Machine.execApplyWrite o s
  | .consumerIndexWrite o => Sys2Proof.Machine.execConsumerIndexWrite o s
  | .softReset o => Sys2Proof.Machine.execSoftReset o s
  | .channelClose o => Sys2Proof.Machine.execChannelClose o s
  | .stationDrop o => Sys2Proof.Machine.execStationDrop o s
  | .stationRestart o => Sys2Proof.Machine.execStationRestart o s
  | .stationMove o => Sys2Proof.Machine.execStationMove o s
  | .drain o => Sys2Proof.Machine.execDrain o s
  | .drainDone => Sys2Proof.Machine.execDrainDone s
  | .errorClear o => Sys2Proof.Machine.execErrorClear o s
  | .memoryCompletion c => Sys2Proof.Machine.execMemoryCompletion c s
  | .ownWriteSend => Sys2Proof.Machine.execOwnWriteSend s
  | .ownWriteAck tag status => Sys2Proof.Machine.execOwnWriteAck tag status s
  | .eventWriteOut => Sys2Proof.Machine.execEventWriteOut s
  | .takeHead => Sys2Proof.Machine.execTakeHead s
  | .ageingCount => Sys2Proof.Machine.execAgeingCount s
  | .notedCompletion => Sys2Proof.Machine.execNotedCompletion s
  | .fullCompletion => Sys2Proof.Machine.execFullCompletion s
  | .silenceExpiry => Sys2Proof.Machine.execSilenceExpiry s
  | .confirmExpiry => Sys2Proof.Machine.execConfirmExpiry s
  | .ageingTimer => Sys2Proof.Machine.execAgeingTimer s
  | .pclkTick => Sys2Proof.Machine.execPclkTick s
  | .rstnLow => Sys2Proof.Machine.execRstnLow s

end Sys2Proof.Machine
end

