-- ==== Sys2Proof/Safety.lean ====
section
/-!
DEFINITION. The terms that claims use: when a request has come to its turn, what a step needs so that nothing is lost or
stopped by the way, and what is true of the part after every step: its capacities, the canonical forms of its tables, and
the agreement of its records. Every step of this machine answers a next state; a run is safe when these hold in each.
-/

namespace Sys2Proof.Machine

/-! ### What a step finds -/

/-- The part is out of reset and stands between two steps, with ATTN at its level (R173). -/
def State.between (s : State) : Bool :=
  !s.pins.resetLow && s.now == { cause := none, stopDue := false } && s.pins.attention == s.attentionLevel

/-- The request stands at this origin and its turn has come (R139). -/
def State.presents (s : State) (o : Origin) (r : Request) : Bool :=
  s.requestAt o == some r && s.atTurn o r

/-- The request stands at this origin at its turn, and no own write may be sent before it. Where one may, it goes first
(R149), and `Obligations.OwnWriteIsSentInTurn` says how the step then goes on. -/
def State.offers (s : State) (o : Origin) (r : Request) : Bool := s.presents o r && !s.ownReady

/-- The state once every own write that may be sent has been sent, each by a step of OWN_WRITE_SEND (R149). -/
def State.ownSent (s : State) : State :=
  let t := s.sendReady
  { t with pins := { t.pins with attention := t.attentionLevel } }

/-- Where the request of a step comes from, for a row that acts on a request. -/
def originOf : Instr → Option Origin
  | .requestWait o | .forwardWrite o | .forwardRead o | .blockedWrite o | .reportWrite o | .tornWrite o | .responseWrite o
  | .responseNotTaken o | .deliveryRead o | .settingsWrite o | .applyWrite o | .consumerIndexWrite o | .softReset o
  | .channelClose o | .stationDrop o | .stationRestart o | .stationMove o | .drain o | .errorClear o => some o
  | .powerOnReset _ | .syncLoad | .drainDone | .memoryCompletion _ | .ownWriteSend | .ownWriteAck _ _ | .eventWriteOut
  | .takeHead | .ageingCount | .notedCompletion | .fullCompletion | .silenceExpiry | .confirmExpiry | .ageingTimer
  | .pclkTick | .rstnLow => none

/-- Where the request comes from, for a row by which a settings write may pass: those of chapter 08, and those of an area
that a settings write overlaps as well (log 22). -/
def settingsOriginOf : Instr → Option Origin
  | .reportWrite o | .tornWrite o | .responseNotTaken o | .settingsWrite o | .applyWrite o | .consumerIndexWrite o
  | .softReset o | .channelClose o | .stationDrop o | .stationRestart o | .stationMove o | .drain o | .errorClear o =>
    some o
  | .requestWait _ | .forwardWrite _ | .forwardRead _ | .blockedWrite _ | .responseWrite _ | .deliveryRead _
  | .powerOnReset _ | .syncLoad | .drainDone | .memoryCompletion _ | .ownWriteSend | .ownWriteAck _ _ | .eventWriteOut
  | .takeHead | .ageingCount | .notedCompletion | .fullCompletion | .silenceExpiry | .confirmExpiry | .ageingTimer
  | .pclkTick | .rstnLow => none

/-- So many events handed on find a place in the holding queue, whatever the ring holds (R169, R170). -/
def State.eventRoom (s : State) (n : Nat) : Bool :=
  decide (s.events.holding.length + n ≤ Config.holdingPlaces)

/-- A setting of this error kind does not stop the part: it is masked, or its severity is NOTICE (R175, R180). -/
def State.tolerates (s : State) (k : ErrorKind) : Bool :=
  errorMasked s.settings.active k.code || !errorFatal s.settings.active k.code

/-- The write meets neither guard, nor the report ring from the receiver, nor the staging area. -/
def State.clearOfAreas (s : State) (r : Request) : Bool :=
  !s.guardFails r && (s.reportSlot? r).isNone && !s.tornWrite r && (s.responseSlot? r).isNone && !s.responseNotTaken r

/-- A write that meets neither guard, nor the staging area, nor, as a settings write, the window: of the areas, the report
ring alone may be its own. -/
def State.meetsOnlyRing (s : State) (r : Request) : Bool :=
  !s.guardFails r && (s.responseSlot? r).isNone && !s.responseNotTaken r && !s.settingsRequest r

/-- A write that meets neither guard, nor the report ring from the receiver, nor, as a settings write, the window: of the
areas, the staging area alone may be its own. -/
def State.meetsOnlyStaging (s : State) (r : Request) : Bool :=
  !s.guardFails r && (s.reportSlot? r).isNone && !s.tornWrite r && !s.settingsRequest r

/-- A settings write that meets no other area and, of the control words, covers this one alone with every lane on. -/
def State.soleControl (s : State) (r : Request) (word : Nat) : Bool :=
  Request.isWrite r && s.clearOfAreas r && s.controls r word &&
    [Config.applyWord, Config.commandWord, Config.consumerWord].all fun w =>
      w == word || !Request.covers r s.pins.straps w

/-- A settings write that meets no other area and covers no control word with every lane on. -/
def State.noControl (s : State) (r : Request) : Bool :=
  Request.isWrite r && s.clearOfAreas r && s.settingsRequest r &&
    [Config.applyWord, Config.commandWord, Config.consumerWord].all fun w => !Request.covers r s.pins.straps w

/-- The request has left where it stood, and `q` has been forwarded for it: number, in-flight entry and memory port
(R136, R137). -/
def State.withForwarded (s : State) (o : Origin) (r q : Request) : State :=
  let t := s.leaving o
  { t with forwarder := { t.forwarder with
      nextSerial := s.forwarder.nextSerial + 1
      inFlight := s.forwarder.inFlight ++ [{ serial := s.forwarder.nextSerial, source := r.source, tag := r.tag }]
      toMemory := s.forwarder.toMemory ++ [q] } }

/-- The state in which a settings write that meets no other area has been forwarded and copied (R155). -/
def State.withCopied (s : State) (o : Origin) (r : Request) : State :=
  (s.withForwarded o r r).copySettings r

/-- The command word, as this state's staging copy holds it, has this code. -/
def State.hasCommand (s : State) (code : Nat) : Bool :=
  bits (Words.read s.settings.staging Config.commandWord) 7 0 == code

/-- The command sequence of the command word as this state's staging copy holds it. -/
def State.commandSequence (s : State) : BitVec 16 :=
  BitVec.ofNat 16 (bits (Words.read s.settings.staging Config.commandWord) 31 16)

/-- The station that the first argument names, as this state's staging copy holds it. -/
def State.firstNamed (s : State) : StationName := stationName (Words.read s.settings.staging Config.firstArgument)

/-- The station that the second argument names, as this state's staging copy holds it. -/
def State.secondNamed (s : State) : StationName := stationName (Words.read s.settings.staging Config.secondArgument)

/-- The row of the opcode table that a command code of 1 to 7 belongs to (R162). -/
def commandRow (code : Nat) (o : Origin) : Instr :=
  if code = 1 then .softReset o
  else if code = 2 then .channelClose o
  else if code = 3 then .stationDrop o
  else if code = 4 then .stationRestart o
  else if code = 5 then .stationMove o
  else if code = 6 then .drain o
  else if code = 7 then .errorClear o
  else .settingsWrite o

/-- The next report that reaches a context makes no ageing step (R24). -/
def State.ageingQuiet (s : State) : Bool :=
  ageingByTime s.settings.active || ageingN s.settings.active == 0 ||
    decide (s.table.ageing + 1 < 16 * ageingN s.settings.active)

/-- The ageing counter after a report that reached a context (R24). -/
def State.ageingCounted (s : State) : Nat :=
  if ageingByTime s.settings.active then s.table.ageing else s.table.ageing + 1

/-- The deadlines once one of a context and kind has been re-armed (R125). -/
def rearmed (deadlines : List Deadline) (index : Nat) (kind : DeadlineKind) (expiry : Time) : List Deadline :=
  (deadlines.filter fun d => !d.isFor index kind) ++ [{ index := index, kind := kind, expiry := expiry }]

/-- How long an entry has been due (R127). -/
def State.overdue (s : State) (d : Deadline) : Nat := (s.time.counter - d.expiry).toNat

/-- The index of a station whose record checks, by its key. -/
def State.known (s : State) (key : Key) (index : Nat) (c : Context) : Bool :=
  Table.get? s.table.directory key.number == some index && s.context? index == some c && c.intact

/-- A key that no directory entry names. -/
def State.unknown (s : State) (key : Key) : Bool := (Table.get? s.table.directory key.number).isNone

/-- The own-write queue ends with a write of this status-area word with this value. -/
def State.lastIssued (s : State) (word : Nat) (value : Word) : Bool :=
  (s.own.queue.getLast?.map OwnWrite.body) == some (.status word value)

/-- The own writes once one status-area word has been issued with this value, by a settings write or a step of the part's
own: an entry of the word still waiting leaves its place, and the new one stands last (R148, R150). -/
def OwnWrites.issued (w : OwnWrites) (word : Nat) (value : Word) : OwnWrites :=
  { w with queue := (w.queue.filter fun x => !x.isStatus word) ++ [{ body := .status word value, cause := none }] }

/-- An event record is on its way to the ring: in the holding queue, or in the own-write queue with its sequence and lost
flag put in its first word (R169, R172). -/
def State.hasEvent (s : State) (e : EventRecord) : Bool :=
  s.events.holding.contains e ||
    s.own.queue.any fun w =>
      match w.body with
      | .record _ words => words.tail == e.words.tail && w.cause == e.cause
      | .status _ _ => false

/-- The event with these fields, at this time and with this cause, is dropped because its kind is off, or is on its
way (R169). -/
def State.reports (s : State) (f : EventFields) (time : Time) (cause : Option Nat) : Bool :=
  !eventEnabled s.settings.active f.kind || s.hasEvent { kind := f.kind, words := f.encode time, cause := cause }

/-- The event with these fields is dropped or on its way, or its record has gone to memory since the state `u`, as an own
write that went before a held write (R149, R169). -/
def State.reportsSince (t u : State) (f : EventFields) (time : Time) (cause : Option Nat) : Bool :=
  t.reports f time cause ||
    (t.forwarder.toMemory.drop u.forwarder.toMemory.length).any fun q =>
      q.source == t.pins.straps.ownSource && ((Request.laneWords q).map LaneWord.data).tail == (f.encode time).tail

/-- Between these states the context of this index has been released, and no other record has changed: it is vacant, and
the directory, the slot map, the deadline list and the corrector name it no more (R18). -/
structure Released (s t : State) (index : Nat) : Prop where
  gone : t.context? index = none
  others : ∀ m, m ≠ index → t.context? m = s.context? m
  directory : t.table.directory = s.table.directory.filter fun p => p.2 != index
  slotMap : t.slotMap = s.slotMap.filter fun p => p.2 != index
  deadlines : t.time.deadlines = s.time.deadlines.filter fun d => d.index != index
  flight : t.flight = s.flight.filter fun f => f.index != index

/-- The STATION_RELEASED event of a release (R18): key, index, reason, stage, origin, last heard and last metrics. -/
def State.releasedFields (s : State) (c : Context) (index : Nat) (reason : ReleaseReason) (stage : Nat) : EventFields :=
  ({ s.stationFields 4 c.key index with reason := reason.code, stage := stage } : EventFields).withHistory c

/-- Between these states the context of this index has failed its check: it has been released with reason INTEGRITY and its
index quarantined, and CONTEXT_INTEGRITY is set (R27, R28). -/
structure FailedCheck (u t : State) (index : Nat) (c : Context) (time : Time) (cause : Option Nat) : Prop where
  released : Released u t index
  quarantined : t.table.quarantined = u.table.quarantined ++ [index]
  errors : t.events.errors = u.events.errors ||| 512#10
  reported : t.reportsSince u (u.releasedFields c index .integrity 0) time cause = true

/-- What a step needs so that one failed check stops nothing and loses no event. -/
def State.damageRoom (s : State) : Bool := s.eventRoom 2 && s.tolerates .contextIntegrity

/-- A context that a first contact on this channel may reclaim (R13). -/
def Reclaimable (c : Context) (channel : Nat) : Prop :=
  c.key.channel = channel ∧ c.age = 3 ∧ (c.station = .tracking ∨ c.station = .due) ∧ c.correction = .none ∧
    c.busy = false

/-! ### Slots and held writes (R99 to R104, R137, R143) -/

/-- The state in which a staging slot names no context, and the one it named is READY again if it was ISSUED (R99, R101,
R102). -/
def State.slotFreed (s : State) (slot : Nat) : State :=
  match Table.get? s.slotMap slot with
  | none => s
  | some owner =>
    { s with
      slotMap := Table.erase s.slotMap slot
      table := { s.table with
        contexts :=
          match s.context? owner with
          | none => s.table.contexts
          | some c =>
            match c.correction with
            | .issued issued _ =>
              Table.set s.table.contexts owner { c with correction := .ready issued, intact := true }
            | .none | .ready _ | .sent _ _ => s.table.contexts } }

/-- The held writes wait for one station. It is this one: its correction is in flight, the directory finds it, and the slot of
each write maps nothing or names it (R107, R143, R145). Or it is another, whose correction is in flight. With nothing held
there is nothing to ask. -/
def State.heldFor (s : State) (index : Nat) (key : Key) : Bool :=
  s.forwarder.held.isEmpty || (s.flight.any fun f => f.index != index) ||
    (s.flight.any fun f => f.index == index) && Table.wf s.table.directory && Table.wf s.slotMap &&
      Table.get? s.table.directory key.number == some index &&
      s.forwarder.held.all fun h =>
        h.key == key && h.slot.any fun slot => (Table.get? s.slotMap slot).all fun owner => owner == index

/-- What one fill of a station's response writes, and the correction state it leaves (R102, R104, R105). -/
def fillOnce (station : StationState) (slot : Nat) : Correction → Fill × Correction
  | .none => (emptyFill (some (if station = .tracking ∨ station = .due then .success else .cont)) 2, .none)
  | .ready issued => (issued.fill, .issued issued slot)
  | .issued issued k => (if k = slot then issued.fill else emptyFill (some .cont) 4, .issued issued k)
  | .sent issued delivered => (emptyFill (some .cont) 4, .sent issued delivered)

/-- What a station's held writes become when they are filled one after another, and the correction state they leave (R103,
R143). -/
def fillsInTurn (station : StationState) (main : Nat) : List HeldWrite → Correction → List Request × Correction
  | [], k => ([], k)
  | h :: rest, k =>
    let (fill, next) := fillOnce station (h.slot.getD 0) k
    let (out, last) := fillsInTurn station main rest next
    (fill.request main h.request :: out, last)

/-- The slot map once a station's held writes have been filled from this correction state: the first slot filled from READY
names it (R104). -/
def State.slotsFilled (s : State) (index : Nat) (k : Correction) : Table Nat :=
  match k, s.forwarder.held with
  | .ready _, h :: _ => Table.set s.slotMap (h.slot.getD 0) index
  | _, _ => s.slotMap

/-- The held writes as they are forwarded when each finds the same fill. -/
def State.heldFilled (s : State) (key : Key) (f : Fill) : List Request :=
  s.forwarder.held.map fun h => f.request (mainPosition s.settings.active key.channel) h.request

/-- Between these states the held-write buffer has emptied, and what it held has been forwarded as these requests, in order,
with the own writes that might be sent going first (R137, R143, R149); nothing else of the forwarder has changed. -/
structure ForwardsHeld (u t : State) (out : List Request) : Prop where
  held : t.forwarder.held = []
  waiting : t.forwarder.waiting = u.forwarder.waiting
  stalled : t.forwarder.stalled = u.forwarder.stalled
  toInitiator : t.forwarder.toInitiator = u.forwarder.toInitiator
  nextSerial : t.forwarder.nextSerial = u.forwarder.nextSerial + out.length
  inFlight : t.forwarder.inFlight = u.forwarder.inFlight ++
    (out.zipIdx u.forwarder.nextSerial).map fun p => { serial := p.2, source := p.1.source, tag := p.1.tag }
  toMemory : ∃ sent, t.forwarder.toMemory = u.forwarder.toMemory ++ sent ∧ out.Sublist sent ∧
    (∀ q ∈ sent, q ∈ out ∨ q.source = u.pins.straps.ownSource) ∧
    sent.length + u.own.outstanding.length = out.length + t.own.outstanding.length
  alone : out = [] → t.forwarder.toMemory = u.forwarder.toMemory

/-- Between these states the writes held for the station of this index, if they are its own, have been forwarded as these
requests; those held for another station, whose correction stays in flight, are held on (R143, R146). -/
def SettlesHeld (u t : State) (index : Nat) (out : List Request) : Prop :=
  if u.flight.any fun f => f.index != index then t.forwarder = u.forwarder else ForwardsHeld u t out

/-! ### The body of a report (R33, R34) -/

/-- The type of a sub-block: 1 MEASURES, 2 TAPS (chapter 02, "The report record"). -/
def subBlockType (block : List Word) : Nat := bits (block.getD 0 0) 31 24

/-- A sub-block that the walk passes: its length field is its length, 1 to 20, and is exactly 3 for MEASURES and 17 for TAPS
(R33). -/
def SubBlock (block : List Word) : Prop :=
  bits (block.getD 0 0) 7 0 = block.length ∧ 1 ≤ block.length ∧ block.length ≤ 20 ∧
    (subBlockType block = 1 → block.length = 3) ∧ (subBlockType block = 2 → block.length = 17)

/-! ### Requests in the part (R136, R137) -/

/-- The requests that are in the part: held, waiting, or standing at the stopped port. -/
def State.inPart (s : State) : List Request :=
  (s.forwarder.held.map HeldWrite.request) ++ s.forwarder.waiting ++ s.forwarder.stalled.toList

/-- The forwarded request `q` is `r`, but for the data of words 2 to 21 (R137). -/
def Request.carries (q r : Request) : Bool :=
  q.address == r.address && q.source == r.source && q.tag == r.tag && q.words == r.words &&
    Request.isWrite q == Request.isWrite r &&
    (Request.laneWords q).map LaneWord.lanes == (Request.laneWords r).map LaneWord.lanes &&
    (List.range r.words).all fun k =>
      (decide (2 ≤ k) && decide (k ≤ 21)) || (Request.laneWords q)[k]? == (Request.laneWords r)[k]?

/-! ### Capacities -/

/-- The status-area words with no entry in the own-write queue (R148). -/
def State.absentStatus (s : State) : List Nat :=
  Config.statusWords.filter fun word => !(s.own.queue.any fun w => w.isStatus word)

/-- Every buffer keeps to its capacity, the own-write queue keeps room for the status words, every record's counts keep
to their ranges, and ATTN stands at its level (R1, R3, R39, R143, R144, R148, R170, R173). -/
structure Bounded (s : State) : Prop where
  held : s.forwarder.held.length ≤ Config.heldPlaces
  waiting : s.forwarder.waiting.length ≤ Config.waitingPlaces
  intake : s.intake.queue.length ≤ Config.intakePlaces
  holding : s.events.holding.length ≤ Config.holdingPlaces
  outstanding : s.own.outstanding.length ≤ Config.ownOutstanding
  ownRoom : s.own.queue.length + s.absentStatus.length ≤ Config.ownPlaces
  reports : ∀ e ∈ s.intake.queue, e.channel < Config.channelCount
  contexts : ∀ index c, s.context? index = some c →
    index < Config.contextCount ∧ c.key.channel < Config.channelCount ∧ c.attempts ≤ 255 ∧ c.age ≤ 3
  idle : s.now = { cause := none, stopDue := false }
  attention : s.pins.attention = s.attentionLevel

/-! ### Canonical forms -/

/-- Equal tables are equal data: numbers strictly rise, and the windows list no word of 0. -/
structure Canonical (s : State) : Prop where
  staging : Words.wf s.settings.staging = true
  active : Words.wf s.settings.active = true
  contexts : Table.wf s.table.contexts = true
  directory : Table.wf s.table.directory = true
  slotMap : Table.wf s.slotMap = true
  lastSequence : Table.wf s.intake.lastSequence = true

/-! ### Agreement of the records (R2, R9, R28, R107, R123, R143, R180) -/

/-- The correction state is SENT. -/
def Correction.isSent : Correction → Bool
  | .none => false
  | .ready _ => false
  | .issued _ _ => false
  | .sent _ _ => true

/-- How many entries the deadline list holds for a context and kind. -/
def State.deadlinesFor (s : State) (index : Nat) (kind : DeadlineKind) : Nat :=
  (s.time.deadlines.filter fun d => d.isFor index kind).length

/-- The records of the blocks agree: directory with contexts (R2), slot map with contexts ISSUED (R107), deadlines with
contexts (R123), busy with the correction in flight (R9), held writes with its station (R143), quarantine with vacancy
(R28), and a part that is not RUNNING has no correction in flight and holds no write (R49, R146). -/
structure Agrees (s : State) : Prop where
  keys : ∀ index c, s.context? index = some c → tagInRange c.key.tag = true
  reports : ∀ e ∈ s.intake.queue, tagInRange e.tag = true
  directory : ∀ number index, Table.get? s.table.directory number = some index ↔
    ∃ c, s.context? index = some c ∧ c.key.number = number
  slotMap : ∀ slot index, Table.get? s.slotMap slot = some index ↔
    ∃ c issued, s.context? index = some c ∧ c.correction = .issued issued slot
  silence : ∀ index stage, s.deadlinesFor index (.silence stage) = if (s.context? index).isSome then 1 else 0
  confirm : ∀ index, s.deadlinesFor index .confirm =
    if (s.context? index).any fun c => c.correction.isSent then 1 else 0
  busy : ∀ index c, s.context? index = some c →
    (c.busy = true ↔ ∃ f, s.flight = some f ∧ f.index = index)
  flight : ∀ f, s.flight = some f → ∃ c, s.context? f.index = some c ∧ c.key = f.report.key
  full : ∀ f c, s.flight = some f → s.context? f.index = some c → f.full = true →
    c.correction = .none ∧ c.station ≠ .ending
  held : ∀ h ∈ s.forwarder.held, ∃ f, s.flight = some f ∧ h.key = f.report.key
  quarantine : ∀ index ∈ s.table.quarantined, s.context? index = none
  outside : s.part ≠ .running → s.flight = none
  setup : s.part = .setup → s.table.contexts = []

end Sys2Proof.Machine
end

