-- ==== Sys2Proof/Certificates/Slice0/Obligations.lean ====
section
/-!
DEFINITION. The statements for the provers, from the numbered rules of the manual. Each command of the opcode table has a
statement whose conclusion is that it completes, with what it changes and what it leaves.
-/

open Sys2Proof Sys2Proof.Machine

/-! ### The machine -/

/-- A step runs the command at the front of the queue on the state with the queue's rest; an empty queue idles. (Log 3:
the idling is the model's choice.) -/
def Obligations.StepRunsFrontCommand : Prop :=
  (∀ (c : Instr) (rest : List Instr) (s : State),
    step { s with pending := c :: rest } = exec c { s with pending := rest }) ∧
  ∀ s : State, step { s with pending := [] } = .next { s with pending := [] }

/-- No command is refused and none faults: every one answers a next state, and leaves the queue alone (R175, R180). (Log 2:
a step whose condition does not hold is turned away and changes nothing, the model's choice.) -/
def Obligations.EveryCommandCompletes : Prop :=
  ∀ (c : Instr) (s : State), ∃ t, exec c s = .next t ∧ t.pending = s.pending

/-- The plant counter rises by one at each tick in every part state, or takes the sync value of the staging copy when an
edge waits (R119); power-on reset sets it to 0, and it does not count while RSTn is low; no other command changes it, and
a tick writes no event and sets no error (R118). (Log 5: an edge waits for the next tick, an inference; log 6: nothing
acts while RSTn is low, the model's choice.) -/
def Obligations.CounterChangesOnlyAtTicks : Prop :=
  ∀ (c : Instr) (s t : State), s.now = { cause := none, stopDue := false } → exec c s = .next t →
    match c with
    | .powerOnReset _ => t.time.counter = 0
    | .pclkTick =>
      t.own = s.own ∧ t.events = s.events ∧
        t.time.counter =
          if s.pins.resetLow then s.time.counter
          else if s.time.syncEdge then syncValue s.settings.staging
          else s.time.counter + 1
    | _ => t.time.counter = s.time.counter

/-- What a tick and an edge of SYNC_IN change, and that they change nothing else (R118, R119, R133). (Log 5: an edge
waits for the next tick, an inference.) -/
def Obligations.TickCountsOrLoads : Prop :=
  ∀ s : State, s.between = true →
    exec .syncLoad s = .next { s with time := { s.time with syncEdge := true } } ∧
    exec .pclkTick s =
      .next { s with time := { s.time with
        counter := if s.time.syncEdge then syncValue s.settings.staging else s.time.counter + 1
        syncEdge := false
        ageingTimer :=
          if s.part = .running ∧ ageingByTime s.settings.active = true ∧ 1 ≤ ageingN s.settings.active then
            s.time.ageingTimer + 1
          else s.time.ageingTimer } }

/-- A part that is STOPPED leaves it by power-on reset or by a SOFT_RESET alone, and then stands in SETUP. The SOFT_RESET is
that of the settings write the command itself carries, by its own row or by that of another control word the same write
covers (R155, R178, R180). (Log 21: such a write is a step of any of those rows, an inference.) -/
def Obligations.OnlyResetLeavesStopped : Prop :=
  ∀ (c : Instr) (s t : State), s.part = .stopped → exec c s = .next t → t.part ≠ .stopped →
    t.part = .setup ∧
      ((∃ straps, c = .powerOnReset straps) ∨
        ∃ o r, (c = .softReset o ∨ c = .applyWrite o ∨ c = .consumerIndexWrite o) ∧ s.presents o r = true ∧
          s.commands r 1 = true)

/-- No request is forgotten but at power-on reset: whatever stands in the part before a command stands in it after, or has
been forwarded carrying its address, source, tag, lanes and data but for words 2 to 21, or fails a guard check and has been
answered with ERROR. What was issued at the memory port before stays issued (R137, R142, R147). -/
def Obligations.NoRequestIsForgotten : Prop :=
  ∀ (c : Instr) (s t : State), (∀ straps, c ≠ .powerOnReset straps) → c ≠ .rstnLow → exec c s = .next t →
    s.forwarder.toMemory <+: t.forwarder.toMemory ∧
    ∀ r ∈ s.inPart,
      r ∈ t.inPart ∨
      (∃ q ∈ t.forwarder.toMemory.drop s.forwarder.toMemory.length, Request.carries q r = true) ∨
      (s.guardFails r = true ∧
        ∃ a ∈ t.forwarder.toInitiator.drop s.forwarder.toInitiator.length,
          a.source = r.source ∧ a.tag = r.tag ∧ a.status = .error)

/-- Every step keeps every buffer within its capacity, the room for status words, the ranges of the records, ATTN at its
level, and the canonical form of every table. -/
def Obligations.StepKeepsCapacities : Prop :=
  ∀ s t : State, Bounded s → Canonical s → step s = .next t → Bounded t ∧ Canonical t

/-- Every step keeps the records of the blocks in agreement: directory, slot map, deadlines, busy and held writes with the
contexts and the correction in flight. -/
def Obligations.StepKeepsAgreement : Prop :=
  ∀ s t : State, Bounded s → Canonical s → Agrees s → step s = .next t → Agrees t

/-- The state after reset meets the three invariants. -/
def Obligations.ResetMeetsInvariants : Prop :=
  Bounded State.reset ∧ Canonical State.reset ∧ Agrees State.reset

/-- Which commands may change what. But for power-on reset: the straps never change, and RSTN_LOW alone drives the reset low;
SYNC_LOAD and PCLK_TICK alone touch the waiting edge; OWN_WRITE_SEND and steps that forward a request alone advance the own
tag, and with OWN_WRITE_ACK, RSTN_LOW and a step that carries a settings write alone touch the outstanding own writes; a step
that carries a settings write alone touches the staging copy, the active settings, the consumer index and the apply result;
it, DRAIN_DONE and an entry to STOPPED that ends a DRAIN alone touch the command result; and it, TAKE_HEAD and AGEING_COUNT
alone touch the ageing counter (R24, R119, R148, R149, R151, R153, R155, R158, R159, R162, R171). (Log 22: a settings write
may pass by the row of another area it overlaps, and log 40: a step that forwards sends own writes first, inferences.) -/
def Obligations.RegistersHaveTheirWriters : Prop :=
  ∀ (c : Instr) (s t : State), (∀ straps, c ≠ .powerOnReset straps) → exec c s = .next t →
    let bySettings := ∃ o r, settingsOriginOf c = some o ∧ s.presents o r = true ∧ s.settingsRequest r = true
    let forwards := t.forwarder.nextSerial ≠ s.forwarder.nextSerial
    t.pins.straps = s.pins.straps ∧
    (t.pins.resetLow ≠ s.pins.resetLow → c = .rstnLow) ∧
    (t.time.syncEdge ≠ s.time.syncEdge → c = .syncLoad ∨ c = .pclkTick) ∧
    (t.own.nextTag ≠ s.own.nextTag → c = .ownWriteSend ∨ forwards) ∧
    (t.own.outstanding ≠ s.own.outstanding →
      c = .ownWriteSend ∨ forwards ∨ c = .rstnLow ∨ bySettings ∨ ∃ tag status, c = .ownWriteAck tag status) ∧
    (t.settings.staging ≠ s.settings.staging ∨ t.settings.active ≠ s.settings.active ∨
      t.events.consumer ≠ s.events.consumer ∨ t.events.applyResult ≠ s.events.applyResult → bySettings) ∧
    (t.events.commandResult ≠ s.events.commandResult →
      bySettings ∨ c = .drainDone ∨ (s.settings.draining ≠ none ∧ t.part = .stopped)) ∧
    (t.table.ageing ≠ s.table.ageing → bySettings ∨ c = .takeHead ∨ c = .ageingCount)

/-! ### Reset -/

/-- Power-on reset leaves every piece of state at its power-on value (R177), with the 14 status words issued in word
order (R167); while RSTn is low the part forgets what is in it (R147, R151) and no other command acts. (Log 6: the last,
and what stands while RSTn is low, are the model's choice.) -/
def Obligations.ResetSetsEveryBlock : Prop :=
  (∀ (straps : Straps) (s : State), ∃ t, exec (.powerOnReset straps) s = .next t ∧
    t.pins = { resetLow := false, straps := straps, attention := false } ∧ t.part = .setup ∧
    t.time = { counter := 0, syncEdge := false, deadlines := [], ageingTimer := 0 } ∧
    t.settings = { staging := [], active := Config.defaultSettings, draining := none } ∧
    t.table = { contexts := [], directory := [], quarantined := [], ageing := 0 } ∧ t.freeCount = 1024 ∧
    t.intake = { queue := [], lastSequence := [] } ∧ t.flight = none ∧ t.slotMap = [] ∧
    t.forwarder.held = [] ∧ t.forwarder.waiting = [] ∧ t.forwarder.stalled = none ∧ t.forwarder.inFlight = [] ∧
    t.own.outstanding = [] ∧ t.own.nextTag = 0 ∧
    t.own.queue.map OwnWrite.body =
      Config.statusWords.map (fun w => .status w (if w = Config.freeCountWord then 1024 else 0)) ∧
    t.events =
      { producer := 0, consumer := 0, mark := 0, sequence := 0, lost := false, holding := [], errors := 0,
        firstPointer := none, applyResult := 0, commandResult := 0 }) ∧
  (∀ s : State, exec .rstnLow s =
    .next { s with
      pins := { s.pins with resetLow := true }
      forwarder := { s.forwarder with held := [], waiting := [], stalled := none, inFlight := [] }
      own := { s.own with queue := [], outstanding := [] } }) ∧
  ∀ (c : Instr) (s : State), s.pins.resetLow = true → (∀ straps, c ≠ .powerOnReset straps) → c ≠ .rstnLow →
    exec c s = .next s

/-! ### The pass-through path -/

/-- A request taken before its turn joins the waiting buffer at its end; when the 16 places are used it stands at the
stopped port (R144, R145). (Log 36: the request at the stopped port is the model's field, an inference.) -/
def Obligations.EarlyRequestWaits : Prop :=
  ∀ (s : State) (o : Origin) (r : Request), s.between = true → o.fromPort = true → s.requestAt o = some r →
    s.atTurn o r = false →
    (s.forwarder.waiting.length < Config.waitingPlaces →
      exec (.requestWait o) s =
        .next { s with forwarder := { s.forwarder with stalled := none, waiting := s.forwarder.waiting ++ [r] } }) ∧
    (Config.waitingPlaces ≤ s.forwarder.waiting.length →
      exec (.requestWait o) s = .next { s with forwarder := { s.forwarder with stalled := some r } })

/-- A write that meets no guard and no area of the part, and a read that is no delivery read, are forwarded once with
nothing changed in them, and nothing else in the part changes (R137, R139). -/
def Obligations.UnexaminedPassUnchanged : Prop :=
  ∀ (s : State) (o : Origin) (r : Request), s.between = true → s.offers o r = true →
    (Request.isWrite r = true → s.clearOfAreas r = true → s.settingsRequest r = false →
      exec (.forwardWrite o) s = .next (s.withForwarded o r r)) ∧
    (Request.isWrite r = false → s.deliverySlot? r = none →
      exec (.forwardRead o) s = .next (s.withForwarded o r r))

/-- A write that fails a guard check is not forwarded: an ERROR acknowledgement with its tag is returned and GUARD_BLOCK is
set; no other block sees it (R142). -/
def Obligations.GuardedWriteIsBlocked : Prop :=
  ∀ (s : State) (o : Origin) (r : Request), s.between = true → s.presents o r = true → s.guardFails r = true →
    s.tolerates .guardBlock = true → s.eventRoom 1 = true →
    ∃ t, exec (.blockedWrite o) s = .next t ∧
      t.events.errors = s.events.errors ||| 8#10 ∧
      t.forwarder = { (s.leaving o).forwarder with
        toInitiator := s.forwarder.toInitiator ++
          [{ source := r.source, tag := r.tag, status := .error, data := [] }] } ∧
      t.part = s.part ∧ t.settings = s.settings ∧ t.intake = s.intake ∧ t.flight = s.flight ∧ t.table = s.table ∧
      t.slotMap = s.slotMap ∧ t.time = s.time ∧ t.pins.straps = s.pins.straps ∧ t.pins.attention = t.attentionLevel

/-- An unmasked fatal error, here GUARD_BLOCK, puts a part that is not STOPPED in STOPPED: a DRAIN in progress ends with
ABANDONED, the correction in flight is abandoned, held writes are forwarded unfilled in the order held, with own writes that
may be sent going first, and the slot map, the deadline list, the ageing timer and the intake queue are kept (R146, R149,
R175, R180). (Logs 7 and 50: a DRAIN whose conditions hold already is abandoned too, the model's choices; log 40: own
writes issued within the step go before the held writes too, an inference.) -/
def Obligations.FatalErrorStopsPart : Prop :=
  ∀ (s : State) (o : Origin) (r : Request), s.between = true → s.presents o r = true → s.guardFails r = true →
    s.part ≠ .stopped → s.tolerates .guardBlock = false → s.eventRoom 1 = true →
    ∃ t, exec (.blockedWrite o) s = .next t ∧ t.part = .stopped ∧ t.settings.draining = none ∧
      (∀ sequence, s.settings.draining = some sequence →
        t.events.commandResult = commandResultValue sequence 6 0 .abandoned) ∧
      t.flight = none ∧
      (∀ f c, s.flight = some f → s.context? f.index = some c →
        t.context? f.index = some { c with busy := false, intact := true }) ∧
      ForwardsHeld
        { s.leaving o with forwarder := { (s.leaving o).forwarder with
          toInitiator := s.forwarder.toInitiator ++
            [{ source := r.source, tag := r.tag, status := .error, data := [] }] } } t
        (s.forwarder.held.map HeldWrite.request) ∧
      t.slotMap = s.slotMap ∧ t.time = s.time ∧ t.intake = s.intake ∧ t.settings.active = s.settings.active ∧
      t.settings.staging = s.settings.staging ∧ t.events.errors.getLsbD 3 = true ∧
      t.pins.attention = t.attentionLevel

/-- A completion of a request in flight is returned unchanged, and that request is in flight no more; one that answers no
request in flight and no own write is discarded (R138, R147). (Log 24: of several requests with one source and tag, the
oldest is answered, an inference.) -/
def Obligations.CompletionIsReturned : Prop :=
  ∀ (s : State) (c : Completion), s.between = true →
    (c.source = s.pins.straps.ownSource → ∀ w ∈ s.own.outstanding, w.tag.toNat ≠ c.tag) →
    ((∃ q ∈ s.forwarder.inFlight, q.source = c.source ∧ q.tag = c.tag) →
      exec (.memoryCompletion c) s =
        .next { s with forwarder := { s.forwarder with
          inFlight := s.forwarder.inFlight.eraseP fun q => q.source == c.source && q.tag == c.tag
          toInitiator := s.forwarder.toInitiator ++ [c] } }) ∧
    ((∀ q ∈ s.forwarder.inFlight, ¬(q.source = c.source ∧ q.tag = c.tag)) → exec (.memoryCompletion c) s = .next s)

/-! ### Reports -/

/-- A report that passes every check is forwarded unchanged, joins the intake queue at its tail while fewer than 32 entries
are queued, and sets its channel's last accepted sequence; nothing else changes (R30, R36, R39). -/
def Obligations.AcceptedReportJoins : Prop :=
  ∀ (s : State) (o : Origin) (r : Request) (slot : Nat) (e : Report), s.between = true → s.offers o r = true →
    s.meetsOnlyRing r = true → s.reportSlot? r = some slot → s.checkReport r slot = .accepted e →
    s.intake.queue.length < Config.intakePlaces →
    exec (.reportWrite o) s =
      .next { s.withForwarded o r r with
      intake :=
        { queue := s.intake.queue ++ [e], lastSequence := Table.set s.intake.lastSequence e.channel e.sequence } }

/-- What a report that passes every check is: mark and format, an open local channel that claims its number, a valid kind
and tag, a body that is a chain of at most eight sub-blocks of allowed lengths with a MEASURES among them, a sequence that is
not its channel's last accepted one, and an arrival before the intake time by no more than the report age limit; the entry
carries what the record says, its measures from the first MEASURES and its taps from the first TAPS, absent without one
(R32, R33, R34, R35, R36, R37, R39). -/
def Obligations.AcceptedReportPassesChecks : Prop :=
  ∀ (s : State) (r : Request) (slot : Nat) (e : Report), s.checkReport r slot = .accepted e →
    bits (Request.word r 0) 31 24 = 0xB7 ∧ bits (Request.word r 0) 23 16 = 1 ∧
    e.channel < Config.channelCount ∧ channelOpen s.settings.active e.channel = true ∧
    claimedNumber s.settings.active e.channel = bits (Request.word r 1) 15 12 ∧
    e.kind.code = bits (Request.word r 1) 11 8 ∧
    e.tag = bits (Request.word r 2) 15 0 ∧ 1 ≤ e.tag ∧ e.tag ≤ 16383 ∧
    e.sequence.toNat = bits (Request.word r 1) 31 16 ∧
    Table.get? s.intake.lastSequence e.channel ≠ some e.sequence ∧
    e.arrival = Request.word r 3 ∧ 2 ^ 31 ≤ (e.arrival - s.time.counter).toNat ∧
    (s.time.counter - e.arrival).toNat ≤ reportAgeLimit s.settings.active ∧ e.slot = slot ∧
    ∃ blocks : List (List Word),
      blocks.flatten = (((Request.laneWords r).map LaneWord.data).drop 4).take (bits (Request.word r 0) 7 0) ∧
      blocks.length ≤ 8 ∧ (∀ block ∈ blocks, SubBlock block) ∧
      (∃ m, blocks.find? (fun block => subBlockType block == 1) = some m ∧
        e.measures =
          { timingError := (BitVec.ofNat 16 (bits (m.getD 1 0) 31 16)).toInt
            frequencyError := (BitVec.ofNat 16 (bits (m.getD 1 0) 15 0)).toInt
            powerError := (BitVec.ofNat 8 (bits (m.getD 2 0) 31 24)).toInt
            mer := bits (m.getD 2 0) 23 16
            collision := (m.getD 2 0).getLsbD 0 }) ∧
      e.taps = (blocks.find? fun block => subBlockType block == 2).map fun block =>
        block.tail.map fun w =>
          { re := (BitVec.ofNat 16 (bits w 31 16)).toInt, im := (BitVec.ofNat 16 (bits w 15 0)).toInt }

/-- An ignored report changes nothing in the part; a rejected one hands REPORT_REJECTED on, with MALFORMED_REPORT set for
reason MALFORMED alone, and changes no context, no deadline, no queue entry and no last accepted sequence. Both are
forwarded unchanged (R35, R38). -/
def Obligations.RefusedReportChangesNoRecord : Prop :=
  ∀ (s : State) (o : Origin) (r : Request) (slot : Nat), s.between = true → s.offers o r = true →
    s.meetsOnlyRing r = true → s.reportSlot? r = some slot →
    (s.checkReport r slot = .ignored → exec (.reportWrite o) s = .next (s.withForwarded o r r)) ∧
    ∀ reason channel, s.checkReport r slot = .rejected reason channel → s.eventRoom 2 = true →
      s.tolerates .malformedReport = true →
      ∃ t, exec (.reportWrite o) s = .next t ∧ t.forwarder = (s.withForwarded o r r).forwarder ∧
        t.events.errors = (if reason = .malformed then s.events.errors ||| 2#10 else s.events.errors) ∧
        t.reports (rejectedFields (readHeader r) reason channel slot) s.time.counter (some s.forwarder.nextSerial) = true ∧
        t.part = s.part ∧ t.settings = s.settings ∧ t.intake = s.intake ∧ t.flight = s.flight ∧ t.table = s.table ∧
        t.slotMap = s.slotMap ∧ t.time = s.time ∧ t.pins.straps = s.pins.straps ∧ t.pins.attention = t.attentionLevel

/-- R40: a DATA report that passes every check while the queue holds 32 entries does not join; REPORT_REJECTED is handed on
with reason OVERFLOW, no error is set and no last accepted sequence changes. -/
def Obligations.DataReportOverflows : Prop :=
  ∀ (s : State) (o : Origin) (r : Request) (slot : Nat) (e : Report), s.between = true → s.offers o r = true →
    s.meetsOnlyRing r = true → s.reportSlot? r = some slot → s.checkReport r slot = .accepted e → e.kind = .data →
    s.intake.queue.length = Config.intakePlaces → s.eventRoom 1 = true →
    ∃ t, exec (.reportWrite o) s = .next t ∧ t.intake = s.intake ∧ t.events.errors = s.events.errors ∧
      t.reports (rejectedFields (readHeader r) .overflow (some e.channel) slot) s.time.counter
        (some s.forwarder.nextSerial) = true ∧
      t.forwarder = (s.withForwarded o r r).forwarder ∧ t.part = s.part ∧ t.settings = s.settings ∧
      t.flight = s.flight ∧ t.table = s.table ∧ t.slotMap = s.slotMap ∧ t.time = s.time ∧
      t.pins.straps = s.pins.straps ∧ t.pins.attention = t.attentionLevel

/-- A FIRST_CONTACT or KEEPALIVE that passes every check while the queue holds 32 entries displaces the newest DATA
entry, for which REPORT_REJECTED is handed on with reason DISPLACED, and joins at the tail; with no DATA entry queued it
is lost with reason OVERFLOW, and INTAKE_OVERFLOW is set (R41). (Log 10: events name the channel number that the active
settings claim, the model's choice.) -/
def Obligations.FullQueueDisplacesNewestData : Prop :=
  ∀ (s : State) (o : Origin) (r : Request) (slot : Nat) (e : Report), s.between = true → s.offers o r = true →
    s.meetsOnlyRing r = true → s.reportSlot? r = some slot → s.checkReport r slot = .accepted e → e.kind ≠ .data →
    s.intake.queue.length = Config.intakePlaces → s.eventRoom 2 = true → s.tolerates .intakeOverflow = true →
    ∃ t, exec (.reportWrite o) s = .next t ∧
      (∀ before d after, s.intake.queue = before ++ d :: after → d.kind = .data → (∀ x ∈ after, x.kind ≠ .data) →
        t.intake =
          { queue := before ++ after ++ [e], lastSequence := Table.set s.intake.lastSequence e.channel e.sequence } ∧
        t.events.errors = s.events.errors ∧
        t.reports (s.displacedFields d) s.time.counter (some s.forwarder.nextSerial) = true) ∧
      ((∀ x ∈ s.intake.queue, x.kind ≠ .data) →
        t.intake = s.intake ∧ t.events.errors = s.events.errors ||| 16#10 ∧
        t.reports (rejectedFields (readHeader r) .overflow (some e.channel) slot) s.time.counter
          (some s.forwarder.nextSerial) = true) ∧
      t.forwarder = (s.withForwarded o r r).forwarder ∧ t.part = s.part ∧ t.settings = s.settings ∧
      t.flight = s.flight ∧ t.table = s.table ∧ t.slotMap = s.slotMap ∧ t.time = s.time ∧
      t.pins.straps = s.pins.straps ∧ t.pins.attention = t.attentionLevel

/-- A torn write is forwarded unchanged and sets TORN_REPORT; nothing is copied from it (R31). -/
def Obligations.TornWriteSetsError : Prop :=
  ∀ (s : State) (o : Origin) (r : Request), s.between = true → s.offers o r = true → s.meetsOnlyRing r = true →
    s.tornWrite r = true → s.eventRoom 1 = true → s.tolerates .tornReport = true →
    ∃ t, exec (.tornWrite o) s = .next t ∧ t.forwarder = (s.withForwarded o r r).forwarder ∧
      t.events.errors = s.events.errors ||| 1#10 ∧ t.part = s.part ∧ t.settings = s.settings ∧ t.intake = s.intake ∧
      t.flight = s.flight ∧ t.table = s.table ∧ t.slotMap = s.slotMap ∧ t.time = s.time ∧
      t.pins.straps = s.pins.straps ∧ t.pins.attention = t.attentionLevel

/-! ### Responses and delivery -/

/-- A response to be filled for a station that is READY: the write is forwarded with the issued correction in it, the
context becomes ISSUED in that slot, and the slot names it; another context that the slot named returns from ISSUED to READY,
and nothing else changes (R102, R104). (Log 9: unmapping makes no checked read, an inference.) -/
def Obligations.ReadyResponseIsFilled : Prop :=
  ∀ (s : State) (o : Origin) (r : Request) (slot : Nat) (key : Key) (index : Nat) (c : Context) (issued : Issued),
    s.between = true → s.offers o r = true → s.guardFails r = false → s.responseSlot? r = some slot →
    fillRequested r = true → s.responseKey? r = some key → tagInRange key.tag = true → s.known key index c = true →
    c.busy = false → c.correction = .ready issued → Table.get? s.slotMap slot ≠ some index →
    (s.flight = none → s.forwarder.held = []) →
    let u := s.slotFreed slot
    exec (.responseWrite o) s =
      .next { s.withForwarded o r (issued.fill.request (mainPosition s.settings.active key.channel) r) with
        table := { s.table with
          contexts := Table.set u.table.contexts index { c with correction := .issued issued slot, intact := true } }
        slotMap := Table.set u.slotMap slot index }

/-- Word by word, what a fill makes of a response of 22 words or more: w2 takes the status where the fill carries one, w3
the timing adjustment, w4 power and frequency, w5 presence, main position and result, w6 to w21 the coefficients or 0, and
every other word, with address, source, tag and lanes, stays as the initiator wrote it (R102, R137). -/
def Obligations.FillWritesWordsTwoToTwentyOne : Prop :=
  ∀ (f : Fill) (main : Nat) (r : Request), Request.isWrite r = true → 22 ≤ r.words →
    Request.carries (f.request main r) r = true ∧
    Request.word (f.request main r) 2 =
      (match f.status with
      | none => Request.word r 2
      | some status => BitVec.ofNat 32 status.code) ∧
    Request.word (f.request main r) 3 = f.timing ∧ Request.word (f.request main r) 4 = f.levels ∧
    Request.word (f.request main r) 5 = packed [(flagField f.coefficients.isSome, 16), (main, 8), (f.result, 0)] ∧
    ∀ k, k < Config.tapCount →
      Request.word (f.request main r) (6 + k) = ((f.coefficients.bind fun taps => taps[k]?).map tapWord).getD 0

/-- A response to be filled for a station whose correction is in flight is held: not forwarded, not filled, no context
and no slot map entry changed; with all 4 places used, one presented at the port stops the port (R103, R143, R145). (Log
36: the request at the stopped port is the model's field, an inference.) -/
def Obligations.BusyResponseIsHeld : Prop :=
  ∀ (s : State) (o : Origin) (r : Request) (slot : Nat) (key : Key) (index : Nat) (c : Context),
    s.between = true → s.presents o r = true → s.guardFails r = false → s.responseSlot? r = some slot →
    fillRequested r = true → s.responseKey? r = some key → tagInRange key.tag = true → s.known key index c = true →
    c.busy = true →
    (s.forwarder.held.length + s.waitingHolds < Config.heldPlaces →
      exec (.responseWrite o) s =
        .next { s.leaving o with forwarder := { (s.leaving o).forwarder with
          held := s.forwarder.held ++ [{ request := r, key := key, slot := some slot }] } }) ∧
    (Config.heldPlaces ≤ s.forwarder.held.length → o = .port r →
      exec (.responseWrite o) s = .next { s with forwarder := { s.forwarder with stalled := some r } })

/-- The other outcomes of a response: UNKNOWN_STATION for an unknown key or a tag out of range; NOTHING_READY in NONE, with
SUCCESS in TRACKING and DUE and CONTINUE otherwise; a refill in the same slot; ALREADY_ISSUED in another slot or in SENT; and
a write with no fill requested, or for a channel no open local channel claims, passes as written. Each is forwarded, and no
record changes but that of another context the slot named, which returns from ISSUED to READY with the slot unmapped. A
station whose record fails its check is released, and its response finds UNKNOWN_STATION (R27, R101, R102, R105, R106).
(Log 9: unmapping makes no checked read, an inference; logs 10 and 29: the channel number of the STATION_RELEASED event is the
model's choice, its metric bits of a station without metrics an inference.) -/
def Obligations.OtherFillsChangeNoRecord : Prop :=
  ∀ (s : State) (o : Origin) (r : Request) (slot : Nat), s.between = true → s.offers o r = true →
    s.guardFails r = false → s.responseSlot? r = some slot → (s.flight = none → s.forwarder.held = []) →
    let freed := s.slotFreed slot
    ((fillRequested r = false ∨ s.responseKey? r = none) →
      exec (.responseWrite o) s = .next (freed.withForwarded o r r)) ∧
    ∀ key, fillRequested r = true → s.responseKey? r = some key →
      let main := mainPosition s.settings.active key.channel
      ((tagInRange key.tag = false ∨ s.unknown key = true) →
        exec (.responseWrite o) s = .next (freed.withForwarded o r ((emptyFill none 3).request main r))) ∧
      (∀ index c, tagInRange key.tag = true → s.known key index c = true → c.busy = false →
        (Table.get? s.slotMap slot ≠ some index → c.correction = .none →
          exec (.responseWrite o) s =
            .next (freed.withForwarded o r
              ((emptyFill (some (if c.station = .tracking ∨ c.station = .due then .success else .cont)) 2).request
                main r))) ∧
        (∀ issued, Table.get? s.slotMap slot = some index → c.correction = .issued issued slot →
          exec (.responseWrite o) s = .next (s.withForwarded o r (issued.fill.request main r))) ∧
        (Table.get? s.slotMap slot ≠ some index →
          ((∃ issued k, c.correction = .issued issued k ∧ k ≠ slot) ∨
            ∃ issued delivered, c.correction = .sent issued delivered) →
          exec (.responseWrite o) s = .next (freed.withForwarded o r ((emptyFill (some .cont) 4).request main r)))) ∧
      ∀ index c, tagInRange key.tag = true → Table.get? s.table.directory key.number = some index →
        s.context? index = some c → c.intact = false → s.forwarder.held = [] →
        Table.wf s.slotMap = true → (∀ owner, Table.get? s.slotMap slot = some owner → owner = index) →
        s.damageRoom = true →
        ∃ t, exec (.responseWrite o) s = .next t ∧
          FailedCheck s t index c s.time.counter (some s.forwarder.nextSerial) ∧
          t.forwarder = (s.withForwarded o r ((emptyFill none 3).request main r)).forwarder ∧ t.part = s.part ∧
          t.settings = s.settings ∧ t.intake = s.intake ∧ t.pins.straps = s.pins.straps ∧
          t.pins.attention = t.attentionLevel

/-- A write that overlaps the staging area and is not taken as a response is forwarded unchanged; every mapped slot it
overlaps is unmapped, and the context it named returns from ISSUED to READY with its correction kept; no other slot and
no other context changes; SHORT_RESPONSE is set when it looks like a response (R99). (Log 9: unmapping makes no checked
read, an inference.) -/
def Obligations.UntakenWriteUnmapsSlots : Prop :=
  ∀ (s : State) (o : Origin) (r : Request), s.between = true → s.offers o r = true → s.meetsOnlyStaging r = true →
    s.responseNotTaken r = true → s.eventRoom 1 = true → s.tolerates .shortResponse = true →
    let hits := fun slot => Request.meets r (slotStart (stagingBase s.settings.active) slot) Config.slotBytes
    ∃ t, exec (.responseNotTaken o) s = .next t ∧ t.forwarder = (s.withForwarded o r r).forwarder ∧
      (∀ slot, Table.get? t.slotMap slot = if hits slot = true then none else Table.get? s.slotMap slot) ∧
      (∀ slot index c issued k, hits slot = true → Table.get? s.slotMap slot = some index → s.context? index = some c →
        c.correction = .issued issued k →
        t.context? index = some { c with correction := .ready issued, intact := true }) ∧
      (∀ index, (∀ slot, hits slot = true → Table.get? s.slotMap slot ≠ some index) →
        t.context? index = s.context? index) ∧
      t.events.errors = (if s.looksLikeResponse r = true then s.events.errors ||| 4#10 else s.events.errors) ∧
      t.part = s.part ∧ t.settings = s.settings ∧ t.intake = s.intake ∧ t.flight = s.flight ∧ t.time = s.time ∧
      t.table.directory = s.table.directory ∧ t.table.quarantined = s.table.quarantined ∧
      t.pins.straps = s.pins.straps ∧ t.pins.attention = t.attentionLevel

/-- A delivery read of a slot whose context holds a CONTINUE or SUCCESS correction is forwarded; the context becomes SENT at
the counter value, the slot is unmapped, CONFIRM is armed at that value plus the confirm window, and nothing else changes
(R111). One of a slot whose entry is empty changes nothing (R110). One of a slot whose context fails its check releases that
context, and delivers nothing (R27). (Logs 10 and 29: the channel number of the STATION_RELEASED event is the model's choice,
its metric bits of a station without metrics an inference.) -/
def Obligations.DeliveryMakesContextSent : Prop :=
  ∀ (s : State) (o : Origin) (r : Request) (slot : Nat), s.between = true → s.offers o r = true →
    s.deliverySlot? r = some slot →
    (Table.get? s.slotMap slot = none → exec (.deliveryRead o) s = .next (s.withForwarded o r r)) ∧
    (∀ index c issued k, Table.get? s.slotMap slot = some index → s.context? index = some c → c.intact = true →
      c.correction = .issued issued k → issued.status ≠ .abort →
      exec (.deliveryRead o) s =
        .next { s.withForwarded o r r with
          table := { s.table with
          contexts :=
            Table.set s.table.contexts index { c with correction := .sent issued s.time.counter, intact := true } }
          slotMap := Table.erase s.slotMap slot
          time := { s.time with
          deadlines :=
            rearmed s.time.deadlines index .confirm
              (later s.time.counter (confirmWindow s.settings.active c.key.channel)) } }) ∧
    ∀ index c, Table.get? s.slotMap slot = some index → s.context? index = some c → c.intact = false →
      s.heldFor index c.key = true → s.damageRoom = true →
      let u := s.withForwarded o r r
      ∃ t, exec (.deliveryRead o) s = .next t ∧ FailedCheck u t index c s.time.counter none ∧
        SettlesHeld u t index (s.heldFilled c.key (emptyFill none 3)) ∧ t.part = s.part ∧ t.settings = s.settings ∧
        t.intake = s.intake ∧ t.pins.straps = s.pins.straps ∧ t.pins.attention = t.attentionLevel

/-- A delivery read of a slot whose context holds an ABORT correction is forwarded and releases the context with reason
ABORT_DELIVERED; the writes held for its station find UNKNOWN_STATION and are forwarded in order (R112, R146). (Log 10:
events name the channel number that the active settings claim, the model's choice; log 29: the metric bits of a station
without metrics, an inference.) -/
def Obligations.AbortDeliveryReleases : Prop :=
  ∀ (s : State) (o : Origin) (r : Request) (slot index : Nat) (c : Context) (issued : Issued) (k : Nat),
    s.between = true → s.offers o r = true → s.deliverySlot? r = some slot →
    Table.get? s.slotMap slot = some index → s.context? index = some c → c.intact = true →
    c.correction = .issued issued k → issued.status = .abort → s.heldFor index c.key = true → s.eventRoom 1 = true →
    let u := s.withForwarded o r r
    ∃ t, exec (.deliveryRead o) s = .next t ∧ Released s t index ∧
      SettlesHeld u t index (s.heldFilled c.key (emptyFill none 3)) ∧
      t.reportsSince u (s.releasedFields c index .abortDelivered 0) s.time.counter none = true ∧
      t.table.quarantined = s.table.quarantined ∧ t.events.errors = s.events.errors ∧ t.part = s.part ∧
      t.settings = s.settings ∧ t.intake = s.intake ∧ t.pins.straps = s.pins.straps ∧
      t.pins.attention = t.attentionLevel

/-! ### The settings window -/

/-- A settings write that covers no control word with every lane on is forwarded and copied, byte lane by byte lane, but for
the status area, and starts nothing (R155). -/
def Obligations.SettingsWriteIsCopied : Prop :=
  ∀ (s : State) (o : Origin) (r : Request), s.between = true → s.offers o r = true → s.noControl r = true →
    exec (.settingsWrite o) s = .next (s.withCopied o r) ∧
    (s.withCopied o r).settings.active = s.settings.active ∧
    (∀ k word w, Request.windowWord r s.pins.straps k = some word → (Request.laneWords r)[k]? = some w →
      word ∉ Config.statusWords →
      Words.read (s.withCopied o r).settings.staging word =
        mergeLanes w.lanes (Words.read s.settings.staging word) w.data) ∧
    ∀ word, (word ∈ Config.statusWords ∨ ∀ k, k < r.words → Request.windowWord r s.pins.straps k ≠ some word) →
      Words.read (s.withCopied o r).settings.staging word = Words.read s.settings.staging word

/-- A refused apply changes nothing but the copied words and the apply result word: in STOPPED it is refused before
anything is examined, and elsewhere by the first failing check of the staging copy with the write in it (R159, R160).
(Logs 15, 16 and 47: the offset named where several words share a failure, and log 45: whatever the entry that the result
displaces waited for, the model's choices; log 13: an apply result waits for no acknowledgement, an inference.) -/
def Obligations.RefusedApplyChangesNothing : Prop :=
  ∀ (s : State) (o : Origin) (r : Request), s.between = true → s.offers o r = true →
    s.soleControl r Config.applyWord = true →
    let u := s.withCopied o r
    let sequence := BitVec.ofNat 16 (setting u.settings.staging Config.applyWord 15 0)
    let result := if s.part = .stopped then .refusedStopped else u.validate
    result ≠ .applied →
    ∃ t, exec (.applyWrite o) s = .next t ∧
      t.events = { s.events with applyResult := applyResultValue sequence result } ∧
      t.own = s.own.issued Config.applyResultWord (applyResultValue sequence result) ∧ t.settings = u.settings ∧
      t.forwarder = u.forwarder ∧ t.part = s.part ∧ t.intake = s.intake ∧ t.flight = s.flight ∧ t.table = s.table ∧
      t.slotMap = s.slotMap ∧ t.time = s.time ∧ t.pins = s.pins

/-- An apply that passes validation. The first takes the staging copy, but for control words and status area, as the active
settings, opens the enabled channels, puts the ageing counter and the ageing timer at 0, and takes the part from SETUP to
RUNNING with result APPLIED. One taken in RUNNING, with nothing held: the channels it disables are closed, their contexts
released silently and their reports discarded, with CHANNEL_CLOSED and cause APPLY for each; a channel closed or opened has
no last accepted sequence; a changed staging area clears the slot map, and every context it named is READY again; a changed
event ring puts producer, consumer and mark at 0; the ageing counter and timer are 0; and no other record changes (R19, R96,
R161, R165, R179). (Log 33: the event's channel number field is 0, the model's choice; log 13: it waits for no
acknowledgement, an inference.) -/
def Obligations.FirstApplyStartsRunning : Prop :=
  (∀ (s : State) (o : Origin) (r : Request), s.between = true → s.offers o r = true →
    s.soleControl r Config.applyWord = true → s.part = .setup → s.slotMap = [] →
    (∀ c, c < Config.channelCount → channelOpen s.settings.active c = false) →
    let u := s.withCopied o r
    let sequence := BitVec.ofNat 16 (setting u.settings.staging Config.applyWord 15 0)
    u.validate = .applied →
    ∃ t, exec (.applyWrite o) s = .next t ∧ t.part = .running ∧
      t.settings = { u.settings with active := adoptedWords u.settings.staging } ∧
      (∀ word, word < Config.applyWord → Words.read t.settings.active word = Words.read u.settings.staging word) ∧
      t.events.applyResult = applyResultValue sequence .applied ∧
      t.lastIssued Config.applyResultWord (applyResultValue sequence .applied) = true ∧
      (∀ c, c < Config.channelCount → channelOpen t.settings.active c = true →
        Table.get? t.intake.lastSequence c = none) ∧
      t.table = { s.table with ageing := 0 } ∧ t.time = { s.time with ageingTimer := 0 } ∧
      t.intake.queue = s.intake.queue ∧ t.flight = s.flight ∧ t.slotMap = [] ∧
      t.events.errors = s.events.errors ∧ t.events.holding = s.events.holding ∧ t.events.sequence = s.events.sequence ∧
      t.pins.straps = s.pins.straps ∧ t.pins.attention = t.attentionLevel) ∧
  ∀ (s : State) (o : Origin) (r : Request), s.between = true → s.offers o r = true →
    s.soleControl r Config.applyWord = true → s.part = .running → s.forwarder.held = [] →
    s.eventRoom Config.channelCount = true → Table.wf s.table.contexts = true → Table.wf s.slotMap = true →
    (∀ index c, s.context? index = some c → c.intact = true) →
    let u := s.withCopied o r
    let old := s.settings.active
    let new := adoptedWords u.settings.staging
    let sequence := BitVec.ofNat 16 (setting u.settings.staging Config.applyWord 15 0)
    let closes := fun c => decide (c < Config.channelCount) && channelOpen old c && !channelOpen new c
    let opens := fun c => decide (c < Config.channelCount) && !channelOpen old c && channelOpen new c
    let goes := fun index => (s.context? index).any fun c => closes c.key.channel
    let areaMoves := stagingBase old ≠ stagingBase new ∨ stagingSlots old ≠ stagingSlots new
    let ringMoves := eventBase old ≠ eventBase new ∨ eventSlots old ≠ eventSlots new
    u.validate = .applied →
    ∃ t, exec (.applyWrite o) s = .next t ∧ t.part = .running ∧ t.settings.staging = u.settings.staging ∧
      t.settings.draining = s.settings.draining ∧
      (∀ word, Words.read t.settings.active word = Words.read new word) ∧
      (∀ index, goes index = true → t.context? index = none) ∧
      (∀ index, goes index = false → (¬areaMoves ∨ ∀ slot, Table.get? s.slotMap slot ≠ some index) →
        t.context? index = s.context? index) ∧
      (∀ slot index c issued k, goes index = false → areaMoves → Table.get? s.slotMap slot = some index →
        s.context? index = some c → c.correction = .issued issued k →
        t.context? index = some { c with correction := .ready issued }) ∧
      t.table.directory = s.table.directory.filter (fun p => !goes p.2) ∧ t.table.quarantined = s.table.quarantined ∧
      t.table.ageing = 0 ∧ (areaMoves → t.slotMap = []) ∧
      (¬areaMoves → t.slotMap = s.slotMap.filter fun p => !goes p.2) ∧
      t.time = { s.time with
        deadlines := s.time.deadlines.filter fun d => !goes d.index
        ageingTimer := 0 } ∧
      t.flight = s.flight.filter (fun f => !goes f.index) ∧
      t.intake.queue = s.intake.queue.filter (fun e => !closes e.channel) ∧
      (∀ c, Table.get? t.intake.lastSequence c =
        if closes c = true ∨ opens c = true then none else Table.get? s.intake.lastSequence c) ∧
      (∀ c, closes c = true →
        t.reports { kind := 11, channel := some c, reason := 2, w4 := BitVec.ofNat 32 (s.occupiedCount c) } s.time.counter
          none = true) ∧
      (ringMoves → t.events.producer = 0 ∧ t.events.consumer = 0 ∧ t.events.mark = 0) ∧
      (¬ringMoves → t.events.consumer = s.events.consumer) ∧
      t.events.applyResult = applyResultValue sequence .applied ∧
      t.lastIssued Config.applyResultWord (applyResultValue sequence .applied) = true ∧
      t.events.errors = s.events.errors ∧ t.forwarder = u.forwarder ∧ t.pins.straps = s.pins.straps ∧
      t.pins.attention = t.attentionLevel

/-- A consumer index below S that does not pass the producer is taken, and the mark follows a consumer that has reached it;
any other leaves C as it was, with no error (R171, R174). With nothing in the holding queue, nothing else changes. -/
def Obligations.ConsumerIndexIsTaken : Prop :=
  ∀ (s : State) (o : Origin) (r : Request), s.between = true → s.offers o r = true →
    s.soleControl r Config.consumerWord = true → s.events.holding = [] →
    let u := s.withCopied o r
    let v := setting u.settings.staging Config.consumerWord 11 0
    let slots := eventSlots s.settings.active
    let takes := v < slots ∧ ringDistance slots v s.events.consumer ≤ ringDistance slots s.events.producer s.events.consumer
    let unread := ringDistance slots s.events.producer s.events.mark < ringDistance slots s.events.producer v
    ∃ t, exec (.consumerIndexWrite o) s = .next t ∧
      (takes → t.events = { s.events with consumer := v, mark := if unread then s.events.mark else v }) ∧
      (¬takes → t.events = s.events) ∧
      t.own = s.own ∧ t.settings = u.settings ∧ t.forwarder = u.forwarder ∧ t.part = s.part ∧ t.intake = s.intake ∧
      t.flight = s.flight ∧ t.table = s.table ∧ t.slotMap = s.slotMap ∧ t.time = s.time ∧
      t.pins.straps = s.pins.straps ∧ t.pins.attention = t.attentionLevel

/-! ### Commands -/

/-- SOFT_RESET, in any part state: held writes are forwarded unfilled, the part enters SETUP with the default settings
and every block but the forwarder, the staging copy and the plant counter at its reset value, own writes already sent
stay outstanding and are marked, and the command result and the other 13 status words are issued in that order (R164,
R167, R181). (Log 35: an ABANDONED made in the same step gives way to DONE, an inference.) -/
def Obligations.SoftResetMakesSetup : Prop :=
  ∀ (s : State) (o : Origin) (r : Request), s.between = true → s.offers o r = true →
    s.soleControl r Config.commandWord = true → (s.withCopied o r).hasCommand 1 = true →
    let u := s.withCopied o r
    let value := commandResultValue u.commandSequence 1 (flagField s.settings.draining.isSome) .done
    ∃ t, exec (.softReset o) s = .next t ∧ t.part = .setup ∧
      t.settings = { staging := u.settings.staging, active := Config.defaultSettings, draining := none } ∧
      t.table = { contexts := [], directory := [], quarantined := [], ageing := 0 } ∧
      t.intake = { queue := [], lastSequence := [] } ∧ t.flight = none ∧ t.slotMap = [] ∧
      t.time = { s.time with deadlines := [], ageingTimer := 0 } ∧
      t.events =
        { producer := 0, consumer := 0, mark := 0, sequence := 0, lost := false, holding := [], errors := 0,
          firstPointer := none, applyResult := 0, commandResult := value } ∧
      t.own.queue.map OwnWrite.body =
        .status Config.commandResultWord value ::
          (Config.statusWords.filter fun w => w != Config.commandResultWord).map
            (fun w => .status w (if w = Config.freeCountWord then 1024 else 0)) ∧
      t.own.outstanding = s.own.outstanding.map (fun w => { w with beforeReset := true }) ∧
      t.own.nextTag = s.own.nextTag ∧ t.forwarder.held = [] ∧
      t.forwarder.toMemory = s.forwarder.toMemory ++ [r] ++ s.forwarder.held.map HeldWrite.request ∧
      t.forwarder.waiting = (s.leaving o).forwarder.waiting ∧ s.forwarder.inFlight <+: t.forwarder.inFlight ∧
      t.pins.straps = s.pins.straps ∧ t.pins.attention = false

/-- CHANNEL_CLOSE of an open local channel: its contexts are released silently, its reports discarded and its last
accepted sequence none, its enable off, CHANNEL_CLOSED handed on with the number released, and the result DONE; contexts
of other channels are untouched; the writes held for a station of the channel find UNKNOWN_STATION and are forwarded in order
(R19, R42, R146, R165). (Log 33: the event's channel number field is 0, the model's choice; log 13: it waits for no
acknowledgement, an inference.) -/
def Obligations.ChannelCloseEmptiesChannel : Prop :=
  ∀ (s : State) (o : Origin) (r : Request), s.between = true → s.offers o r = true →
    s.soleControl r Config.commandWord = true → (s.withCopied o r).hasCommand 2 = true → s.part = .running →
    s.settings.draining = none → (s.flight = none → s.forwarder.held = []) →
    (∀ f c, s.flight = some f → s.context? f.index = some c → s.heldFor f.index c.key = true) →
    s.eventRoom 1 = true → Table.wf s.table.contexts = true →
    let u := s.withCopied o r
    let channel := bits (Words.read u.settings.staging Config.firstArgument) 23 16
    let ours := fun index => (s.context? index).any fun c => c.key.channel == channel
    channel < Config.channelCount → channelOpen s.settings.active channel = true →
    (∀ index c, s.context? index = some c → c.key.channel = channel → c.intact = true) →
    ∃ t, exec (.channelClose o) s = .next t ∧
      (∀ index, t.context? index = if ours index = true then none else s.context? index) ∧
      t.table.directory = s.table.directory.filter (fun p => !ours p.2) ∧
      t.slotMap = s.slotMap.filter (fun p => !ours p.2) ∧
      t.time = { s.time with deadlines := s.time.deadlines.filter fun d => !ours d.index } ∧
      t.flight = s.flight.filter (fun f => !ours f.index) ∧ t.table.quarantined = s.table.quarantined ∧
      t.intake.queue = s.intake.queue.filter (fun e => e.channel != channel) ∧
      Table.get? t.intake.lastSequence channel = none ∧
      t.settings.staging = u.settings.staging ∧ channelOpen t.settings.active channel = false ∧
      (∀ word, word ≠ channelWord channel 0 → Words.read t.settings.active word = Words.read s.settings.active word) ∧
      t.reports { kind := 11, channel := some channel, reason := 1, w4 := BitVec.ofNat 32 (s.occupiedCount channel) }
        s.time.counter none = true ∧
      t.events.commandResult = commandResultValue u.commandSequence 2 0 .done ∧
      t.lastIssued Config.commandResultWord (commandResultValue u.commandSequence 2 0 .done) = true ∧
      t.events.errors = s.events.errors ∧
      (∀ f c, s.flight = some f → s.context? f.index = some c → c.key.channel = channel →
        ForwardsHeld u t (s.heldFilled c.key (emptyFill none 3))) ∧
      ((s.flight.any fun f => ours f.index) = false → t.forwarder = u.forwarder) ∧ t.part = .running ∧
      t.pins.straps = s.pins.straps ∧ t.pins.attention = t.attentionLevel

/-- STATION_DROP of a known station releases its context with reason DROPPED and gives DONE; the writes held for it find
UNKNOWN_STATION and are forwarded in order (R18, R21, R146). A station command whose station's record fails its check releases
that record and gives NOT_FOUND (R20, R27). (Log 10: events name the channel number that the active settings claim, the
model's choice; log 29: the metric bits of a station without metrics, and log 13: the event waits for no acknowledgement,
inferences.) -/
def Obligations.StationDropReleases : Prop :=
  (∀ (s : State) (o : Origin) (r : Request) (channel index : Nat) (c : Context), s.between = true →
    s.offers o r = true → s.soleControl r Config.commandWord = true → (s.withCopied o r).hasCommand 3 = true →
    s.part = .running → s.settings.draining = none → s.heldFor index c.key = true → s.eventRoom 1 = true →
    let u := s.withCopied o r
    u.firstNamed.inRange = true → claimant s.settings.active u.firstNamed.number = some channel →
    s.known { channel := channel, tag := u.firstNamed.tag } index c = true →
    ∃ t, exec (.stationDrop o) s = .next t ∧ Released s t index ∧
      t.reportsSince u (s.releasedFields c index .dropped 0) s.time.counter none = true ∧
      t.events.commandResult = commandResultValue u.commandSequence 3 0 .done ∧
      t.lastIssued Config.commandResultWord (commandResultValue u.commandSequence 3 0 .done) = true ∧
      t.table.quarantined = s.table.quarantined ∧ t.events.errors = s.events.errors ∧
      SettlesHeld u t index (s.heldFilled c.key (emptyFill none 3)) ∧ t.part = s.part ∧ t.settings = u.settings ∧
      t.intake = s.intake ∧ t.pins.straps = s.pins.straps ∧ t.pins.attention = t.attentionLevel) ∧
  ∀ (s : State) (o : Origin) (r : Request) (code channel index : Nat) (c : Context), s.between = true →
    s.offers o r = true → s.soleControl r Config.commandWord = true → (s.withCopied o r).hasCommand code = true →
    3 ≤ code → code ≤ 5 → s.part = .running → s.settings.draining = none → s.heldFor index c.key = true →
    s.damageRoom = true →
    let u := s.withCopied o r
    u.firstNamed.inRange = true → (code = 5 → u.secondNamed.inRange = true) →
    claimant s.settings.active u.firstNamed.number = some channel →
    Table.get? s.table.directory { channel := channel, tag := u.firstNamed.tag : Key }.number = some index →
    s.context? index = some c → c.intact = false →
    ∃ t, exec (commandRow code o) s = .next t ∧ FailedCheck u t index c s.time.counter none ∧
      SettlesHeld u t index (s.heldFilled c.key (emptyFill none 3)) ∧
      t.events.commandResult = commandResultValue u.commandSequence code 0 .notFound ∧
      t.lastIssued Config.commandResultWord (commandResultValue u.commandSequence code 0 .notFound) = true ∧
      t.part = s.part ∧ t.settings = u.settings ∧ t.intake = s.intake ∧ t.pins.straps = s.pins.straps ∧
      t.pins.attention = t.attentionLevel

/-- STATION_RESTART of a known station: CONTACT, the initial committed values, attempts and age 0, no correction, its
slot unmapped, CONFIRM removed and SILENCE armed for CONTACT at the command's time; the last metrics stay, a correction
in flight for it is abandoned, STATION_RESTARTED is handed on, and the result is DONE; the writes held for it find
NOTHING_READY with CONTINUE and are forwarded in order (R17, R22, R146). (Log 10: events name the channel number that the
active settings claim, the model's choice; log 13: they wait for no acknowledgement, an inference.) -/
def Obligations.StationRestartRestarts : Prop :=
  ∀ (s : State) (o : Origin) (r : Request) (channel index : Nat) (c : Context), s.between = true →
    s.offers o r = true → s.soleControl r Config.commandWord = true → (s.withCopied o r).hasCommand 4 = true →
    s.part = .running → s.settings.draining = none → s.heldFor index c.key = true → s.eventRoom 1 = true →
    let u := s.withCopied o r
    let a := s.settings.active
    u.firstNamed.inRange = true → claimant a u.firstNamed.number = some channel →
    s.known { channel := channel, tag := u.firstNamed.tag } index c = true →
    ∃ t, exec (.stationRestart o) s = .next t ∧
      t.context? index = some
        { c with
          station := .contact
          correction := .none
          busy := c.busy && !(s.flight.any fun f => f.index == index)
          committed := initialCommitted (mainPosition a c.key.channel)
          attempts := 0
          age := 0
          lastHeard := s.time.counter
          origin := .contact } ∧
      (∀ m, m ≠ index → t.context? m = s.context? m) ∧ t.table.directory = s.table.directory ∧
      t.table.quarantined = s.table.quarantined ∧ t.slotMap = s.slotMap.filter (fun p => p.2 != index) ∧
      t.time =
        { s.time with
        deadlines :=
          (s.time.deadlines.filter fun d => d.index != index) ++
            [{ index := index, kind := .silence .contact,
               expiry := later s.time.counter (contactSilence a c.key.channel) }] } ∧
      t.flight = s.flight.filter (fun f => f.index != index) ∧
      t.reportsSince u { s.stationFields 3 c.key index with reason := 2 } s.time.counter none = true ∧
      t.events.commandResult = commandResultValue u.commandSequence 4 0 .done ∧
      t.lastIssued Config.commandResultWord (commandResultValue u.commandSequence 4 0 .done) = true ∧
      t.events.errors = s.events.errors ∧ SettlesHeld u t index (s.heldFilled c.key (emptyFill (some .cont) 2)) ∧
      t.part = s.part ∧ t.settings = u.settings ∧ t.intake = s.intake ∧ t.pins.straps = s.pins.straps ∧
      t.pins.attention = t.attentionLevel

/-- STATION_MOVE that passes every test: the source is released with reason MOVED, and the target takes the lowest vacant
index that is not quarantined, in CONTACT with the source's timing and power clamped into the target channel's bounds,
frequency 0, identity coefficients and origin MOVED; STATION_RELEASED and STATION_NEW are handed on, the second with origin
MOVED and the source's key and index; no other context changes, and the result is DONE; the writes held for the source find
UNKNOWN_STATION and are forwarded in order (R23, R146). (Log 10: events name the channel number that the active settings
claim, the model's choice; log 29: the metric bits of a source without metrics, and log 13: the events wait for no
acknowledgement, inferences; log 39: a move within a channel of quota 0 is made, the model's choice.) -/
def Obligations.StationMoveCarriesStation : Prop :=
  ∀ (s : State) (o : Origin) (r : Request) (channel target source : Nat) (c : Context), s.between = true →
    s.offers o r = true → s.soleControl r Config.commandWord = true → (s.withCopied o r).hasCommand 5 = true →
    s.part = .running → s.settings.draining = none → s.heldFor source c.key = true → s.eventRoom 2 = true →
    let u := s.withCopied o r
    let a := s.settings.active
    let key : Key := { channel := target, tag := u.secondNamed.tag }
    let ceiling : Int := timingCeiling a target
    let timing := clampInto (-ceiling) ceiling c.committed.timing
    u.firstNamed.inRange = true → u.secondNamed.inRange = true →
    claimant a u.firstNamed.number = some channel → claimant a u.secondNamed.number = some target →
    s.known { channel := channel, tag := u.firstNamed.tag } source c = true → s.unknown key = true →
    (s.occupiedCount target < quota a target ∨ target = c.key.channel) →
    source < Config.contextCount → source ∉ s.table.quarantined →
    ∃ t index, exec (.stationMove o) s = .next t ∧
      (s.context? index = none ∨ index = source) ∧ index ∉ s.table.quarantined ∧
      (∀ m, m < index → (m ≠ source ∧ s.context? m ≠ none) ∨ m ∈ s.table.quarantined) ∧
      t.context? index = some
        { key := key, station := .contact, correction := .none, busy := false
          committed :=
            { timing := timing
              residue := if timing = c.committed.timing then c.committed.residue else 0
              power := clampInto (powerLow a target) (powerHigh a target) c.committed.power
              frequency := 0
              coefficients := identityCoefficients (mainPosition a target) }
          attempts := 0, age := 0, lastHeard := s.time.counter, metrics := none, origin := .moved, intact := true } ∧
      (source ≠ index → t.context? source = none) ∧
      (∀ m, m ≠ source → m ≠ index → t.context? m = s.context? m) ∧
      Table.get? t.table.directory key.number = some index ∧ t.table.quarantined = s.table.quarantined ∧
      t.slotMap = s.slotMap.filter (fun p => p.2 != source) ∧
      t.time =
        { s.time with
        deadlines :=
          rearmed (s.time.deadlines.filter fun d => d.index != source) index (.silence .contact)
            (later s.time.counter (contactSilence a target)) } ∧
      t.flight = s.flight.filter (fun f => f.index != source) ∧
      t.reportsSince u (s.releasedFields c source .moved 0) s.time.counter none = true ∧
      t.reports
        { s.stationFields 1 key index with
          origin := 2
          w4 := packed [(c.key.tag, 16), (claimedNumber a c.key.channel, 12), (1, 7), (c.key.channel, 4)]
          w5 := BitVec.ofNat 32 source } s.time.counter none = true ∧
      t.events.commandResult = commandResultValue u.commandSequence 5 0 .done ∧
      t.lastIssued Config.commandResultWord (commandResultValue u.commandSequence 5 0 .done) = true ∧
      t.events.errors = s.events.errors ∧ SettlesHeld u t source (s.heldFilled c.key (emptyFill none 3)) ∧
      t.part = s.part ∧ t.settings = u.settings ∧ t.intake = s.intake ∧ t.pins.straps = s.pins.straps ∧
      t.pins.attention = t.attentionLevel

/-- DRAIN completes at once with DONE when the intake queue is empty, the corrector idle and nothing held, and is held in
the command-in-progress record otherwise; a DRAIN in progress completes with DONE when the three hold together. The flags
are the three conditions and whether the own-write queue was empty with nothing outstanding (R153). (Log 14: the first
flag is the lowest bit, and log 13: the result waits for no acknowledgement, inferences; log 45: whatever the entry that it
displaces waited for, the model's choice.) -/
def Obligations.DrainCompletesWhenIdle : Prop :=
  (∀ (s : State) (o : Origin) (r : Request), s.between = true → s.offers o r = true →
    s.soleControl r Config.commandWord = true → (s.withCopied o r).hasCommand 6 = true → s.part ≠ .stopped →
    s.settings.draining = none →
    let u := s.withCopied o r
    let idle := s.intake.queue = [] ∧ s.flight = none ∧ s.forwarder.held = []
    let flags := if s.own.queue = [] ∧ s.own.outstanding = [] then 15 else 7
    ∃ t, exec (.drain o) s = .next t ∧
      (idle →
        t.events = { s.events with commandResult := commandResultValue u.commandSequence 6 flags .done } ∧
        t.own = s.own.issued Config.commandResultWord (commandResultValue u.commandSequence 6 flags .done) ∧
        t.settings = u.settings) ∧
      (¬idle → t.events = s.events ∧ t.own = s.own ∧
        t.settings = { u.settings with draining := some u.commandSequence }) ∧
      t.forwarder = u.forwarder ∧ t.part = s.part ∧ t.intake = s.intake ∧
      t.flight = s.flight ∧ t.table = s.table ∧ t.slotMap = s.slotMap ∧ t.time = s.time ∧ t.pins = s.pins) ∧
  ∀ (s : State) (sequence : BitVec 16), s.between = true → s.settings.draining = some sequence →
    s.intake.queue = [] → s.flight = none → s.forwarder.held = [] →
    let flags := if s.own.queue = [] ∧ s.own.outstanding = [] then 15 else 7
    ∃ t, exec .drainDone s = .next t ∧
      t.events = { s.events with commandResult := commandResultValue sequence 6 flags .done } ∧
      t.own = s.own.issued Config.commandResultWord (commandResultValue sequence 6 flags .done) ∧
      t.settings = { s.settings with draining := none } ∧
      t.forwarder = s.forwarder ∧ t.part = s.part ∧ t.intake = s.intake ∧ t.flight = s.flight ∧ t.table = s.table ∧
      t.slotMap = s.slotMap ∧ t.time = s.time ∧ t.pins = s.pins

/-- ERROR_CLEAR, in any part state: the named kinds clear, the first pointer empties when its kind is named, quarantine ends
when CONTEXT_INTEGRITY is named, and the result is DONE; the part state and every record stay (R28, R166). -/
def Obligations.ErrorClearClears : Prop :=
  ∀ (s : State) (o : Origin) (r : Request), s.between = true → s.offers o r = true →
    s.soleControl r Config.commandWord = true → (s.withCopied o r).hasCommand 7 = true → s.settings.draining = none →
    let u := s.withCopied o r
    let named : BitVec 10 := (Words.read u.settings.staging Config.firstArgument).setWidth 10
    ∃ t, exec (.errorClear o) s = .next t ∧
      t.events =
        { s.events with
          errors := s.events.errors &&& ~~~named
          firstPointer := s.events.firstPointer.filter fun k => !named.getLsbD k.code
          commandResult := commandResultValue u.commandSequence 7 0 .done } ∧
      t.lastIssued Config.commandResultWord (commandResultValue u.commandSequence 7 0 .done) = true ∧
      t.table = { s.table with quarantined := if named.getLsbD 9 then [] else s.table.quarantined } ∧
      t.own.outstanding = s.own.outstanding ∧ t.settings = u.settings ∧ t.forwarder = u.forwarder ∧ t.part = s.part ∧
      t.intake = s.intake ∧ t.flight = s.flight ∧ t.slotMap = s.slotMap ∧ t.time = s.time ∧
      t.pins.straps = s.pins.straps ∧ t.pins.attention = t.attentionLevel

/-- A refused command changes nothing but the copied words and the command result word: BAD_ARGUMENT for a code of 8 and
above, BUSY for every command but SOFT_RESET while a DRAIN is in progress, NOT_RUNNING for channel and station commands
outside RUNNING and for DRAIN in STOPPED; and in RUNNING by its arguments: BAD_ARGUMENT for a channel field above 7, a channel
number above 15 or a tag outside 1..16,383; CLOSED for a local channel that is closed; NOT_FOUND for a station no open channel
and no directory entry finds; TARGET_TAKEN, CLOSED and QUOTA for a move whose target key is known, whose target channel is
closed, or whose target channel, another than the source's, is at its quota (R20, R23, R154, R163, R165). (Log 13: the result
waits for no acknowledgement, an inference; log 39: a move within a channel passes the quota, and log 45: whatever the entry
that the result displaces waited for, the model's choices.) -/
def Obligations.RefusedCommandChangesNothing : Prop :=
  ∀ (s : State) (o : Origin) (r : Request) (code : Nat) (result : CommandResult), s.between = true →
    s.offers o r = true → s.soleControl r Config.commandWord = true → (s.withCopied o r).hasCommand code = true →
    let u := s.withCopied o r
    let a := s.settings.active
    let field := bits (Words.read u.settings.staging Config.firstArgument) 23 16
    let inRange := u.firstNamed.inRange = true ∧ (code = 5 → u.secondNamed.inRange = true)
    let found := fun (n : StationName) index c => ∃ channel, claimant a n.number = some channel ∧
      s.known { channel := channel, tag := n.tag } index c = true
    let missing := fun n : StationName =>
      ∀ channel, claimant a n.number = some channel → s.unknown { channel := channel, tag := n.tag } = true
    let tested := s.settings.draining = none ∧ s.part = .running ∧ (s.flight = none → s.forwarder.held = [])
    ((8 ≤ code ∧ result = .badArgument) ∨
      (code = 2 ∧ tested ∧ 7 < field ∧ result = .badArgument) ∨
      (code = 2 ∧ tested ∧ field ≤ 7 ∧ channelOpen a field = false ∧ result = .closed) ∨
      (3 ≤ code ∧ code ≤ 5 ∧ tested ∧ ¬inRange ∧ result = .badArgument) ∨
      (3 ≤ code ∧ code ≤ 5 ∧ tested ∧ inRange ∧ missing u.firstNamed ∧ result = .notFound) ∨
      (code = 5 ∧ tested ∧ inRange ∧ (∃ index c, found u.firstNamed index c) ∧
        (∃ index c, found u.secondNamed index c) ∧ result = .targetTaken) ∨
      (code = 5 ∧ tested ∧ inRange ∧ (∃ index c, found u.firstNamed index c) ∧
        claimant a u.secondNamed.number = none ∧ result = .closed) ∨
      (code = 5 ∧ tested ∧ inRange ∧ missing u.secondNamed ∧
        (∃ index c target, found u.firstNamed index c ∧ claimant a u.secondNamed.number = some target ∧
          quota a target ≤ s.occupiedCount target ∧ target ≠ c.key.channel) ∧ result = .quota) ∨
      (2 ≤ code ∧ code ≤ 7 ∧ s.settings.draining ≠ none ∧ result = .busy) ∨
      (2 ≤ code ∧ code ≤ 5 ∧ s.settings.draining = none ∧ s.part ≠ .running ∧ result = .notRunning) ∨
      (code = 6 ∧ s.settings.draining = none ∧ s.part = .stopped ∧ result = .notRunning)) →
    let value := commandResultValue u.commandSequence code 0 result
    ∃ t, exec (commandRow code o) s = .next t ∧ t.events = { s.events with commandResult := value } ∧
      t.own = s.own.issued Config.commandResultWord value ∧
      t.settings = u.settings ∧ t.forwarder = u.forwarder ∧ t.part = s.part ∧ t.intake = s.intake ∧
      t.flight = s.flight ∧ t.table = s.table ∧ t.slotMap = s.slotMap ∧ t.time = s.time ∧ t.pins = s.pins

/-! ### Own writes and events -/

/-- The head of the own-write queue is sent when its cause has been met, fewer than 256 own writes are outstanding and none of
them carries the next tag: with the own source number, every lane on and that tag, to its event slot or its word of the
window. Otherwise it stays. A command that forwards the request it carries sends the own writes that may be sent first: from
the state before them it comes to the same as from the state after them (R148, R149). (Log 40: it sends them within its own
step, an inference; log 18: held events are then written at once, an inference.) -/
def Obligations.OwnWriteIsSentInTurn : Prop :=
  (∀ (s : State) (w : OwnWrite) (rest : List OwnWrite), s.between = true → s.own.queue = w :: rest →
    s.events.holding = [] →
    let ready := (∀ serial, w.cause = some serial → ∀ q ∈ s.forwarder.inFlight, q.serial ≠ serial) ∧
      s.own.outstanding.length < Config.ownOutstanding ∧ ∀ p ∈ s.own.outstanding, p.tag ≠ s.own.nextTag
    let sent : Request :=
      { address :=
          match w.body with
          | .record address _ => address
          | .status word _ => BitVec.ofNat 32 (windowBase s.pins.straps + 4 * word)
        source := s.pins.straps.ownSource
        tag := s.own.nextTag.toNat
        body := .write (match w.body with
          | .record _ words => words.map fun data => { lanes := 15, data := data }
          | .status _ value => [{ lanes := 15, data := value }]) }
    (ready → exec .ownWriteSend s =
      .next { s with
        forwarder := { s.forwarder with toMemory := s.forwarder.toMemory ++ [sent] }
        own :=
          { queue := rest
            outstanding := s.own.outstanding ++ [{ tag := s.own.nextTag, beforeReset := false }]
            nextTag := s.own.nextTag + 1 } }) ∧
    (¬ready → exec .ownWriteSend s = .next s) ∧ (s.ownReady = true ↔ ready)) ∧
  (∀ s t : State, s.between = true → exec .ownWriteSend s = .next t →
    t.ownSent = s.ownSent ∧ s.ownSent.ownReady = false ∧ (s.ownReady = false → s.ownSent = s)) ∧
  ∀ (c : Instr) (o : Origin) (r : Request) (s : State), s.between = true → originOf c = some o → s.presents o r = true →
    s.guardFails r = false → s.wantsHold r = none → exec c s.ownSent ≠ .next s.ownSent → exec c s = exec c s.ownSent

/-- An acknowledgement ends its own write's outstanding time; one with status ERROR sets INJECT_FAULT, unless the write was
sent before the last SOFT_RESET (R151). -/
def Obligations.OwnWriteIsAcknowledged : Prop :=
  ∀ (s : State) (tag : BitVec 8) (status : CompletionStatus) (w : Outstanding), s.between = true →
    s.own.outstanding.find? (fun p => p.tag == tag) = some w →
    let left := s.own.outstanding.eraseP fun p => p.tag == tag
    ((status = .okay ∨ w.beforeReset = true) →
      exec (.ownWriteAck tag status) s = .next { s with own := { s.own with outstanding := left } }) ∧
    (status = .error → w.beforeReset = false → s.eventRoom 1 = true → s.tolerates .injectFault = true →
      ∃ t, exec (.ownWriteAck tag status) s = .next t ∧ t.own.outstanding = left ∧
        t.events.errors = s.events.errors ||| 256#10 ∧ t.part = s.part ∧ t.forwarder = s.forwarder ∧
        t.settings = s.settings ∧ t.intake = s.intake ∧ t.flight = s.flight ∧ t.table = s.table ∧
        t.slotMap = s.slotMap ∧ t.time = s.time ∧ t.pins.straps = s.pins.straps ∧
        t.pins.attention = t.attentionLevel)

/-- The head of the holding queue is written when the ring is not full and the own-write queue has room: to slot P of the
ring, with the event sequence and the lost flag, which then rise by one and clear; P rises by one modulo S, the producer
index word follows, and a record of an attention kind moves the mark. Otherwise it stays (R169). An enabled event handed on
while the queue holds 16 is discarded: the lost flag and EVENT_LOSS are set, and nothing else of the event is kept; the ERROR
event of that setting, due when the first pointer was empty, is discarded with it (R170, R175, R176). (Log 45: the producer
index word waits for this record's cause alone, whatever the entry it displaces waited for, the model's choice; log 18: the
step writes one head, and held events are otherwise written as far as there is room, an inference.) -/
def Obligations.HeldEventIsWrittenOut : Prop :=
  (∀ (s : State) (e : EventRecord) (rest : List EventRecord), s.between = true → s.events.holding = e :: rest →
    let slots := eventSlots s.settings.active
    let next := (s.events.producer + 1) % slots
    (next ≠ s.events.consumer → s.recordRoom = true →
      ∃ t, exec .eventWriteOut s = .next t ∧
        t.events =
          { s.events with
            holding := rest
            sequence := s.events.sequence + 1
            lost := false
            producer := next
            mark := if attentionKind s.settings.active e.kind then next else s.events.mark } ∧
        t.own =
          { s.own with
          queue :=
            (s.own.queue.filter fun w => !w.isStatus Config.producerWord) ++
              [ { body := .record (BitVec.ofNat 32 (eventBase s.settings.active + 32 * s.events.producer))
                    ((e.words.headD 0 ||| packed [(flagField s.events.lost, 23), (s.events.sequence.toNat, 0)]) ::
                      e.words.tail)
                  cause := e.cause },
                { body := .status Config.producerWord (BitVec.ofNat 32 next), cause := e.cause } ] } ∧
        t.part = s.part ∧ t.forwarder = s.forwarder ∧ t.settings = s.settings ∧ t.intake = s.intake ∧
        t.flight = s.flight ∧ t.table = s.table ∧ t.slotMap = s.slotMap ∧ t.time = s.time ∧
        t.pins.straps = s.pins.straps ∧ t.pins.attention = t.attentionLevel) ∧
    ((next = s.events.consumer ∨ s.recordRoom = false) → exec .eventWriteOut s = .next s)) ∧
  ∀ (s : State) (f : EventFields) (time : Time), Config.holdingPlaces ≤ s.events.holding.length →
    let t := s.handOn f time
    (eventEnabled s.settings.active f.kind = false → t = s) ∧
    (eventEnabled s.settings.active f.kind = true →
      t.events =
        { s.events with
          lost := true
          errors := s.events.errors ||| 128#10
          firstPointer :=
            if errorMasked s.settings.active 7 = true then s.events.firstPointer
            else s.events.firstPointer.or (some .eventLoss) } ∧
      (t.now.stopDue = true ↔
        s.now.stopDue = true ∨
          errorMasked s.settings.active 7 = false ∧ errorFatal s.settings.active 7 = true ∧ s.part ≠ .stopped) ∧
      (s.events.errors.getLsbD 7 = false → t.own.queue.any (fun w => w.isStatus Config.errorStatusWord) = true) ∧
      t.own.outstanding = s.own.outstanding ∧ t.forwarder = s.forwarder ∧ t.part = s.part ∧ t.settings = s.settings ∧
      t.intake = s.intake ∧ t.flight = s.flight ∧ t.table = s.table ∧ t.slotMap = s.slotMap ∧ t.time = s.time ∧
      t.pins = s.pins)

/-! ### The corrector -/

/-- The taking of a KEEPALIVE or DATA report of a known station that is not ENDING and holds no correction, or a READY one,
which is discarded: the context is busy, its age 0 and last heard the take time; DUE returns to TRACKING; SILENCE is
re-armed for the state; the report is to be fully corrected, under a snapshot of the active settings; nothing else changes
(R6, R7, R43, R44, R45). An ISSUED correction, or a station in ENDING, makes it noted only. The taking of a FIRST_CONTACT of a
known station restarts it first: CONTACT, the initial committed values, attempts 0, no correction whatever it was, its slot
unmapped, CONFIRM removed and SILENCE armed for CONTACT; STATION_RESTARTED is handed on with reason report, the last metrics
stay, the age kept for the correction is the one before the restart, and the report is fully corrected (R11, R17, R44). (Log
10: events name the channel number that the active settings claim, and log 41: with N = 0 the ageing counter counts on, the
model's choices.) -/
def Obligations.TakingBindsKnownStation : Prop :=
  (∀ (s : State) (e : Report) (rest : List Report) (index : Nat) (c : Context), s.between = true → s.part = .running →
    s.flight = none → s.intake.queue = e :: rest → e.kind ≠ .firstContact →
    s.known { channel := e.channel, tag := e.tag } index c = true → s.ageingQuiet = true →
    (∀ issued delivered, c.correction ≠ .sent issued delivered) →
    let a := s.settings.active
    let now := s.time.counter
    let full := decide (c.station ≠ .ending) && (c.correction == .none || c.correction matches .ready _)
    exec .takeHead s =
      .next { s with
        intake := { s.intake with queue := rest }
        flight := some
          { report := e, snapshot := a, takeTime := now, index := index, ageBefore := c.age, full := full }
        table := { s.table with
          ageing := s.ageingCounted
          contexts := Table.set s.table.contexts index
            { c with
              busy := true
              age := 0
              lastHeard := now
              station := if c.station = .due then .tracking else c.station
              correction := if full then .none else c.correction
              intact := true } }
        time := { s.time with
        deadlines :=
          match c.station with
          | .contact =>
            rearmed s.time.deadlines index (.silence .contact) (later now (contactSilence a c.key.channel))
          | .tracking => rearmed s.time.deadlines index (.silence .dueWait) (later now (dueInterval a c.key.channel))
          | .due => rearmed s.time.deadlines index (.silence .dueWait) (later now (dueInterval a c.key.channel))
          | .ending => s.time.deadlines } }) ∧
  ∀ (s : State) (e : Report) (rest : List Report) (index : Nat) (c : Context), s.between = true → s.part = .running →
    s.flight = none → s.intake.queue = e :: rest → e.kind = .firstContact →
    s.known { channel := e.channel, tag := e.tag } index c = true → s.ageingQuiet = true → s.eventRoom 1 = true →
    let a := s.settings.active
    let now := s.time.counter
    ∃ t, exec .takeHead s = .next t ∧
      t.context? index = some
        { c with
          station := .contact
          correction := .none
          busy := true
          committed := initialCommitted (mainPosition a c.key.channel)
          attempts := 0
          age := 0
          lastHeard := now
          origin := .contact } ∧
      (∀ m, m ≠ index → t.context? m = s.context? m) ∧
      t.flight = some
        { report := e, snapshot := a, takeTime := now, index := index, ageBefore := c.age, full := true } ∧
      t.time = { s.time with
        deadlines := (s.time.deadlines.filter fun d => d.index != index) ++
          [{ index := index, kind := .silence .contact, expiry := later now (contactSilence a c.key.channel) }] } ∧
      t.slotMap = s.slotMap.filter (fun p => p.2 != index) ∧
      t.reports { s.stationFields 3 c.key index with reason := 1 } now none = true ∧
      t.intake = { s.intake with queue := rest } ∧ t.table.directory = s.table.directory ∧
      t.table.quarantined = s.table.quarantined ∧ t.table.ageing = s.ageingCounted ∧
      t.events.errors = s.events.errors ∧ t.forwarder = s.forwarder ∧ t.part = s.part ∧ t.settings = s.settings ∧
      t.pins.straps = s.pins.straps ∧ t.pins.attention = t.attentionLevel

/-- A SENT correction at the taking of a KEEPALIVE or DATA report: with an arrival at or after delivery time plus apply
margin it is confirmed: the committed values take it, the issued next state acts, SUCCESS clears attempts, CONFIRM is
removed, CORRECTION_CONFIRMED is handed on and the report is fully corrected; with an earlier arrival the report is noted
only and the correction stays SENT (R8, R45, R71, R115). (Log 10: events name the channel number that the active settings
claim, the model's choice.) -/
def Obligations.TakingConfirmsSentCorrection : Prop :=
  ∀ (s : State) (e : Report) (rest : List Report) (index : Nat) (c : Context) (issued : Issued) (delivered : Time),
    s.between = true → s.part = .running → s.flight = none → s.intake.queue = e :: rest → e.kind ≠ .firstContact →
    s.known { channel := e.channel, tag := e.tag } index c = true → s.ageingQuiet = true → c.station ≠ .ending →
    c.correction = .sent issued delivered → s.eventRoom 1 = true →
    let a := s.settings.active
    let now := s.time.counter
    let shows := (e.arrival - (delivered + BitVec.ofNat 32 (applyMargin a c.key.channel))).toNat < 2 ^ 31
    let before := if c.station = .due then .tracking else c.station
    ∃ t, exec .takeHead s = .next t ∧
      t.flight = some
        { report := e, snapshot := a, takeTime := now, index := index, ageBefore := c.age, full := decide shows } ∧
      t.intake = { s.intake with queue := rest } ∧
      (shows →
        t.context? index = some
          { c with
            busy := true
            age := 0
            lastHeard := now
            station := issued.next.apply before
            correction := .none
            attempts := if issued.status = .success then 0 else c.attempts
            committed :=
              { timing := c.committed.timing + issued.timing
                residue := issued.residue
                power := c.committed.power + issued.power
                frequency := c.committed.frequency + issued.frequency
                coefficients := issued.coefficients.getD c.committed.coefficients } } ∧
        t.deadlinesFor index .confirm = 0 ∧
        t.reports ((s.stationFields 8 c.key index).withIssued issued delivered) now none = true) ∧
      (¬shows →
        t.context? index = some { c with busy := true, age := 0, lastHeard := now, station := before } ∧
        t.events = s.events ∧ t.own = s.own) ∧
      (∀ m, m ≠ index → t.context? m = s.context? m) ∧
      (∀ m kind, m ≠ index → t.deadlinesFor m kind = s.deadlinesFor m kind) ∧ t.table.directory = s.table.directory ∧
      t.events.errors = s.events.errors ∧ t.forwarder = s.forwarder ∧ t.part = s.part ∧ t.settings = s.settings ∧
      t.slotMap = s.slotMap ∧ t.pins.straps = s.pins.straps ∧ t.pins.attention = t.attentionLevel

/-- The taking of a report for an unknown key that is admitted: a FIRST_CONTACT is allocated while a context is free and
its channel below its quota, a KEEPALIVE adopted while adopt is on, the free count above the reserve and its channel
below its quota. The station takes the lowest vacant index that is not quarantined, with the initial committed values,
CONTACT or TRACKING, and the report is fully corrected. A FIRST_CONTACT that cannot be allocated reclaims the lowest-indexed
context of its channel of age 3, in TRACKING or DUE, with no correction and busy clear: it is released with reason RECLAIMED,
and the new station takes its index (R12, R13, R14, R44). (Log 10: events name the channel number that the active settings
claim, log 38: the scan reads the contexts of every channel, and log 41: with N = 0 the ageing counter counts on, the model's
choices; log 29: the metric bits of a released
station without metrics, an inference.) -/
def Obligations.TakingAdmitsNewStation : Prop :=
  (∀ (s : State) (e : Report) (rest : List Report) (index : Nat), s.between = true → s.part = .running →
    s.flight = none → s.intake.queue = e :: rest → s.unknown { channel := e.channel, tag := e.tag } = true →
    s.ageingQuiet = true → s.eventRoom 1 = true →
    let a := s.settings.active
    let now := s.time.counter
    let first := e.kind = .firstContact
    (first ∧ 0 < s.freeCount ∨
      e.kind = .keepalive ∧ adoptEnabled a e.channel = true ∧ firstContactReserve a < s.freeCount) →
    s.occupiedCount e.channel < quota a e.channel →
    index < Config.contextCount → s.context? index = none → index ∉ s.table.quarantined →
    (∀ m, m < index → s.context? m ≠ none ∨ m ∈ s.table.quarantined) →
    let key : Key := { channel := e.channel, tag := e.tag }
    ∃ t, exec .takeHead s = .next t ∧
      t.context? index = some
        { key := key, station := if first then .contact else .tracking, correction := .none, busy := true
          committed :=
            { timing := 0, residue := 0, power := 0, frequency := 0
              coefficients := identityCoefficients (mainPosition a e.channel) }
          attempts := 0, age := 0, lastHeard := now, metrics := none
          origin := if first then .contact else .adopted, intact := true } ∧
      t.flight = some { report := e, snapshot := a, takeTime := now, index := index, ageBefore := 0, full := true } ∧
      Table.get? t.table.directory key.number = some index ∧
      t.time = { s.time with
      deadlines :=
        rearmed s.time.deadlines index (.silence (if first then .contact else .dueWait))
          (later now (if first then contactSilence a e.channel else dueInterval a e.channel)) } ∧
      t.reports { s.stationFields (if first then 1 else 2) key index with origin := if first then 0 else 1 } now none =
        true ∧
      (∀ m, m ≠ index → t.context? m = s.context? m) ∧ t.intake = { s.intake with queue := rest } ∧
      t.table.quarantined = s.table.quarantined ∧ t.table.ageing = s.ageingCounted ∧
      t.events.errors = s.events.errors ∧ t.forwarder = s.forwarder ∧ t.part = s.part ∧ t.settings = s.settings ∧
      t.slotMap = s.slotMap ∧ t.pins.straps = s.pins.straps ∧ t.pins.attention = t.attentionLevel) ∧
  ∀ (s : State) (e : Report) (rest : List Report) (index : Nat) (c : Context), s.between = true → s.part = .running →
    s.flight = none → s.forwarder.held = [] → s.intake.queue = e :: rest → e.kind = .firstContact →
    s.unknown { channel := e.channel, tag := e.tag } = true → s.ageingQuiet = true → s.eventRoom 2 = true →
    Table.wf s.table.contexts = true →
    let a := s.settings.active
    let now := s.time.counter
    (s.freeCount = 0 ∨ quota a e.channel ≤ s.occupiedCount e.channel) →
    s.context? index = some c → c.intact = true → Reclaimable c e.channel →
    (∀ m d, m < index → s.context? m = some d → d.intact = true ∧ ¬Reclaimable d e.channel) →
    let key : Key := { channel := e.channel, tag := e.tag }
    ∃ t, exec .takeHead s = .next t ∧
      t.context? index = some
        { key := key, station := .contact, correction := .none, busy := true
          committed := initialCommitted (mainPosition a e.channel)
          attempts := 0, age := 0, lastHeard := now, metrics := none, origin := .contact, intact := true } ∧
      (∀ m, m ≠ index → t.context? m = s.context? m) ∧
      t.flight = some { report := e, snapshot := a, takeTime := now, index := index, ageBefore := 0, full := true } ∧
      t.table.directory = Table.set (s.table.directory.filter fun p => p.2 != index) key.number index ∧
      t.time = { s.time with
        deadlines := (s.time.deadlines.filter fun d => d.index != index) ++
          [{ index := index, kind := .silence .contact, expiry := later now (contactSilence a e.channel) }] } ∧
      t.slotMap = s.slotMap.filter (fun p => p.2 != index) ∧
      t.reports (s.releasedFields c index .reclaimed 0) now none = true ∧
      t.reports { s.stationFields 1 key index with origin := 0 } now none = true ∧
      t.intake = { s.intake with queue := rest } ∧ t.table.quarantined = s.table.quarantined ∧
      t.table.ageing = s.ageingCounted ∧ t.freeCount = s.freeCount ∧
      t.occupiedCount e.channel = s.occupiedCount e.channel ∧ t.events.errors = s.events.errors ∧
      t.forwarder = s.forwarder ∧ t.part = s.part ∧ t.settings = s.settings ∧ t.pins.straps = s.pins.straps ∧
      t.pins.attention = t.attentionLevel

/-- The taking of a report for an unknown key that is not admitted: DATA is ignored, and changes nothing but the queue; a
KEEPALIVE is refused with the first cause that holds, ADOPT_OFF, RESERVE or QUOTA, and a FIRST_CONTACT with NO_CONTEXT when it
can be neither allocated nor given a reclaimed context, in ADMISSION_REFUSED, and changes no context, deadline or count;
where the holding queue is full, that event is discarded with the lost flag and EVENT_LOSS set. A key whose record fails its
check counts as unknown once the record is released, so its DATA is ignored (R11, R15, R27, R44, R170). (Log 10: events name
the channel number that the active settings claim, the model's choice; log 29: the metric bits of a released station without
metrics, an inference.) -/
def Obligations.TakingTurnsUnknownAway : Prop :=
  (∀ (s : State) (e : Report) (rest : List Report), s.between = true → s.part = .running → s.flight = none →
    s.intake.queue = e :: rest → s.unknown { channel := e.channel, tag := e.tag } = true →
    let a := s.settings.active
    (e.kind = .data → exec .takeHead s = .next { s with intake := { s.intake with queue := rest } }) ∧
    ∀ cause : RefusalCause,
      ((e.kind = .keepalive ∧ adoptEnabled a e.channel = false ∧ cause = .adoptOff) ∨
        (e.kind = .keepalive ∧ adoptEnabled a e.channel = true ∧ s.freeCount ≤ firstContactReserve a ∧
          cause = .reserve) ∨
        (e.kind = .keepalive ∧ adoptEnabled a e.channel = true ∧ firstContactReserve a < s.freeCount ∧
          quota a e.channel ≤ s.occupiedCount e.channel ∧ cause = .quota) ∨
        (e.kind = .firstContact ∧ (s.freeCount = 0 ∨ quota a e.channel ≤ s.occupiedCount e.channel) ∧
          (∀ m d, s.context? m = some d → d.intact = true ∧ ¬Reclaimable d e.channel) ∧ cause = .noContext)) →
      ∃ t, exec .takeHead s = .next t ∧ t.intake = { s.intake with queue := rest } ∧
        (s.eventRoom 1 = true →
          t.reports
            { kind := 6, tag := e.tag, number := claimedNumber a e.channel, burst := e.kind.code,
              channel := some e.channel, reason := cause.code } s.time.counter none = true ∧
          t.events.errors = s.events.errors ∧ t.part = s.part) ∧
        (s.eventRoom 1 = false → eventEnabled a 6 = true → s.tolerates .eventLoss = true →
          t.events.lost = true ∧ t.events.errors = s.events.errors ||| 128#10 ∧
          t.events.holding = s.events.holding ∧ t.events.sequence = s.events.sequence ∧ t.part = s.part) ∧
        t.flight = none ∧ t.table = s.table ∧ t.time = s.time ∧ t.slotMap = s.slotMap ∧ t.settings.active = a ∧
        t.settings.staging = s.settings.staging ∧ t.pins.straps = s.pins.straps ∧ t.pins.attention = t.attentionLevel ∧
        (t.part = s.part → t.forwarder = s.forwarder ∧ t.settings = s.settings)) ∧
  ∀ (s : State) (e : Report) (rest : List Report) (index : Nat) (c : Context), s.between = true → s.part = .running →
    s.flight = none → s.forwarder.held = [] → s.intake.queue = e :: rest → e.kind = .data →
    Table.get? s.table.directory { channel := e.channel, tag := e.tag : Key }.number = some index →
    s.context? index = some c → c.intact = false → s.damageRoom = true →
    ∃ t, exec .takeHead s = .next t ∧ FailedCheck s t index c s.time.counter none ∧ t.flight = none ∧
      t.intake = { s.intake with queue := rest } ∧ t.table.ageing = s.table.ageing ∧ t.forwarder = s.forwarder ∧
      t.part = s.part ∧ t.settings = s.settings ∧ t.pins.straps = s.pins.straps ∧ t.pins.attention = t.attentionLevel

/-- An ageing step, when the ageing counter of REPORTS mode stands at 16 x N or more or the ageing timer of TIME mode has
reached N x 65,536 ticks, raises the age of every occupied context by one, saturating at 3, busy or not; the counter, or
the timer's count, returns to 0, and nothing else changes. The taking of a KEEPALIVE or DATA report that raises the counter to
16 x N makes the step within it: the station's own age, put to 0 by the taking, becomes 1, every other age rises, and the
counter is 0. A context whose record fails its check is released in place of ageing, and the others age (R24, R25, R27, R44,
R133). (Logs 17 and 30: AGEING_COUNT stands alone as well as within a taking, and a late timer returns to 0, inferences; logs
10 and 29: the channel number of the STATION_RELEASED event is the model's choice, its metric bits of a station without
metrics an inference.) -/
def Obligations.AgeingStepRaisesEveryAge : Prop :=
  (∀ (s : State), s.between = true → s.part = .running → Table.wf s.table.contexts = true →
    (∀ index c, s.context? index = some c → c.intact = true) → 1 ≤ ageingN s.settings.active →
    let aged := s.table.contexts.map fun p => (p.1, { p.2 with age := min 3 (p.2.age + 1) })
    (ageingByTime s.settings.active = false → 16 * ageingN s.settings.active ≤ s.table.ageing →
      exec .ageingCount s = .next { s with table := { s.table with contexts := aged, ageing := 0 } }) ∧
    (ageingByTime s.settings.active = true → ageingN s.settings.active * 65536 ≤ s.time.ageingTimer →
      exec .ageingTimer s =
        .next { s with table := { s.table with contexts := aged }, time := { s.time with ageingTimer := 0 } })) ∧
  (∀ (s : State) (e : Report) (rest : List Report) (index : Nat) (c : Context), s.between = true → s.part = .running →
    s.flight = none → s.intake.queue = e :: rest → e.kind ≠ .firstContact →
    s.known { channel := e.channel, tag := e.tag } index c = true → (∀ issued at_, c.correction ≠ .sent issued at_) →
    Table.wf s.table.contexts = true → (∀ m d, s.context? m = some d → d.intact = true) →
    ageingByTime s.settings.active = false → 1 ≤ ageingN s.settings.active →
    16 * ageingN s.settings.active ≤ s.table.ageing + 1 →
    ∃ t, exec .takeHead s = .next t ∧ (t.context? index).map Context.age = some 1 ∧
      (∀ m, m ≠ index → t.context? m = (s.context? m).map fun d => { d with age := min 3 (d.age + 1) }) ∧
      t.table.ageing = 0 ∧ (t.flight.map fun f => (f.index, f.ageBefore)) = some (index, c.age) ∧
      t.intake = { s.intake with queue := rest } ∧ t.events = s.events ∧ t.own = s.own ∧ t.slotMap = s.slotMap ∧
      t.table.directory = s.table.directory ∧ t.forwarder = s.forwarder ∧ t.part = s.part ∧ t.settings = s.settings ∧
      t.pins = s.pins) ∧
  ∀ (s : State) (index : Nat) (c : Context), s.between = true → s.part = .running → s.forwarder.held = [] →
    Table.wf s.table.contexts = true → s.context? index = some c → c.intact = false →
    (∀ m d, m ≠ index → s.context? m = some d → d.intact = true) → s.damageRoom = true →
    ageingByTime s.settings.active = false → 1 ≤ ageingN s.settings.active →
    16 * ageingN s.settings.active ≤ s.table.ageing →
    ∃ t, exec .ageingCount s = .next t ∧ t.context? index = none ∧
      (∀ m, m ≠ index → t.context? m = (s.context? m).map fun d => { d with age := min 3 (d.age + 1) }) ∧
      t.table.ageing = 0 ∧ t.table.quarantined = s.table.quarantined ++ [index] ∧
      t.events.errors = s.events.errors ||| 512#10 ∧
      t.reports (s.releasedFields c index .integrity 0) s.time.counter none = true ∧ t.part = s.part

/-- A correction that is noted only completes: the last metrics take E, G, F and MER, with SP and the last verdict status as
they were, busy clears, and nothing else changes; the writes held for the station are then filled in the order held, each
against the correction the one before it left, and forwarded as filled (R46, R103, R143). One whose record fails its check is
released and writes nothing of completion; the writes held for it find UNKNOWN_STATION (R27). (Log 40: own writes that may be
sent go before the held writes, an inference; logs 10 and 29: the channel number of the STATION_RELEASED event is the model's
choice, its metric bits of a station without metrics an inference.) -/
def Obligations.NotedCorrectionCompletes : Prop :=
  ∀ (s : State) (f : Flight) (c : Context), s.between = true → s.flight = some f → f.full = false →
    s.context? f.index = some c → s.heldFor f.index c.key = true →
    let after : Context :=
      { c with
        busy := false
        metrics := some
          { timingError := f.report.measures.timingError
            frequencyError := f.report.measures.frequencyError
            powerError := f.report.measures.powerError
            mer := f.report.measures.mer
            spread := c.metrics.bind Metrics.spread
            status := c.metrics.bind Metrics.status } }
    let main := mainPosition s.settings.active c.key.channel
    let filled := fillsInTurn c.station main s.forwarder.held c.correction
    (c.intact = true → s.forwarder.held = [] →
      exec .notedCompletion s =
        .next { s with
          flight := none
          table := { s.table with contexts := Table.set s.table.contexts f.index after } }) ∧
    (c.intact = true →
      ∃ t, exec .notedCompletion s = .next t ∧ t.flight = none ∧ ForwardsHeld s t filled.1 ∧
        t.context? f.index = some { after with correction := filled.2 } ∧
        (∀ m, m ≠ f.index → t.context? m = s.context? m) ∧ t.slotMap = s.slotsFilled f.index c.correction ∧
        t.events.errors = s.events.errors ∧ t.table.directory = s.table.directory ∧
        t.table.quarantined = s.table.quarantined ∧ t.table.ageing = s.table.ageing ∧ t.time = s.time ∧
        t.part = s.part ∧ t.settings = s.settings ∧ t.intake = s.intake ∧ t.pins.straps = s.pins.straps ∧
        t.pins.attention = t.attentionLevel) ∧
    (c.intact = false → s.damageRoom = true →
      ∃ t, exec .notedCompletion s = .next t ∧ FailedCheck s t f.index c s.time.counter none ∧
        ForwardsHeld s t (s.heldFilled c.key (emptyFill none 3)) ∧ t.part = s.part ∧ t.settings = s.settings ∧
        t.intake = s.intake ∧ t.pins.straps = s.pins.straps ∧ t.pins.attention = t.attentionLevel)

/-- A fully corrected correction completes under its verdict: CONTINUE, SUCCESS and ABORT build the issued correction and
make the context READY, ABORT moves it to ENDING, SILENT applies its next state at once and re-arms SILENCE where that
changes the state; the count-attempt flag raises attempts, saturating at 255; the last metrics take the report's, SP and
the status; busy clears; the event flag hands VERDICT on; and a fallback sets its error; the writes held for the station are
then filled in the order held, each against the correction the one before it left, and forwarded as filled (R47, R87 to R93,
R103, R143). One whose record fails its check is released, with nothing of completion written (R27). (Log 10: events name
the channel number that the active settings claim, the model's choice; log 14: the first listed mask bit is the lowest, log
29: the metric bits of a released station without metrics, and log 40: own writes that may be sent go before the held writes,
inferences.) -/
def Obligations.FullCorrectionCompletes : Prop :=
  ∀ (s : State) (f : Flight) (c : Context), s.between = true → s.flight = some f → f.full = true →
    s.context? f.index = some c → s.heldFor f.index c.key = true → s.eventRoom 2 = true →
    s.tolerates .verdictRowOverrun = true → s.tolerates .verdictChainLong = true →
    let result := arithmetic f.snapshot f.report.channel f.report.measures f.report.taps c.committed
    let conditions := conditionBits f.snapshot f.report.channel (f.input c)
    let j := judge f.snapshot f.report.channel f.report.kind conditions
    let v := j.verdict
    let after := v.next.apply c.station
    let correction := if v.status = .silent then c.correction else .ready (buildIssued v conditions result c.committed)
    let station := if v.status = .silent then after else if v.status = .abort then .ending else c.station
    let main := mainPosition s.settings.active c.key.channel
    let filled := fillsInTurn station main s.forwarder.held correction
    (c.intact = true → ∃ t, exec .fullCompletion s = .next t ∧ t.flight = none ∧ ForwardsHeld s t filled.1 ∧
      t.context? f.index = some
        { c with
          correction := filled.2
          station := station
          attempts := if v.countAttempt then min 255 (c.attempts + 1) else c.attempts
          busy := false
          metrics := some
            { timingError := f.report.measures.timingError
              frequencyError := f.report.measures.frequencyError
              powerError := f.report.measures.powerError
              mer := f.report.measures.mer
              spread := result.stage2.spread
              status := some v.status } } ∧
      (∀ m, m ≠ f.index → t.context? m = s.context? m) ∧
      t.time.deadlines =
        (if v.status = .silent ∧ after ≠ c.station then
          if after = .contact then
            rearmed s.time.deadlines f.index (.silence .contact)
              (later s.time.counter (contactSilence f.snapshot c.key.channel))
          else
            rearmed s.time.deadlines f.index (.silence .dueWait)
              (later s.time.counter (dueInterval f.snapshot c.key.channel))
        else s.time.deadlines) ∧
      (v.event = true → t.reportsSince s (s.verdictFields f c conditions j) s.time.counter none = true) ∧
      t.events.errors =
        (match j.fallback with
        | .none => s.events.errors
        | .rowOverrun => s.events.errors ||| 32#10
        | .chainLong => s.events.errors ||| 64#10) ∧
      t.table.directory = s.table.directory ∧ t.table.quarantined = s.table.quarantined ∧
      t.slotMap = s.slotsFilled f.index correction ∧ t.part = s.part ∧ t.settings = s.settings ∧ t.intake = s.intake ∧
      t.time.counter = s.time.counter ∧ t.pins.straps = s.pins.straps ∧ t.pins.attention = t.attentionLevel) ∧
    (c.intact = false → s.tolerates .contextIntegrity = true →
      ∃ t, exec .fullCompletion s = .next t ∧ FailedCheck s t f.index c s.time.counter none ∧
        ForwardsHeld s t (s.heldFilled c.key (emptyFill none 3)) ∧ t.part = s.part ∧ t.settings = s.settings ∧
        t.intake = s.intake ∧ t.pins.straps = s.pins.straps ∧ t.pins.attention = t.attentionLevel)

/-- The SILENCE entry that fires next: a station in TRACKING becomes DUE, with LOST-WAIT armed at the expiry time plus
the lost interval and STATION_DUE handed on; any other is released with reason LOST, and the writes held for it find
UNKNOWN_STATION and are forwarded in order. Both events carry the stage and the expiry time. A context that fails its check
is released with reason INTEGRITY instead, at the expiry time (R27, R127, R131, R146). (Log 10: events name the channel number
that the active settings claim, and log 11: an INTEGRITY release by an expiry carries the expiry time, the model's choices;
log 29: the metric bits of a station without metrics, an inference.) -/
def Obligations.SilenceExpiryActs : Prop :=
  ∀ (s : State) (d : Deadline) (stage : Stage) (c : Context), s.between = true → s.part = .running →
    s.nextDue = some d → d.kind = .silence stage → s.context? d.index = some c → s.heldFor d.index c.key = true →
    s.eventRoom 1 = true →
    let lost := later d.expiry (lostInterval s.settings.active c.key.channel)
    (c.intact = true → ∃ t, exec .silenceExpiry s = .next t ∧
      (c.station = .tracking → t.forwarder = s.forwarder ∧
        t.context? d.index = some { c with station := .due } ∧ (∀ m, m ≠ d.index → t.context? m = s.context? m) ∧
        t.time = { s.time with deadlines := rearmed s.time.deadlines d.index (.silence .lostWait) lost } ∧
        t.flight = s.flight ∧ t.table.directory = s.table.directory ∧ t.slotMap = s.slotMap ∧
        t.reports
          (({ s.stationFields 5 c.key d.index with stage := stage.code, w7 := lost } : EventFields).withHistory c) d.expiry
          none = true) ∧
      (c.station ≠ .tracking →
        Released s t d.index ∧ SettlesHeld s t d.index (s.heldFilled c.key (emptyFill none 3)) ∧
        t.reportsSince s (s.releasedFields c d.index .lost stage.code) d.expiry none = true) ∧
      t.table.quarantined = s.table.quarantined ∧ t.events.errors = s.events.errors ∧ t.part = s.part ∧
      t.settings = s.settings ∧ t.intake = s.intake ∧ t.pins.straps = s.pins.straps ∧
      t.pins.attention = t.attentionLevel) ∧
    (c.intact = false → s.damageRoom = true →
      ∃ t, exec .silenceExpiry s = .next t ∧ FailedCheck s t d.index c d.expiry none ∧
        SettlesHeld s t d.index (s.heldFilled c.key (emptyFill none 3)) ∧ t.part = s.part ∧ t.settings = s.settings ∧
        t.intake = s.intake ∧ t.pins.straps = s.pins.straps ∧ t.pins.attention = t.attentionLevel)

/-- The CONFIRM entry that fires next withdraws the SENT correction: NONE, attempts up by one saturating at 255,
CORRECTION_UNCONFIRMED at the expiry time, and the committed values, the station state and the SILENCE deadline as they
stand. A context that fails its check is released with reason INTEGRITY instead, at the expiry time (R27, R114, R127, R132).
(Log 10: events name the channel number that the active settings claim, and log 11: an INTEGRITY release by an expiry carries
the expiry time, the model's choices; log 29: the metric bits of a station without metrics, an inference.) -/
def Obligations.ConfirmExpiryWithdraws : Prop :=
  (∀ (s : State) (d : Deadline) (c : Context) (issued : Issued) (delivered : Time), s.between = true →
    s.part = .running → s.nextDue = some d → d.kind = .confirm → s.context? d.index = some c → c.intact = true →
    c.correction = .sent issued delivered → s.eventRoom 1 = true →
    ∃ t, exec .confirmExpiry s = .next t ∧
      t.context? d.index = some { c with correction := .none, attempts := min 255 (c.attempts + 1) } ∧
      (∀ m, m ≠ d.index → t.context? m = s.context? m) ∧
      t.time = { s.time with deadlines := s.time.deadlines.filter fun x => !x.isFor d.index .confirm } ∧
      t.reports ((s.stationFields 9 c.key d.index).withIssued issued delivered) d.expiry none = true ∧
      t.flight = s.flight ∧ t.table.directory = s.table.directory ∧ t.table.quarantined = s.table.quarantined ∧
      t.slotMap = s.slotMap ∧ t.events.errors = s.events.errors ∧ t.forwarder = s.forwarder ∧ t.part = s.part ∧
      t.settings = s.settings ∧ t.intake = s.intake ∧ t.pins.straps = s.pins.straps ∧
      t.pins.attention = t.attentionLevel) ∧
  ∀ (s : State) (d : Deadline) (c : Context), s.between = true → s.part = .running → s.nextDue = some d →
    d.kind = .confirm → s.context? d.index = some c → c.intact = false → s.heldFor d.index c.key = true →
    s.damageRoom = true →
    ∃ t, exec .confirmExpiry s = .next t ∧ FailedCheck s t d.index c d.expiry none ∧
      SettlesHeld s t d.index (s.heldFilled c.key (emptyFill none 3)) ∧ t.part = s.part ∧ t.settings = s.settings ∧
      t.intake = s.intake ∧ t.pins.straps = s.pins.straps ∧ t.pins.attention = t.attentionLevel

/-! ### Arithmetic and verdicts -/

/-- R53: the measured timing adjustment is T div 256 rounded toward minus infinity and the new residue T mod 256, in 0..255
for either sign, so that A_meas x 256 + r' is T; a dead-zoned error leaves adjustment 0 and the residue as it was; and both
pass to stage 3, which uses them as they are unless it clamps. -/
def Obligations.TimingMeasureKeepsResidue : Prop :=
  ∀ (snapshot : Table Word) (channel : Nat) (m : Measures) (taps : Option (List Tap)) (v : Committed), v.residue ≤ 255 →
    let total := timingTotal (timingDeadZone snapshot channel) (symbolPeriod snapshot channel) m.timingError v.residue
    let measured := total / 256
    let residue := total % 256
    let r := arithmetic snapshot channel m taps v
    measured * 256 + residue = total ∧ 0 ≤ residue ∧ residue ≤ 255 ∧
    (deadZoned (timingDeadZone snapshot channel) m.timingError = 0 →
      total = v.residue ∧ measured = 0 ∧ residue = v.residue) ∧
    (r.timingClamped = false → r.timing = measured + r.stage2.shift ∧ (r.residue : Int) = residue)

/-- From committed values within their bounds, every adjustment keeps their sum with the committed value within the
bounds: a clamped timing adjustment ends at a bound with residue 0, unclamped power and frequency adjustments are the
opposite of an error outside its dead zone, and each adjustment lies in its range (R64, R65, R66). -/
def Obligations.AdjustmentsKeepBounds : Prop :=
  ∀ (snapshot : Table Word) (channel : Nat) (m : Measures) (taps : Option (List Tap)) (v : Committed),
    let ceiling : Int := timingCeiling snapshot channel
    let limit : Int := frequencyLimit snapshot channel
    let low := powerLow snapshot channel
    let high := powerHigh snapshot channel
    let r := arithmetic snapshot channel m taps v
    (-ceiling ≤ v.timing) → v.timing ≤ ceiling → low ≤ 0 → 0 ≤ high → low ≤ v.power → v.power ≤ high →
    (-limit ≤ v.frequency) → v.frequency ≤ limit →
    (-128 ≤ m.powerError) → m.powerError ≤ 127 → -32768 ≤ m.frequencyError → m.frequencyError ≤ 32767 →
    (-ceiling ≤ v.timing + r.timing ∧ v.timing + r.timing ≤ ceiling ∧ -2 * ceiling ≤ r.timing ∧ r.timing ≤ 2 * ceiling) ∧
    (r.timingClamped = true → r.residue = 0 ∧ (v.timing + r.timing = ceiling ∨ v.timing + r.timing = -ceiling)) ∧
    (low ≤ v.power + r.power ∧ v.power + r.power ≤ high ∧ -255 ≤ r.power ∧ r.power ≤ 255) ∧
    (r.powerClamped = false → r.power = -(deadZoned (powerDeadZone snapshot channel) m.powerError)) ∧
    (-limit ≤ v.frequency + r.frequency ∧ v.frequency + r.frequency ≤ limit ∧
      -32768 ≤ r.frequency ∧ r.frequency ≤ 32767) ∧
    (r.frequencyClamped = false →
      r.frequency = -(deadZoned (frequencyDeadZone snapshot channel) m.frequencyError)) ∧
    (m.frequencyError = -32768 → frequencyDeadZone snapshot channel ≤ 32767 → r.frequencyClamped = true)

/-- New coefficients are 16 taps with the main tap at unity and every component within −32,768..32,767, and the spread
metric is present and at most 65,535 with them; without them the main tap was null, the spread metric is absent and
condition 16 is clear (R58, R60, R61, R62, R63). -/
def Obligations.NewCoefficientsObeyTheLaw : Prop :=
  ∀ (committed burst : List Tap) (main period recentre : Nat), main < Config.tapCount →
    let stage := coefficientsOf committed burst main period recentre
    (∀ n, stage.coefficients = some n →
      n.length = Config.tapCount ∧ tapAt n main = ⟨8192, 0⟩ ∧
      (∀ k, -32768 ≤ (tapAt n k).re ∧ (tapAt n k).re ≤ 32767 ∧ -32768 ≤ (tapAt n k).im ∧ (tapAt n k).im ≤ 32767) ∧
      stage.nullMain = false ∧ ∃ sp, stage.spread = some sp ∧ sp ≤ 65535) ∧
    (stage.coefficients = none → stage.nullMain = true ∧ stage.spread = none ∧ stage.saturatedTap = false)

/-- The three laws of committed values hold after every confirmation of a correction built against them, whatever the mask of
its verdict (R4, R69, R71, R72). -/
def Obligations.ConfirmationKeepsCommittedLaws : Prop :=
  ∀ (snapshot : Table Word) (channel : Nat) (m : Measures) (taps : Option (List Tap)) (v : Committed) (verdict : Verdict)
    (conditions : BitVec 18),
    let main := mainPosition snapshot channel
    let laws := fun w : Committed =>
      (w.coefficients.length = Config.tapCount ∧ tapAt w.coefficients main = ⟨8192, 0⟩ ∧
        ∀ k, -32768 ≤ (tapAt w.coefficients k).re ∧ (tapAt w.coefficients k).re ≤ 32767 ∧
          -32768 ≤ (tapAt w.coefficients k).im ∧ (tapAt w.coefficients k).im ≤ 32767) ∧
      (-(timingCeiling snapshot channel : Int) ≤ w.timing ∧ w.timing ≤ timingCeiling snapshot channel ∧
        w.residue ≤ 255) ∧
      powerLow snapshot channel ≤ w.power ∧ w.power ≤ powerHigh snapshot channel ∧
      -(frequencyLimit snapshot channel : Int) ≤ w.frequency ∧ w.frequency ≤ frequencyLimit snapshot channel
    powerLow snapshot channel ≤ 0 → 0 ≤ powerHigh snapshot channel → laws v →
    laws (v.confirm (buildIssued verdict conditions (arithmetic snapshot channel m taps v) v))

/-- R79: a selector's key is the binary number of its listed conditions, in 0..2^n − 1 for n of them, with the first-listed
the most significant bit, the last-listed the least, a repeated one a bit of its own each time, and an empty selector giving
0; and an apply that finds a selector of more than 6 conditions, or one naming a condition above 17, is refused. -/
def Obligations.SelectorKeyIsBinaryNumber : Prop :=
  (∀ (conditions : BitVec 18),
    selectorKey conditions [] = 0 ∧
    (∀ n listed, selectorKey conditions (n :: listed) =
      flagField (conditions.getLsbD n) * 2 ^ listed.length + selectorKey conditions listed) ∧
    ∀ listed, selectorKey conditions listed < 2 ^ listed.length) ∧
  ∀ (s : State) (selector : Nat), selector < 8 →
    let staging := s.settings.staging
    (selectorList staging selector).length ≤ 6 ∧
    ((6 < setting staging (Config.selectorBlocks + 2 * selector) 7 0 ∨
        ∃ n ∈ selectorList staging selector, 17 < n) → s.validate ≠ .applied)

/-- A chain makes at most four lookups. It ends on a table entry, which names the verdict, or falls back to the channel's
default verdict: by row overrun after at most three lookups, or by chain length after four. Over a zeroed table a chain whose
first lookup is in the table ends there, SILENT (R81, R83, R84, R85, R86). -/
def Obligations.ChainEndsWithinFourLookups : Prop :=
  ∀ (snapshot : Table Word) (channel : Nat) (kind : BurstKind) (conditions : BitVec 18),
    let j := judge snapshot channel kind conditions
    let default := readFinal (defaultVerdictWord snapshot channel)
    j.lookups ≤ 4 ∧
    (j.fallback = .none → ∃ row entry, j.ended = some (row, entry) ∧ row ≤ 255 ∧ entry ≤ 7 ∧ 1 ≤ j.lookups ∧
      readEntry (Words.read snapshot (Config.verdictTable + 8 * row + entry)) = .final j.verdict) ∧
    (j.fallback = .rowOverrun → j.ended = none ∧ j.lookups ≤ 3 ∧ j.verdict = default) ∧
    (j.fallback = .chainLong → j.ended = none ∧ j.lookups = 4 ∧ j.verdict = default) ∧
    ((∀ n, n < 2048 → Words.read snapshot (Config.verdictTable + n) = 0) →
      startRow snapshot channel kind ≤ 248 →
      j.lookups = 1 ∧ j.fallback = .none ∧ j.verdict.status = .silent ∧ j.verdict.next = .unchanged ∧
        j.verdict.countAttempt = false ∧ j.verdict.event = false)

/-! ### Time -/

/-- The entry that fires next is due, has been due longest, and among entries of its expiry time was inserted first; there is
one exactly when some entry is due (R127). Arming leaves one entry of the context and kind, behind every other, and an
interval of at most 2^30 ticks is its remaining time and does not read as due before it ends (R122, R124, R125). -/
def Obligations.DeadlinesFireLongestDueFirst : Prop :=
  (∀ (s : State) (d : Deadline), s.nextDue = some d →
    s.isDue d = true ∧
    (∀ x ∈ s.time.deadlines, s.isDue x = true → s.overdue x ≤ s.overdue d) ∧
    ∃ before after, s.time.deadlines = before ++ d :: after ∧ ∀ x ∈ before, x.expiry ≠ d.expiry) ∧
  (∀ s : State, s.nextDue = none → ∀ x ∈ s.time.deadlines, s.isDue x = false) ∧
  ∀ (s : State) (index : Nat) (kind : DeadlineKind) (ticks : Nat),
    let t := s.arm index kind (later s.time.counter ticks)
    t.time.deadlines = rearmed s.time.deadlines index kind (later s.time.counter ticks) ∧
    t.deadlinesFor index kind = 1 ∧
    (∀ m other, (m ≠ index ∨ other.sameAs kind = false) → t.deadlinesFor m other = s.deadlinesFor m other) ∧
    (1 ≤ ticks → ticks ≤ Config.maxInterval →
      remaining (later s.time.counter ticks) s.time.counter = ticks ∧
      s.isDue { index := index, kind := kind, expiry := later s.time.counter ticks } = false)
end

