-- ==== Sys2Proof/Laws/State.lean ====
section
/-!
SUPPORT. The plain updates of State, field by field: what each leaves as it was, and what it sets. All are true by reading the
update, so that no later proof unfolds one.
-/

namespace Sys2Proof.Machine

/-! ### Requests leaving where they stood, and forwarding -/

@[simp] theorem State.leaving_frame (s : State) (o : Origin) :
    (s.leaving o).pending = s.pending ∧ (s.leaving o).pins = s.pins ∧ (s.leaving o).part = s.part ∧
    (s.leaving o).own = s.own ∧ (s.leaving o).settings = s.settings ∧ (s.leaving o).intake = s.intake ∧
    (s.leaving o).flight = s.flight ∧ (s.leaving o).table = s.table ∧ (s.leaving o).slotMap = s.slotMap ∧
    (s.leaving o).time = s.time ∧ (s.leaving o).events = s.events ∧ (s.leaving o).now = s.now ∧
    (s.leaving o).forwarder.held = s.forwarder.held ∧ (s.leaving o).forwarder.inFlight = s.forwarder.inFlight ∧
    (s.leaving o).forwarder.nextSerial = s.forwarder.nextSerial ∧
    (s.leaving o).forwarder.toMemory = s.forwarder.toMemory ∧
    (s.leaving o).forwarder.toInitiator = s.forwarder.toInitiator := by
  and_intros <;> cases o <;> rfl

@[simp] theorem State.forwardAs_frame (s : State) (serial : Nat) (r : Request) :
    (s.forwardAs serial r).pending = s.pending ∧ (s.forwardAs serial r).pins = s.pins ∧
    (s.forwardAs serial r).part = s.part ∧ (s.forwardAs serial r).own = s.own ∧
    (s.forwardAs serial r).settings = s.settings ∧ (s.forwardAs serial r).intake = s.intake ∧
    (s.forwardAs serial r).flight = s.flight ∧ (s.forwardAs serial r).table = s.table ∧
    (s.forwardAs serial r).slotMap = s.slotMap ∧ (s.forwardAs serial r).time = s.time ∧
    (s.forwardAs serial r).events = s.events ∧ (s.forwardAs serial r).now = s.now ∧
    (s.forwardAs serial r).forwarder.held = s.forwarder.held ∧
    (s.forwardAs serial r).forwarder.waiting = s.forwarder.waiting ∧
    (s.forwardAs serial r).forwarder.stalled = s.forwarder.stalled ∧
    (s.forwardAs serial r).forwarder.nextSerial = s.forwarder.nextSerial ∧
    (s.forwardAs serial r).forwarder.toInitiator = s.forwarder.toInitiator :=
  ⟨rfl, rfl, rfl, rfl, rfl, rfl, rfl, rfl, rfl, rfl, rfl, rfl, rfl, rfl, rfl, rfl, rfl⟩

@[simp] theorem State.forwardAs_forwarder_toMemory (s : State) (serial : Nat) (r : Request) :
    (s.forwardAs serial r).forwarder.toMemory = s.forwarder.toMemory ++ [r] := rfl

@[simp] theorem State.forwardAs_forwarder_inFlight (s : State) (serial : Nat) (r : Request) :
    (s.forwardAs serial r).forwarder.inFlight =
      s.forwarder.inFlight ++ [{ serial := serial, source := r.source, tag := r.tag }] := rfl

@[simp] theorem State.withCause_frame (s : State) (cause : Option Nat) :
    (s.withCause cause).pending = s.pending ∧ (s.withCause cause).pins = s.pins ∧ (s.withCause cause).part = s.part ∧
    (s.withCause cause).forwarder = s.forwarder ∧ (s.withCause cause).own = s.own ∧
    (s.withCause cause).settings = s.settings ∧ (s.withCause cause).intake = s.intake ∧
    (s.withCause cause).flight = s.flight ∧ (s.withCause cause).table = s.table ∧
    (s.withCause cause).slotMap = s.slotMap ∧ (s.withCause cause).time = s.time ∧
    (s.withCause cause).events = s.events ∧ (s.withCause cause).now.stopDue = s.now.stopDue :=
  ⟨rfl, rfl, rfl, rfl, rfl, rfl, rfl, rfl, rfl, rfl, rfl, rfl, rfl⟩

@[simp] theorem State.withCause_now_cause (s : State) (cause : Option Nat) : (s.withCause cause).now.cause = cause := rfl

/-! ### The context table -/

@[simp] theorem State.writeContext_frame (s : State) (index : Nat) (c : Context) :
    (s.writeContext index c).pending = s.pending ∧ (s.writeContext index c).pins = s.pins ∧
    (s.writeContext index c).part = s.part ∧ (s.writeContext index c).forwarder = s.forwarder ∧
    (s.writeContext index c).own = s.own ∧ (s.writeContext index c).settings = s.settings ∧
    (s.writeContext index c).intake = s.intake ∧ (s.writeContext index c).flight = s.flight ∧
    (s.writeContext index c).slotMap = s.slotMap ∧ (s.writeContext index c).time = s.time ∧
    (s.writeContext index c).events = s.events ∧ (s.writeContext index c).now = s.now ∧
    (s.writeContext index c).table.directory = s.table.directory ∧
    (s.writeContext index c).table.quarantined = s.table.quarantined ∧
    (s.writeContext index c).table.ageing = s.table.ageing :=
  ⟨rfl, rfl, rfl, rfl, rfl, rfl, rfl, rfl, rfl, rfl, rfl, rfl, rfl, rfl, rfl⟩

@[simp] theorem State.clearSlotsOf_frame (s : State) (index : Nat) :
    (s.clearSlotsOf index).pending = s.pending ∧ (s.clearSlotsOf index).pins = s.pins ∧
    (s.clearSlotsOf index).part = s.part ∧ (s.clearSlotsOf index).forwarder = s.forwarder ∧
    (s.clearSlotsOf index).own = s.own ∧ (s.clearSlotsOf index).settings = s.settings ∧
    (s.clearSlotsOf index).intake = s.intake ∧ (s.clearSlotsOf index).flight = s.flight ∧
    (s.clearSlotsOf index).table = s.table ∧ (s.clearSlotsOf index).time = s.time ∧
    (s.clearSlotsOf index).events = s.events ∧ (s.clearSlotsOf index).now = s.now :=
  ⟨rfl, rfl, rfl, rfl, rfl, rfl, rfl, rfl, rfl, rfl, rfl, rfl⟩

/-! ### The deadline list -/

@[simp] theorem State.removeDeadline_frame (s : State) (index : Nat) (kind : DeadlineKind) :
    (s.removeDeadline index kind).pending = s.pending ∧ (s.removeDeadline index kind).pins = s.pins ∧
    (s.removeDeadline index kind).part = s.part ∧ (s.removeDeadline index kind).forwarder = s.forwarder ∧
    (s.removeDeadline index kind).own = s.own ∧ (s.removeDeadline index kind).settings = s.settings ∧
    (s.removeDeadline index kind).intake = s.intake ∧ (s.removeDeadline index kind).flight = s.flight ∧
    (s.removeDeadline index kind).table = s.table ∧ (s.removeDeadline index kind).slotMap = s.slotMap ∧
    (s.removeDeadline index kind).events = s.events ∧ (s.removeDeadline index kind).now = s.now ∧
    (s.removeDeadline index kind).time.counter = s.time.counter ∧
    (s.removeDeadline index kind).time.syncEdge = s.time.syncEdge ∧
    (s.removeDeadline index kind).time.ageingTimer = s.time.ageingTimer :=
  ⟨rfl, rfl, rfl, rfl, rfl, rfl, rfl, rfl, rfl, rfl, rfl, rfl, rfl, rfl, rfl⟩

@[simp] theorem State.removeDeadlines_frame (s : State) (index : Nat) :
    (s.removeDeadlines index).pending = s.pending ∧ (s.removeDeadlines index).pins = s.pins ∧
    (s.removeDeadlines index).part = s.part ∧ (s.removeDeadlines index).forwarder = s.forwarder ∧
    (s.removeDeadlines index).own = s.own ∧ (s.removeDeadlines index).settings = s.settings ∧
    (s.removeDeadlines index).intake = s.intake ∧ (s.removeDeadlines index).flight = s.flight ∧
    (s.removeDeadlines index).table = s.table ∧ (s.removeDeadlines index).slotMap = s.slotMap ∧
    (s.removeDeadlines index).events = s.events ∧ (s.removeDeadlines index).now = s.now ∧
    (s.removeDeadlines index).time.counter = s.time.counter ∧
    (s.removeDeadlines index).time.syncEdge = s.time.syncEdge ∧
    (s.removeDeadlines index).time.ageingTimer = s.time.ageingTimer :=
  ⟨rfl, rfl, rfl, rfl, rfl, rfl, rfl, rfl, rfl, rfl, rfl, rfl, rfl, rfl, rfl⟩

@[simp] theorem State.arm_frame (s : State) (index : Nat) (kind : DeadlineKind) (expiry : Time) :
    (s.arm index kind expiry).pending = s.pending ∧ (s.arm index kind expiry).pins = s.pins ∧
    (s.arm index kind expiry).part = s.part ∧ (s.arm index kind expiry).forwarder = s.forwarder ∧
    (s.arm index kind expiry).own = s.own ∧ (s.arm index kind expiry).settings = s.settings ∧
    (s.arm index kind expiry).intake = s.intake ∧ (s.arm index kind expiry).flight = s.flight ∧
    (s.arm index kind expiry).table = s.table ∧ (s.arm index kind expiry).slotMap = s.slotMap ∧
    (s.arm index kind expiry).events = s.events ∧ (s.arm index kind expiry).now = s.now ∧
    (s.arm index kind expiry).time.counter = s.time.counter ∧
    (s.arm index kind expiry).time.syncEdge = s.time.syncEdge ∧
    (s.arm index kind expiry).time.ageingTimer = s.time.ageingTimer :=
  ⟨rfl, rfl, rfl, rfl, rfl, rfl, rfl, rfl, rfl, rfl, rfl, rfl, rfl, rfl, rfl⟩

/-! ### Own writes and events -/

@[simp] theorem State.issueStatusFor_frame (s : State) (cause : Option Nat) (word : Nat) :
    (s.issueStatusFor cause word).pending = s.pending ∧ (s.issueStatusFor cause word).pins = s.pins ∧
    (s.issueStatusFor cause word).part = s.part ∧ (s.issueStatusFor cause word).forwarder = s.forwarder ∧
    (s.issueStatusFor cause word).settings = s.settings ∧ (s.issueStatusFor cause word).intake = s.intake ∧
    (s.issueStatusFor cause word).flight = s.flight ∧ (s.issueStatusFor cause word).table = s.table ∧
    (s.issueStatusFor cause word).slotMap = s.slotMap ∧ (s.issueStatusFor cause word).time = s.time ∧
    (s.issueStatusFor cause word).events = s.events ∧ (s.issueStatusFor cause word).now = s.now ∧
    (s.issueStatusFor cause word).own.outstanding = s.own.outstanding ∧
    (s.issueStatusFor cause word).own.nextTag = s.own.nextTag :=
  ⟨rfl, rfl, rfl, rfl, rfl, rfl, rfl, rfl, rfl, rfl, rfl, rfl, rfl, rfl⟩

@[simp] theorem State.issueStatus_frame (s : State) (word : Nat) :
    (s.issueStatus word).pending = s.pending ∧ (s.issueStatus word).pins = s.pins ∧
    (s.issueStatus word).part = s.part ∧ (s.issueStatus word).forwarder = s.forwarder ∧
    (s.issueStatus word).settings = s.settings ∧ (s.issueStatus word).intake = s.intake ∧
    (s.issueStatus word).flight = s.flight ∧ (s.issueStatus word).table = s.table ∧
    (s.issueStatus word).slotMap = s.slotMap ∧ (s.issueStatus word).time = s.time ∧
    (s.issueStatus word).events = s.events ∧ (s.issueStatus word).now = s.now ∧
    (s.issueStatus word).own.outstanding = s.own.outstanding ∧ (s.issueStatus word).own.nextTag = s.own.nextTag :=
  ⟨rfl, rfl, rfl, rfl, rfl, rfl, rfl, rfl, rfl, rfl, rfl, rfl, rfl, rfl⟩

@[simp] theorem State.issueCounts_frame (s : State) (channel : Nat) (free : Bool) :
    (s.issueCounts channel free).pending = s.pending ∧ (s.issueCounts channel free).pins = s.pins ∧
    (s.issueCounts channel free).part = s.part ∧ (s.issueCounts channel free).forwarder = s.forwarder ∧
    (s.issueCounts channel free).settings = s.settings ∧ (s.issueCounts channel free).intake = s.intake ∧
    (s.issueCounts channel free).flight = s.flight ∧ (s.issueCounts channel free).table = s.table ∧
    (s.issueCounts channel free).slotMap = s.slotMap ∧ (s.issueCounts channel free).time = s.time ∧
    (s.issueCounts channel free).events = s.events ∧ (s.issueCounts channel free).now = s.now ∧
    (s.issueCounts channel free).own.outstanding = s.own.outstanding ∧
    (s.issueCounts channel free).own.nextTag = s.own.nextTag := by
  and_intros <;> cases free <;> rfl

@[simp] theorem State.writeRecord_frame (s : State) (e : EventRecord) :
    (s.writeRecord e).pending = s.pending ∧ (s.writeRecord e).pins = s.pins ∧ (s.writeRecord e).part = s.part ∧
    (s.writeRecord e).forwarder = s.forwarder ∧ (s.writeRecord e).settings = s.settings ∧
    (s.writeRecord e).intake = s.intake ∧ (s.writeRecord e).flight = s.flight ∧ (s.writeRecord e).table = s.table ∧
    (s.writeRecord e).slotMap = s.slotMap ∧ (s.writeRecord e).time = s.time ∧ (s.writeRecord e).now = s.now ∧
    (s.writeRecord e).own.outstanding = s.own.outstanding ∧ (s.writeRecord e).own.nextTag = s.own.nextTag ∧
    (s.writeRecord e).events.consumer = s.events.consumer ∧
    (s.writeRecord e).events.applyResult = s.events.applyResult ∧
    (s.writeRecord e).events.commandResult = s.events.commandResult ∧
    (s.writeRecord e).events.holding = s.events.holding ∧ (s.writeRecord e).events.errors = s.events.errors ∧
    (s.writeRecord e).events.firstPointer = s.events.firstPointer :=
  ⟨rfl, rfl, rfl, rfl, rfl, rfl, rfl, rfl, rfl, rfl, rfl, rfl, rfl, rfl, rfl, rfl, rfl, rfl, rfl⟩

@[simp] theorem State.commandAnswer_frame (s : State) (q : BitVec 16) (code : Nat) (flags : Nat) (r : CommandResult) :
    (s.commandAnswer q code flags r).pending = s.pending ∧ (s.commandAnswer q code flags r).pins = s.pins ∧
    (s.commandAnswer q code flags r).part = s.part ∧ (s.commandAnswer q code flags r).forwarder = s.forwarder ∧
    (s.commandAnswer q code flags r).settings = s.settings ∧ (s.commandAnswer q code flags r).intake = s.intake ∧
    (s.commandAnswer q code flags r).flight = s.flight ∧ (s.commandAnswer q code flags r).table = s.table ∧
    (s.commandAnswer q code flags r).slotMap = s.slotMap ∧ (s.commandAnswer q code flags r).time = s.time ∧
    (s.commandAnswer q code flags r).now = s.now ∧
    (s.commandAnswer q code flags r).own.outstanding = s.own.outstanding ∧
    (s.commandAnswer q code flags r).own.nextTag = s.own.nextTag ∧
    (s.commandAnswer q code flags r).events.producer = s.events.producer ∧
    (s.commandAnswer q code flags r).events.consumer = s.events.consumer ∧
    (s.commandAnswer q code flags r).events.mark = s.events.mark ∧
    (s.commandAnswer q code flags r).events.sequence = s.events.sequence ∧
    (s.commandAnswer q code flags r).events.lost = s.events.lost ∧
    (s.commandAnswer q code flags r).events.holding = s.events.holding ∧
    (s.commandAnswer q code flags r).events.errors = s.events.errors ∧
    (s.commandAnswer q code flags r).events.firstPointer = s.events.firstPointer ∧
    (s.commandAnswer q code flags r).events.applyResult = s.events.applyResult :=
  ⟨rfl, rfl, rfl, rfl, rfl, rfl, rfl, rfl, rfl, rfl, rfl, rfl, rfl, rfl, rfl, rfl, rfl, rfl, rfl, rfl, rfl, rfl⟩

@[simp] theorem State.applyAnswer_frame (s : State) (q : BitVec 16) (r : ApplyResult) :
    (s.applyAnswer q r).pending = s.pending ∧ (s.applyAnswer q r).pins = s.pins ∧ (s.applyAnswer q r).part = s.part ∧
    (s.applyAnswer q r).forwarder = s.forwarder ∧ (s.applyAnswer q r).settings = s.settings ∧
    (s.applyAnswer q r).intake = s.intake ∧ (s.applyAnswer q r).flight = s.flight ∧
    (s.applyAnswer q r).table = s.table ∧ (s.applyAnswer q r).slotMap = s.slotMap ∧
    (s.applyAnswer q r).time = s.time ∧ (s.applyAnswer q r).now = s.now ∧
    (s.applyAnswer q r).own.outstanding = s.own.outstanding ∧ (s.applyAnswer q r).own.nextTag = s.own.nextTag ∧
    (s.applyAnswer q r).events.producer = s.events.producer ∧
    (s.applyAnswer q r).events.consumer = s.events.consumer ∧ (s.applyAnswer q r).events.mark = s.events.mark ∧
    (s.applyAnswer q r).events.sequence = s.events.sequence ∧ (s.applyAnswer q r).events.lost = s.events.lost ∧
    (s.applyAnswer q r).events.holding = s.events.holding ∧ (s.applyAnswer q r).events.errors = s.events.errors ∧
    (s.applyAnswer q r).events.firstPointer = s.events.firstPointer ∧
    (s.applyAnswer q r).events.commandResult = s.events.commandResult :=
  ⟨rfl, rfl, rfl, rfl, rfl, rfl, rfl, rfl, rfl, rfl, rfl, rfl, rfl, rfl, rfl, rfl, rfl, rfl, rfl, rfl, rfl, rfl⟩

@[simp] theorem State.commandAnswer_events_commandResult (s : State) (q : BitVec 16) (code flags : Nat) (r : CommandResult) :
    (s.commandAnswer q code flags r).events.commandResult = commandResultValue q code flags r := rfl

@[simp] theorem State.applyAnswer_events_applyResult (s : State) (q : BitVec 16) (r : ApplyResult) :
    (s.applyAnswer q r).events.applyResult = applyResultValue q r := rfl

/-! ### The intake queue and the settings -/

@[simp] theorem State.joinIntake_frame (s : State) (e : Report) :
    (s.joinIntake e).pending = s.pending ∧ (s.joinIntake e).pins = s.pins ∧ (s.joinIntake e).part = s.part ∧
    (s.joinIntake e).forwarder = s.forwarder ∧ (s.joinIntake e).own = s.own ∧ (s.joinIntake e).settings = s.settings ∧
    (s.joinIntake e).flight = s.flight ∧ (s.joinIntake e).table = s.table ∧ (s.joinIntake e).slotMap = s.slotMap ∧
    (s.joinIntake e).time = s.time ∧ (s.joinIntake e).events = s.events ∧ (s.joinIntake e).now = s.now :=
  ⟨rfl, rfl, rfl, rfl, rfl, rfl, rfl, rfl, rfl, rfl, rfl, rfl⟩

@[simp] theorem State.discardReports_frame (s : State) (channel : Nat) :
    (s.discardReports channel).pending = s.pending ∧ (s.discardReports channel).pins = s.pins ∧
    (s.discardReports channel).part = s.part ∧ (s.discardReports channel).forwarder = s.forwarder ∧
    (s.discardReports channel).own = s.own ∧ (s.discardReports channel).settings = s.settings ∧
    (s.discardReports channel).flight = s.flight ∧ (s.discardReports channel).table = s.table ∧
    (s.discardReports channel).slotMap = s.slotMap ∧ (s.discardReports channel).time = s.time ∧
    (s.discardReports channel).events = s.events ∧ (s.discardReports channel).now = s.now :=
  ⟨rfl, rfl, rfl, rfl, rfl, rfl, rfl, rfl, rfl, rfl, rfl, rfl⟩

@[simp] theorem State.markFull_frame (s : State) :
    (s.markFull).pending = s.pending ∧ (s.markFull).pins = s.pins ∧ (s.markFull).part = s.part ∧
    (s.markFull).forwarder = s.forwarder ∧ (s.markFull).own = s.own ∧ (s.markFull).settings = s.settings ∧
    (s.markFull).intake = s.intake ∧ (s.markFull).table = s.table ∧ (s.markFull).slotMap = s.slotMap ∧
    (s.markFull).time = s.time ∧ (s.markFull).events = s.events ∧ (s.markFull).now = s.now :=
  ⟨rfl, rfl, rfl, rfl, rfl, rfl, rfl, rfl, rfl, rfl, rfl, rfl⟩

@[simp] theorem State.openChannel_frame (s : State) (channel : Nat) :
    (s.openChannel channel).pending = s.pending ∧ (s.openChannel channel).pins = s.pins ∧
    (s.openChannel channel).part = s.part ∧ (s.openChannel channel).forwarder = s.forwarder ∧
    (s.openChannel channel).own = s.own ∧ (s.openChannel channel).settings = s.settings ∧
    (s.openChannel channel).flight = s.flight ∧ (s.openChannel channel).table = s.table ∧
    (s.openChannel channel).slotMap = s.slotMap ∧ (s.openChannel channel).time = s.time ∧
    (s.openChannel channel).events = s.events ∧ (s.openChannel channel).now = s.now ∧
    (s.openChannel channel).intake.queue = s.intake.queue :=
  ⟨rfl, rfl, rfl, rfl, rfl, rfl, rfl, rfl, rfl, rfl, rfl, rfl, rfl⟩

@[simp] theorem State.rejudgeHeld_frame (s : State) :
    (s.rejudgeHeld).pending = s.pending ∧ (s.rejudgeHeld).pins = s.pins ∧ (s.rejudgeHeld).part = s.part ∧
    (s.rejudgeHeld).own = s.own ∧ (s.rejudgeHeld).settings = s.settings ∧ (s.rejudgeHeld).intake = s.intake ∧
    (s.rejudgeHeld).flight = s.flight ∧ (s.rejudgeHeld).table = s.table ∧ (s.rejudgeHeld).slotMap = s.slotMap ∧
    (s.rejudgeHeld).time = s.time ∧ (s.rejudgeHeld).events = s.events ∧ (s.rejudgeHeld).now = s.now ∧
    (s.rejudgeHeld).forwarder.waiting = s.forwarder.waiting ∧
    (s.rejudgeHeld).forwarder.stalled = s.forwarder.stalled ∧
    (s.rejudgeHeld).forwarder.inFlight = s.forwarder.inFlight ∧
    (s.rejudgeHeld).forwarder.nextSerial = s.forwarder.nextSerial ∧
    (s.rejudgeHeld).forwarder.toMemory = s.forwarder.toMemory ∧
    (s.rejudgeHeld).forwarder.toInitiator = s.forwarder.toInitiator :=
  ⟨rfl, rfl, rfl, rfl, rfl, rfl, rfl, rfl, rfl, rfl, rfl, rfl, rfl, rfl, rfl, rfl, rfl, rfl⟩

@[simp] theorem State.restartRing_frame (s : State) :
    (s.restartRing).pending = s.pending ∧ (s.restartRing).pins = s.pins ∧ (s.restartRing).part = s.part ∧
    (s.restartRing).forwarder = s.forwarder ∧ (s.restartRing).settings = s.settings ∧
    (s.restartRing).intake = s.intake ∧ (s.restartRing).flight = s.flight ∧ (s.restartRing).table = s.table ∧
    (s.restartRing).slotMap = s.slotMap ∧ (s.restartRing).time = s.time ∧ (s.restartRing).now = s.now ∧
    (s.restartRing).own.outstanding = s.own.outstanding ∧ (s.restartRing).own.nextTag = s.own.nextTag ∧
    (s.restartRing).events.sequence = s.events.sequence ∧ (s.restartRing).events.lost = s.events.lost ∧
    (s.restartRing).events.holding = s.events.holding ∧ (s.restartRing).events.errors = s.events.errors ∧
    (s.restartRing).events.firstPointer = s.events.firstPointer ∧
    (s.restartRing).events.applyResult = s.events.applyResult ∧
    (s.restartRing).events.commandResult = s.events.commandResult :=
  ⟨rfl, rfl, rfl, rfl, rfl, rfl, rfl, rfl, rfl, rfl, rfl, rfl, rfl, rfl, rfl, rfl, rfl, rfl, rfl, rfl⟩

@[simp] theorem State.copySettings_frame (s : State) (r : Request) :
    (s.copySettings r).pending = s.pending ∧ (s.copySettings r).pins = s.pins ∧ (s.copySettings r).part = s.part ∧
    (s.copySettings r).forwarder = s.forwarder ∧ (s.copySettings r).own = s.own ∧
    (s.copySettings r).intake = s.intake ∧ (s.copySettings r).flight = s.flight ∧ (s.copySettings r).table = s.table ∧
    (s.copySettings r).slotMap = s.slotMap ∧ (s.copySettings r).time = s.time ∧ (s.copySettings r).events = s.events ∧
    (s.copySettings r).now = s.now ∧ (s.copySettings r).settings.active = s.settings.active ∧
    (s.copySettings r).settings.draining = s.settings.draining :=
  ⟨rfl, rfl, rfl, rfl, rfl, rfl, rfl, rfl, rfl, rfl, rfl, rfl, rfl, rfl⟩

@[simp] theorem State.clearForSetup_frame (s : State) :
    (s.clearForSetup).pending = s.pending ∧ (s.clearForSetup).pins = s.pins ∧
    (s.clearForSetup).forwarder = s.forwarder ∧ (s.clearForSetup).now = s.now ∧
    (s.clearForSetup).settings.staging = s.settings.staging ∧ (s.clearForSetup).time.counter = s.time.counter ∧
    (s.clearForSetup).time.syncEdge = s.time.syncEdge ∧ (s.clearForSetup).own.nextTag = s.own.nextTag ∧
    (s.clearForSetup).events.commandResult = s.events.commandResult :=
  ⟨rfl, rfl, rfl, rfl, rfl, rfl, rfl, rfl, rfl⟩

/-! ### The port, ticks and reset -/

@[simp] theorem State.hold_frame (s : State) (r : Request) (key : Key) (slot : Nat) :
    (s.hold r key slot).pending = s.pending ∧ (s.hold r key slot).pins = s.pins ∧ (s.hold r key slot).part = s.part ∧
    (s.hold r key slot).own = s.own ∧ (s.hold r key slot).settings = s.settings ∧
    (s.hold r key slot).intake = s.intake ∧ (s.hold r key slot).flight = s.flight ∧
    (s.hold r key slot).table = s.table ∧ (s.hold r key slot).slotMap = s.slotMap ∧
    (s.hold r key slot).time = s.time ∧ (s.hold r key slot).events = s.events ∧ (s.hold r key slot).now = s.now ∧
    (s.hold r key slot).forwarder.waiting = s.forwarder.waiting ∧
    (s.hold r key slot).forwarder.stalled = s.forwarder.stalled ∧
    (s.hold r key slot).forwarder.inFlight = s.forwarder.inFlight ∧
    (s.hold r key slot).forwarder.nextSerial = s.forwarder.nextSerial ∧
    (s.hold r key slot).forwarder.toMemory = s.forwarder.toMemory ∧
    (s.hold r key slot).forwarder.toInitiator = s.forwarder.toInitiator :=
  ⟨rfl, rfl, rfl, rfl, rfl, rfl, rfl, rfl, rfl, rfl, rfl, rfl, rfl, rfl, rfl, rfl, rfl, rfl⟩

@[simp] theorem State.stallPort_frame (s : State) (o : Origin) :
    (s.stallPort o).pending = s.pending ∧ (s.stallPort o).pins = s.pins ∧ (s.stallPort o).part = s.part ∧
    (s.stallPort o).own = s.own ∧ (s.stallPort o).settings = s.settings ∧ (s.stallPort o).intake = s.intake ∧
    (s.stallPort o).flight = s.flight ∧ (s.stallPort o).table = s.table ∧ (s.stallPort o).slotMap = s.slotMap ∧
    (s.stallPort o).time = s.time ∧ (s.stallPort o).events = s.events ∧ (s.stallPort o).now = s.now ∧
    (s.stallPort o).forwarder.held = s.forwarder.held ∧ (s.stallPort o).forwarder.waiting = s.forwarder.waiting ∧
    (s.stallPort o).forwarder.inFlight = s.forwarder.inFlight ∧
    (s.stallPort o).forwarder.nextSerial = s.forwarder.nextSerial ∧
    (s.stallPort o).forwarder.toMemory = s.forwarder.toMemory ∧
    (s.stallPort o).forwarder.toInitiator = s.forwarder.toInitiator := by
  and_intros <;> cases o <;> rfl

@[simp] theorem State.tick_frame (s : State) :
    (s.tick).pending = s.pending ∧ (s.tick).pins = s.pins ∧ (s.tick).part = s.part ∧
    (s.tick).forwarder = s.forwarder ∧ (s.tick).own = s.own ∧ (s.tick).settings = s.settings ∧
    (s.tick).intake = s.intake ∧ (s.tick).flight = s.flight ∧ (s.tick).table = s.table ∧
    (s.tick).slotMap = s.slotMap ∧ (s.tick).events = s.events ∧ (s.tick).now = s.now ∧
    (s.tick).time.deadlines = s.time.deadlines :=
  ⟨rfl, rfl, rfl, rfl, rfl, rfl, rfl, rfl, rfl, rfl, rfl, rfl, rfl⟩

@[simp] theorem State.holdInReset_frame (s : State) :
    (s.holdInReset).pending = s.pending ∧ (s.holdInReset).part = s.part ∧ (s.holdInReset).settings = s.settings ∧
    (s.holdInReset).intake = s.intake ∧ (s.holdInReset).flight = s.flight ∧ (s.holdInReset).table = s.table ∧
    (s.holdInReset).slotMap = s.slotMap ∧ (s.holdInReset).time = s.time ∧ (s.holdInReset).events = s.events ∧
    (s.holdInReset).now = s.now ∧ (s.holdInReset).pins.straps = s.pins.straps ∧
    (s.holdInReset).pins.attention = s.pins.attention ∧ (s.holdInReset).own.nextTag = s.own.nextTag ∧
    (s.holdInReset).forwarder.nextSerial = s.forwarder.nextSerial ∧
    (s.holdInReset).forwarder.toMemory = s.forwarder.toMemory ∧
    (s.holdInReset).forwarder.toInitiator = s.forwarder.toInitiator :=
  ⟨rfl, rfl, rfl, rfl, rfl, rfl, rfl, rfl, rfl, rfl, rfl, rfl, rfl, rfl, rfl, rfl⟩

end Sys2Proof.Machine
end

