-- ==== Sys2Proof/Laws/Frames.lean ====
section
/-!
SUPPORT. What the shared operations leave as it was: each touches its own blocks and no other.
-/

namespace Sys2Proof.Machine

/-- What a step of a fold leaves, the fold leaves. -/
theorem foldl_leaves {α β : Type} (f : State → β → State) (g : State → α) (h : ∀ s b, g (f s b) = g s) :
    ∀ (l : List β) (s : State), g (l.foldl f s) = g s
  | [], _ => rfl
  | b :: l, s => (foldl_leaves f g h l (f s b)).trans (h s b)

/-- What the next part of a taking leaves, the taking leaves. -/
theorem State.goOn_leaves {α : Type} (g : State → α) (s : State) (f : State → State) (h : g (f s) = g s) :
    g (s.goOn f) = g s := by
  unfold State.goOn
  split <;> first | rfl | exact h

/-! ### Events and errors -/

@[simp] theorem State.offerEvent_frame (s : State) (e : EventRecord) :
    ((s.offerEvent e).1).pending = s.pending ∧ ((s.offerEvent e).1).pins = s.pins ∧
    ((s.offerEvent e).1).part = s.part ∧ ((s.offerEvent e).1).forwarder = s.forwarder ∧
    ((s.offerEvent e).1).settings = s.settings ∧ ((s.offerEvent e).1).intake = s.intake ∧
    ((s.offerEvent e).1).flight = s.flight ∧ ((s.offerEvent e).1).table = s.table ∧
    ((s.offerEvent e).1).slotMap = s.slotMap ∧ ((s.offerEvent e).1).time = s.time ∧ ((s.offerEvent e).1).now = s.now ∧
    ((s.offerEvent e).1).own.outstanding = s.own.outstanding ∧ ((s.offerEvent e).1).own.nextTag = s.own.nextTag ∧
    ((s.offerEvent e).1).events.consumer = s.events.consumer ∧ ((s.offerEvent e).1).events.errors = s.events.errors ∧
    ((s.offerEvent e).1).events.firstPointer = s.events.firstPointer ∧
    ((s.offerEvent e).1).events.applyResult = s.events.applyResult ∧
    ((s.offerEvent e).1).events.commandResult = s.events.commandResult := by
  and_intros <;>
    (simp only [State.offerEvent]
     (repeat' split) <;> simp)

@[simp] theorem State.writeOut_frame (s : State) (l : List EventRecord) :
    (s.writeOut l).pending = s.pending ∧ (s.writeOut l).pins = s.pins ∧ (s.writeOut l).part = s.part ∧
    (s.writeOut l).forwarder = s.forwarder ∧ (s.writeOut l).settings = s.settings ∧ (s.writeOut l).intake = s.intake ∧
    (s.writeOut l).flight = s.flight ∧ (s.writeOut l).table = s.table ∧ (s.writeOut l).slotMap = s.slotMap ∧
    (s.writeOut l).time = s.time ∧ (s.writeOut l).now = s.now ∧ (s.writeOut l).own.outstanding = s.own.outstanding ∧
    (s.writeOut l).own.nextTag = s.own.nextTag ∧ (s.writeOut l).events.consumer = s.events.consumer ∧
    (s.writeOut l).events.errors = s.events.errors ∧ (s.writeOut l).events.firstPointer = s.events.firstPointer ∧
    (s.writeOut l).events.applyResult = s.events.applyResult ∧
    (s.writeOut l).events.commandResult = s.events.commandResult := by
  induction l generalizing s with
  | nil => exact ⟨rfl, rfl, rfl, rfl, rfl, rfl, rfl, rfl, rfl, rfl, rfl, rfl, rfl, rfl, rfl, rfl, rfl, rfl⟩
  | cons e l ih =>
    simp only [State.writeOut]
    split <;> simp [ih]

@[simp] theorem State.writeOutHeld_frame (s : State) :
    (s.writeOutHeld).pending = s.pending ∧ (s.writeOutHeld).pins = s.pins ∧ (s.writeOutHeld).part = s.part ∧
    (s.writeOutHeld).forwarder = s.forwarder ∧ (s.writeOutHeld).settings = s.settings ∧
    (s.writeOutHeld).intake = s.intake ∧ (s.writeOutHeld).flight = s.flight ∧ (s.writeOutHeld).table = s.table ∧
    (s.writeOutHeld).slotMap = s.slotMap ∧ (s.writeOutHeld).time = s.time ∧ (s.writeOutHeld).now = s.now ∧
    (s.writeOutHeld).own.outstanding = s.own.outstanding ∧ (s.writeOutHeld).own.nextTag = s.own.nextTag ∧
    (s.writeOutHeld).events.consumer = s.events.consumer ∧ (s.writeOutHeld).events.errors = s.events.errors ∧
    (s.writeOutHeld).events.firstPointer = s.events.firstPointer ∧
    (s.writeOutHeld).events.applyResult = s.events.applyResult ∧
    (s.writeOutHeld).events.commandResult = s.events.commandResult := by
  and_intros <;>
    (simp only [State.writeOutHeld]
     (repeat' split) <;> simp)

/-! ### Own writes sent (R149) -/

@[simp] theorem State.sendOwn_frame (s : State) :
    (s.sendOwn).pending = s.pending ∧ (s.sendOwn).pins = s.pins ∧ (s.sendOwn).part = s.part ∧
    (s.sendOwn).settings = s.settings ∧ (s.sendOwn).intake = s.intake ∧ (s.sendOwn).flight = s.flight ∧
    (s.sendOwn).table = s.table ∧ (s.sendOwn).slotMap = s.slotMap ∧ (s.sendOwn).time = s.time ∧
    (s.sendOwn).now = s.now ∧ (s.sendOwn).forwarder.held = s.forwarder.held ∧
    (s.sendOwn).forwarder.waiting = s.forwarder.waiting ∧ (s.sendOwn).forwarder.stalled = s.forwarder.stalled ∧
    (s.sendOwn).forwarder.inFlight = s.forwarder.inFlight ∧
    (s.sendOwn).forwarder.nextSerial = s.forwarder.nextSerial ∧
    (s.sendOwn).forwarder.toInitiator = s.forwarder.toInitiator ∧ (s.sendOwn).events.errors = s.events.errors ∧
    (s.sendOwn).events.firstPointer = s.events.firstPointer ∧ (s.sendOwn).events.consumer = s.events.consumer ∧
    (s.sendOwn).events.applyResult = s.events.applyResult ∧
    (s.sendOwn).events.commandResult = s.events.commandResult := by
  and_intros <;>
    (simp only [State.sendOwn]
     (repeat' split) <;> simp)

/-- What the sending of one own write leaves, the own writes that go first leave. -/
theorem State.sendReady_leaves {α : Type} (g : State → α) (h : ∀ t, g (State.sendOwn t) = g t) (s : State) :
    g s.sendReady = g s := by
  have all : ∀ n t, g (State.sendUpTo n t) = g t := by
    intro n
    induction n with
    | zero => exact fun _ => rfl
    | succ n ih =>
      intro t
      unfold State.sendUpTo
      split
      · exact (ih _).trans (h t)
      · rfl
  exact all _ s

/-- Nothing is sent while the head of the own-write queue may not be. -/
theorem State.sendReady_waiting (s : State) (h : s.ownReady = false) : s.sendReady = s := by
  simp [State.sendReady, Config.ownOutstanding, State.sendUpTo, h]

@[simp] theorem State.sendReady_frame (s : State) :
    (s.sendReady).pending = s.pending ∧ (s.sendReady).pins = s.pins ∧ (s.sendReady).part = s.part ∧
    (s.sendReady).settings = s.settings ∧ (s.sendReady).intake = s.intake ∧ (s.sendReady).flight = s.flight ∧
    (s.sendReady).table = s.table ∧ (s.sendReady).slotMap = s.slotMap ∧ (s.sendReady).time = s.time ∧
    (s.sendReady).now = s.now ∧ (s.sendReady).forwarder.held = s.forwarder.held ∧
    (s.sendReady).forwarder.waiting = s.forwarder.waiting ∧ (s.sendReady).forwarder.stalled = s.forwarder.stalled ∧
    (s.sendReady).forwarder.inFlight = s.forwarder.inFlight ∧
    (s.sendReady).forwarder.nextSerial = s.forwarder.nextSerial ∧
    (s.sendReady).forwarder.toInitiator = s.forwarder.toInitiator ∧ (s.sendReady).events.errors = s.events.errors ∧
    (s.sendReady).events.firstPointer = s.events.firstPointer ∧ (s.sendReady).events.consumer = s.events.consumer ∧
    (s.sendReady).events.applyResult = s.events.applyResult ∧
    (s.sendReady).events.commandResult = s.events.commandResult := by
  and_intros
  · exact State.sendReady_leaves (fun t => t.pending) (fun _ => by simp) s
  · exact State.sendReady_leaves (fun t => t.pins) (fun _ => by simp) s
  · exact State.sendReady_leaves (fun t => t.part) (fun _ => by simp) s
  · exact State.sendReady_leaves (fun t => t.settings) (fun _ => by simp) s
  · exact State.sendReady_leaves (fun t => t.intake) (fun _ => by simp) s
  · exact State.sendReady_leaves (fun t => t.flight) (fun _ => by simp) s
  · exact State.sendReady_leaves (fun t => t.table) (fun _ => by simp) s
  · exact State.sendReady_leaves (fun t => t.slotMap) (fun _ => by simp) s
  · exact State.sendReady_leaves (fun t => t.time) (fun _ => by simp) s
  · exact State.sendReady_leaves (fun t => t.now) (fun _ => by simp) s
  · exact State.sendReady_leaves (fun t => t.forwarder.held) (fun _ => by simp) s
  · exact State.sendReady_leaves (fun t => t.forwarder.waiting) (fun _ => by simp) s
  · exact State.sendReady_leaves (fun t => t.forwarder.stalled) (fun _ => by simp) s
  · exact State.sendReady_leaves (fun t => t.forwarder.inFlight) (fun _ => by simp) s
  · exact State.sendReady_leaves (fun t => t.forwarder.nextSerial) (fun _ => by simp) s
  · exact State.sendReady_leaves (fun t => t.forwarder.toInitiator) (fun _ => by simp) s
  · exact State.sendReady_leaves (fun t => t.events.errors) (fun _ => by simp) s
  · exact State.sendReady_leaves (fun t => t.events.firstPointer) (fun _ => by simp) s
  · exact State.sendReady_leaves (fun t => t.events.consumer) (fun _ => by simp) s
  · exact State.sendReady_leaves (fun t => t.events.applyResult) (fun _ => by simp) s
  · exact State.sendReady_leaves (fun t => t.events.commandResult) (fun _ => by simp) s

@[simp] theorem State.beginForward_frame (s : State) :
    (s.beginForward).pending = s.pending ∧ (s.beginForward).pins = s.pins ∧ (s.beginForward).part = s.part ∧
    (s.beginForward).settings = s.settings ∧ (s.beginForward).intake = s.intake ∧ (s.beginForward).flight = s.flight ∧
    (s.beginForward).table = s.table ∧ (s.beginForward).slotMap = s.slotMap ∧ (s.beginForward).time = s.time ∧
    (s.beginForward).forwarder.held = s.forwarder.held ∧ (s.beginForward).forwarder.waiting = s.forwarder.waiting ∧
    (s.beginForward).forwarder.stalled = s.forwarder.stalled ∧
    (s.beginForward).forwarder.inFlight = s.forwarder.inFlight ∧
    (s.beginForward).forwarder.toInitiator = s.forwarder.toInitiator ∧
    (s.beginForward).events.errors = s.events.errors ∧ (s.beginForward).events.firstPointer = s.events.firstPointer ∧
    (s.beginForward).events.consumer = s.events.consumer ∧
    (s.beginForward).events.applyResult = s.events.applyResult ∧
    (s.beginForward).events.commandResult = s.events.commandResult := by
  and_intros <;> simp [State.beginForward]

@[simp] theorem State.beginForward_forwarder_nextSerial (s : State) :
    s.beginForward.forwarder.nextSerial = s.forwarder.nextSerial + 1 := by simp [State.beginForward]

@[simp] theorem State.beginForward_now (s : State) :
    s.beginForward.now = { s.now with cause := some s.forwarder.nextSerial } := by simp [State.beginForward]

@[simp] theorem State.markError_frame (s : State) (k : ErrorKind) :
    ((s.markError k).1).pending = s.pending ∧ ((s.markError k).1).pins = s.pins ∧ ((s.markError k).1).part = s.part ∧
    ((s.markError k).1).forwarder = s.forwarder ∧ ((s.markError k).1).settings = s.settings ∧
    ((s.markError k).1).intake = s.intake ∧ ((s.markError k).1).flight = s.flight ∧
    ((s.markError k).1).table = s.table ∧ ((s.markError k).1).slotMap = s.slotMap ∧
    ((s.markError k).1).time = s.time ∧ ((s.markError k).1).own.outstanding = s.own.outstanding ∧
    ((s.markError k).1).own.nextTag = s.own.nextTag ∧ ((s.markError k).1).events.consumer = s.events.consumer ∧
    ((s.markError k).1).events.holding = s.events.holding ∧ ((s.markError k).1).events.producer = s.events.producer ∧
    ((s.markError k).1).events.mark = s.events.mark ∧ ((s.markError k).1).events.sequence = s.events.sequence ∧
    ((s.markError k).1).events.lost = s.events.lost ∧ ((s.markError k).1).now.cause = s.now.cause := by
  and_intros <;>
    (simp only [State.markError]
     (repeat' split) <;> simp)

/-- Handing an event on is at most an offer, a mark of EVENT_LOSS and a second offer. -/
theorem State.handOn_leaves {α : Type} (g : State → α) (ho : ∀ t e, g (State.offerEvent t e).1 = g t)
    (hm : ∀ t k, g (State.markError t k).1 = g t) (s : State) (f : EventFields) (time : Time) :
    g (s.handOn f time) = g s := by
  unfold State.handOn
  cases h1 : s.offerEvent (s.formRecord f time) with
  | mk s1 b =>
    have e1 := ho s (s.formRecord f time)
    rw [h1] at e1
    cases b with
    | false => exact e1
    | true =>
      dsimp only
      cases h2 : s1.markError .eventLoss with
      | mk s2 c =>
        have e2 := hm s1 .eventLoss
        simp only [h2] at e2
        cases c with
        | false => exact e2.trans e1
        | true => exact (ho s2 _).trans (e2.trans e1)

@[simp] theorem State.handOn_frame (s : State) (f : EventFields) (time : Time) :
    (s.handOn f time).pending = s.pending ∧ (s.handOn f time).pins = s.pins ∧ (s.handOn f time).part = s.part ∧
    (s.handOn f time).forwarder = s.forwarder ∧ (s.handOn f time).settings = s.settings ∧
    (s.handOn f time).intake = s.intake ∧ (s.handOn f time).flight = s.flight ∧ (s.handOn f time).table = s.table ∧
    (s.handOn f time).slotMap = s.slotMap ∧ (s.handOn f time).time = s.time ∧
    (s.handOn f time).own.outstanding = s.own.outstanding ∧ (s.handOn f time).own.nextTag = s.own.nextTag ∧
    (s.handOn f time).events.consumer = s.events.consumer ∧ (s.handOn f time).now.cause = s.now.cause := by
  refine ⟨?_, ?_, ?_, ?_, ?_, ?_, ?_, ?_, ?_, ?_, ?_, ?_, ?_, ?_⟩
  · exact State.handOn_leaves (fun t => t.pending) (fun _ _ => by simp) (fun _ _ => by simp) s f time
  · exact State.handOn_leaves (fun t => t.pins) (fun _ _ => by simp) (fun _ _ => by simp) s f time
  · exact State.handOn_leaves (fun t => t.part) (fun _ _ => by simp) (fun _ _ => by simp) s f time
  · exact State.handOn_leaves (fun t => t.forwarder) (fun _ _ => by simp) (fun _ _ => by simp) s f time
  · exact State.handOn_leaves (fun t => t.settings) (fun _ _ => by simp) (fun _ _ => by simp) s f time
  · exact State.handOn_leaves (fun t => t.intake) (fun _ _ => by simp) (fun _ _ => by simp) s f time
  · exact State.handOn_leaves (fun t => t.flight) (fun _ _ => by simp) (fun _ _ => by simp) s f time
  · exact State.handOn_leaves (fun t => t.table) (fun _ _ => by simp) (fun _ _ => by simp) s f time
  · exact State.handOn_leaves (fun t => t.slotMap) (fun _ _ => by simp) (fun _ _ => by simp) s f time
  · exact State.handOn_leaves (fun t => t.time) (fun _ _ => by simp) (fun _ _ => by simp) s f time
  · exact State.handOn_leaves (fun t => t.own.outstanding) (fun _ _ => by simp) (fun _ _ => by simp) s f time
  · exact State.handOn_leaves (fun t => t.own.nextTag) (fun _ _ => by simp) (fun _ _ => by simp) s f time
  · exact State.handOn_leaves (fun t => t.events.consumer) (fun _ _ => by simp) (fun _ _ => by simp) s f time
  · exact State.handOn_leaves (fun t => t.now.cause) (fun _ _ => by simp) (fun _ _ => by simp) s f time

/-- Setting an error is a mark and at most an event handed on. -/
theorem State.setError_leaves {α : Type} (g : State → α) (hm : ∀ t k, g (State.markError t k).1 = g t)
    (hh : ∀ t f time, g (State.handOn t f time) = g t) (s : State) (k : ErrorKind) (time : Time) :
    g (s.setError k time) = g s := by
  unfold State.setError
  cases h : s.markError k with
  | mk s1 b =>
    have e1 := hm s k
    rw [h] at e1
    cases b with
    | false => exact e1
    | true => exact (hh s1 _ _).trans e1

@[simp] theorem State.setError_frame (s : State) (k : ErrorKind) (time : Time) :
    (s.setError k time).pending = s.pending ∧ (s.setError k time).pins = s.pins ∧ (s.setError k time).part = s.part ∧
    (s.setError k time).forwarder = s.forwarder ∧ (s.setError k time).settings = s.settings ∧
    (s.setError k time).intake = s.intake ∧ (s.setError k time).flight = s.flight ∧
    (s.setError k time).table = s.table ∧ (s.setError k time).slotMap = s.slotMap ∧
    (s.setError k time).time = s.time ∧ (s.setError k time).own.outstanding = s.own.outstanding ∧
    (s.setError k time).own.nextTag = s.own.nextTag ∧ (s.setError k time).events.consumer = s.events.consumer ∧
    (s.setError k time).now.cause = s.now.cause := by
  refine ⟨?_, ?_, ?_, ?_, ?_, ?_, ?_, ?_, ?_, ?_, ?_, ?_, ?_, ?_⟩
  · exact State.setError_leaves (fun t => t.pending) (fun _ _ => by simp) (fun _ _ _ => by simp) s k time
  · exact State.setError_leaves (fun t => t.pins) (fun _ _ => by simp) (fun _ _ _ => by simp) s k time
  · exact State.setError_leaves (fun t => t.part) (fun _ _ => by simp) (fun _ _ _ => by simp) s k time
  · exact State.setError_leaves (fun t => t.forwarder) (fun _ _ => by simp) (fun _ _ _ => by simp) s k time
  · exact State.setError_leaves (fun t => t.settings) (fun _ _ => by simp) (fun _ _ _ => by simp) s k time
  · exact State.setError_leaves (fun t => t.intake) (fun _ _ => by simp) (fun _ _ _ => by simp) s k time
  · exact State.setError_leaves (fun t => t.flight) (fun _ _ => by simp) (fun _ _ _ => by simp) s k time
  · exact State.setError_leaves (fun t => t.table) (fun _ _ => by simp) (fun _ _ _ => by simp) s k time
  · exact State.setError_leaves (fun t => t.slotMap) (fun _ _ => by simp) (fun _ _ _ => by simp) s k time
  · exact State.setError_leaves (fun t => t.time) (fun _ _ => by simp) (fun _ _ _ => by simp) s k time
  · exact State.setError_leaves (fun t => t.own.outstanding) (fun _ _ => by simp) (fun _ _ _ => by simp) s k time
  · exact State.setError_leaves (fun t => t.own.nextTag) (fun _ _ => by simp) (fun _ _ _ => by simp) s k time
  · exact State.setError_leaves (fun t => t.events.consumer) (fun _ _ => by simp) (fun _ _ _ => by simp) s k time
  · exact State.setError_leaves (fun t => t.now.cause) (fun _ _ => by simp) (fun _ _ _ => by simp) s k time

/-! ### Contexts -/

@[simp] theorem State.endFlight_frame (s : State) :
    (s.endFlight).pending = s.pending ∧ (s.endFlight).pins = s.pins ∧ (s.endFlight).part = s.part ∧
    (s.endFlight).forwarder = s.forwarder ∧ (s.endFlight).own = s.own ∧ (s.endFlight).settings = s.settings ∧
    (s.endFlight).intake = s.intake ∧ (s.endFlight).slotMap = s.slotMap ∧ (s.endFlight).time = s.time ∧
    (s.endFlight).events = s.events ∧ (s.endFlight).now = s.now ∧ (s.endFlight).table.directory = s.table.directory ∧
    (s.endFlight).table.quarantined = s.table.quarantined ∧ (s.endFlight).table.ageing = s.table.ageing := by
  and_intros <;>
    (simp only [State.endFlight]
     (repeat' split) <;> simp)

@[simp] theorem State.abandonFor_frame (s : State) (index : Nat) :
    (s.abandonFor index).pending = s.pending ∧ (s.abandonFor index).pins = s.pins ∧
    (s.abandonFor index).part = s.part ∧ (s.abandonFor index).forwarder = s.forwarder ∧
    (s.abandonFor index).own = s.own ∧ (s.abandonFor index).settings = s.settings ∧
    (s.abandonFor index).intake = s.intake ∧ (s.abandonFor index).slotMap = s.slotMap ∧
    (s.abandonFor index).time = s.time ∧ (s.abandonFor index).events = s.events ∧ (s.abandonFor index).now = s.now ∧
    (s.abandonFor index).table.directory = s.table.directory ∧
    (s.abandonFor index).table.quarantined = s.table.quarantined ∧
    (s.abandonFor index).table.ageing = s.table.ageing := by
  and_intros <;>
    (simp only [State.abandonFor]
     (repeat' split) <;> simp)

@[simp] theorem State.vacate_frame (s : State) (index : Nat) (reason : ReleaseReason) :
    (s.vacate index reason).pending = s.pending ∧ (s.vacate index reason).pins = s.pins ∧
    (s.vacate index reason).part = s.part ∧ (s.vacate index reason).forwarder = s.forwarder ∧
    (s.vacate index reason).own = s.own ∧ (s.vacate index reason).settings = s.settings ∧
    (s.vacate index reason).intake = s.intake ∧ (s.vacate index reason).events = s.events ∧
    (s.vacate index reason).now = s.now ∧ (s.vacate index reason).table.ageing = s.table.ageing ∧
    (s.vacate index reason).time.counter = s.time.counter ∧ (s.vacate index reason).time.syncEdge = s.time.syncEdge ∧
    (s.vacate index reason).time.ageingTimer = s.time.ageingTimer := by
  and_intros <;> simp [State.vacate]

@[simp] theorem State.release_frame (s : State) (index : Nat) (reason : ReleaseReason) (time : Time) (stage : Nat) :
    (s.release index reason time stage).pending = s.pending ∧ (s.release index reason time stage).pins = s.pins ∧
    (s.release index reason time stage).part = s.part ∧ (s.release index reason time stage).forwarder = s.forwarder ∧
    (s.release index reason time stage).settings = s.settings ∧
    (s.release index reason time stage).intake = s.intake ∧
    (s.release index reason time stage).table.ageing = s.table.ageing ∧
    (s.release index reason time stage).time.counter = s.time.counter ∧
    (s.release index reason time stage).time.syncEdge = s.time.syncEdge ∧
    (s.release index reason time stage).time.ageingTimer = s.time.ageingTimer ∧
    (s.release index reason time stage).now.cause = s.now.cause ∧
    (s.release index reason time stage).own.outstanding = s.own.outstanding ∧
    (s.release index reason time stage).own.nextTag = s.own.nextTag := by
  and_intros <;>
    (simp only [State.release]
     (repeat' split) <;> simp)

@[simp] theorem State.integrityRelease_frame (s : State) (index : Nat) (time : Time) :
    (s.integrityRelease index time).pending = s.pending ∧ (s.integrityRelease index time).pins = s.pins ∧
    (s.integrityRelease index time).part = s.part ∧ (s.integrityRelease index time).forwarder = s.forwarder ∧
    (s.integrityRelease index time).settings = s.settings ∧ (s.integrityRelease index time).intake = s.intake ∧
    (s.integrityRelease index time).table.ageing = s.table.ageing ∧
    (s.integrityRelease index time).time.counter = s.time.counter ∧
    (s.integrityRelease index time).time.syncEdge = s.time.syncEdge ∧
    (s.integrityRelease index time).time.ageingTimer = s.time.ageingTimer ∧
    (s.integrityRelease index time).now.cause = s.now.cause ∧
    (s.integrityRelease index time).own.outstanding = s.own.outstanding ∧
    (s.integrityRelease index time).own.nextTag = s.own.nextTag := by
  and_intros <;> simp [State.integrityRelease]

@[simp] theorem State.lookup_frame (s : State) (key : Key) (time : Time) :
    ((s.lookup key time).1).pending = s.pending ∧ ((s.lookup key time).1).pins = s.pins ∧
    ((s.lookup key time).1).part = s.part ∧ ((s.lookup key time).1).forwarder = s.forwarder ∧
    ((s.lookup key time).1).settings = s.settings ∧ ((s.lookup key time).1).intake = s.intake ∧
    ((s.lookup key time).1).table.ageing = s.table.ageing ∧ ((s.lookup key time).1).time.counter = s.time.counter ∧
    ((s.lookup key time).1).time.syncEdge = s.time.syncEdge ∧
    ((s.lookup key time).1).time.ageingTimer = s.time.ageingTimer ∧ ((s.lookup key time).1).now.cause = s.now.cause ∧
    ((s.lookup key time).1).own.outstanding = s.own.outstanding ∧
    ((s.lookup key time).1).own.nextTag = s.own.nextTag := by
  and_intros <;>
    (simp only [State.lookup]
     (repeat' split) <;> simp)

@[simp] theorem State.unmapSlot_frame (s : State) (slot : Nat) :
    (s.unmapSlot slot).pending = s.pending ∧ (s.unmapSlot slot).pins = s.pins ∧ (s.unmapSlot slot).part = s.part ∧
    (s.unmapSlot slot).forwarder = s.forwarder ∧ (s.unmapSlot slot).own = s.own ∧
    (s.unmapSlot slot).settings = s.settings ∧ (s.unmapSlot slot).intake = s.intake ∧
    (s.unmapSlot slot).flight = s.flight ∧ (s.unmapSlot slot).time = s.time ∧ (s.unmapSlot slot).events = s.events ∧
    (s.unmapSlot slot).now = s.now ∧ (s.unmapSlot slot).table.directory = s.table.directory ∧
    (s.unmapSlot slot).table.quarantined = s.table.quarantined ∧ (s.unmapSlot slot).table.ageing = s.table.ageing := by
  and_intros <;>
    (simp only [State.unmapSlot]
     (repeat' split) <;> simp)

@[simp] theorem State.occupy_frame (s : State) (index : Nat) (key : Key) (station : StationState) (birth : Birth)
    (committed : Committed) (time : Time) (stage : Stage) (interval : Nat) :
    (s.occupy index key station birth committed time stage interval).pending = s.pending ∧
    (s.occupy index key station birth committed time stage interval).pins = s.pins ∧
    (s.occupy index key station birth committed time stage interval).part = s.part ∧
    (s.occupy index key station birth committed time stage interval).forwarder = s.forwarder ∧
    (s.occupy index key station birth committed time stage interval).settings = s.settings ∧
    (s.occupy index key station birth committed time stage interval).intake = s.intake ∧
    (s.occupy index key station birth committed time stage interval).flight = s.flight ∧
    (s.occupy index key station birth committed time stage interval).slotMap = s.slotMap ∧
    (s.occupy index key station birth committed time stage interval).events = s.events ∧
    (s.occupy index key station birth committed time stage interval).now = s.now ∧
    (s.occupy index key station birth committed time stage interval).table.quarantined = s.table.quarantined ∧
    (s.occupy index key station birth committed time stage interval).table.ageing = s.table.ageing ∧
    (s.occupy index key station birth committed time stage interval).time.counter = s.time.counter ∧
    (s.occupy index key station birth committed time stage interval).time.syncEdge = s.time.syncEdge ∧
    (s.occupy index key station birth committed time stage interval).time.ageingTimer = s.time.ageingTimer ∧
    (s.occupy index key station birth committed time stage interval).own.outstanding = s.own.outstanding ∧
    (s.occupy index key station birth committed time stage interval).own.nextTag = s.own.nextTag := by
  and_intros <;> simp [State.occupy]

@[simp] theorem State.restart_frame (s : State) (index : Nat) (a : Table Word) (time : Time) (reason : Nat) :
    (s.restart index a time reason).pending = s.pending ∧ (s.restart index a time reason).pins = s.pins ∧
    (s.restart index a time reason).part = s.part ∧ (s.restart index a time reason).forwarder = s.forwarder ∧
    (s.restart index a time reason).settings = s.settings ∧ (s.restart index a time reason).intake = s.intake ∧
    (s.restart index a time reason).flight = s.flight ∧
    (s.restart index a time reason).table.directory = s.table.directory ∧
    (s.restart index a time reason).table.quarantined = s.table.quarantined ∧
    (s.restart index a time reason).table.ageing = s.table.ageing ∧
    (s.restart index a time reason).time.counter = s.time.counter ∧
    (s.restart index a time reason).time.syncEdge = s.time.syncEdge ∧
    (s.restart index a time reason).time.ageingTimer = s.time.ageingTimer ∧
    (s.restart index a time reason).own.outstanding = s.own.outstanding ∧
    (s.restart index a time reason).own.nextTag = s.own.nextTag ∧
    (s.restart index a time reason).events.consumer = s.events.consumer ∧
    (s.restart index a time reason).now.cause = s.now.cause := by
  and_intros <;>
    (simp only [State.restart]
     (repeat' split) <;> simp)

@[simp] theorem State.confirm_frame (s : State) (index : Nat) (c : Context) (issued : Issued) (delivered : Time) (time
    : Time) :
    (s.confirm index c issued delivered time).pending = s.pending ∧
    (s.confirm index c issued delivered time).pins = s.pins ∧
    (s.confirm index c issued delivered time).part = s.part ∧
    (s.confirm index c issued delivered time).forwarder = s.forwarder ∧
    (s.confirm index c issued delivered time).settings = s.settings ∧
    (s.confirm index c issued delivered time).intake = s.intake ∧
    (s.confirm index c issued delivered time).flight = s.flight ∧
    (s.confirm index c issued delivered time).slotMap = s.slotMap ∧
    (s.confirm index c issued delivered time).table.directory = s.table.directory ∧
    (s.confirm index c issued delivered time).table.quarantined = s.table.quarantined ∧
    (s.confirm index c issued delivered time).table.ageing = s.table.ageing ∧
    (s.confirm index c issued delivered time).time.counter = s.time.counter ∧
    (s.confirm index c issued delivered time).time.syncEdge = s.time.syncEdge ∧
    (s.confirm index c issued delivered time).time.ageingTimer = s.time.ageingTimer ∧
    (s.confirm index c issued delivered time).own.outstanding = s.own.outstanding ∧
    (s.confirm index c issued delivered time).own.nextTag = s.own.nextTag ∧
    (s.confirm index c issued delivered time).events.consumer = s.events.consumer ∧
    (s.confirm index c issued delivered time).now.cause = s.now.cause := by
  and_intros <;> simp [State.confirm]

@[simp] theorem State.withdraw_frame (s : State) (index : Nat) (c : Context) (issued : Issued) (delivered : Time)
    (time : Time) :
    (s.withdraw index c issued delivered time).pending = s.pending ∧
    (s.withdraw index c issued delivered time).pins = s.pins ∧
    (s.withdraw index c issued delivered time).part = s.part ∧
    (s.withdraw index c issued delivered time).forwarder = s.forwarder ∧
    (s.withdraw index c issued delivered time).settings = s.settings ∧
    (s.withdraw index c issued delivered time).intake = s.intake ∧
    (s.withdraw index c issued delivered time).flight = s.flight ∧
    (s.withdraw index c issued delivered time).slotMap = s.slotMap ∧
    (s.withdraw index c issued delivered time).time = s.time ∧
    (s.withdraw index c issued delivered time).table.directory = s.table.directory ∧
    (s.withdraw index c issued delivered time).table.quarantined = s.table.quarantined ∧
    (s.withdraw index c issued delivered time).table.ageing = s.table.ageing ∧
    (s.withdraw index c issued delivered time).own.outstanding = s.own.outstanding ∧
    (s.withdraw index c issued delivered time).own.nextTag = s.own.nextTag ∧
    (s.withdraw index c issued delivered time).events.consumer = s.events.consumer ∧
    (s.withdraw index c issued delivered time).now.cause = s.now.cause := by
  and_intros <;> simp [State.withdraw]

/-! ### Fills and held writes -/

@[simp] theorem State.settleOwner_frame (s : State) (slot : Nat) (found : Option Nat) :
    (s.settleOwner slot found).pending = s.pending ∧ (s.settleOwner slot found).pins = s.pins ∧
    (s.settleOwner slot found).part = s.part ∧ (s.settleOwner slot found).forwarder = s.forwarder ∧
    (s.settleOwner slot found).own = s.own ∧ (s.settleOwner slot found).settings = s.settings ∧
    (s.settleOwner slot found).intake = s.intake ∧ (s.settleOwner slot found).flight = s.flight ∧
    (s.settleOwner slot found).time = s.time ∧ (s.settleOwner slot found).events = s.events ∧
    (s.settleOwner slot found).now = s.now ∧ (s.settleOwner slot found).table.directory = s.table.directory ∧
    (s.settleOwner slot found).table.quarantined = s.table.quarantined ∧
    (s.settleOwner slot found).table.ageing = s.table.ageing := by
  and_intros <;>
    (simp only [State.settleOwner]
     (repeat' split) <;> simp)

@[simp] theorem State.fillAndForward_frame (s : State) (serial : Nat) (r : Request) (key : Key) (slot : Nat) (found :
    Option Nat) :
    (s.fillAndForward serial r key slot found).pending = s.pending ∧
    (s.fillAndForward serial r key slot found).pins = s.pins ∧
    (s.fillAndForward serial r key slot found).part = s.part ∧
    (s.fillAndForward serial r key slot found).own = s.own ∧
    (s.fillAndForward serial r key slot found).settings = s.settings ∧
    (s.fillAndForward serial r key slot found).intake = s.intake ∧
    (s.fillAndForward serial r key slot found).flight = s.flight ∧
    (s.fillAndForward serial r key slot found).time = s.time ∧
    (s.fillAndForward serial r key slot found).events = s.events ∧
    (s.fillAndForward serial r key slot found).now = s.now ∧
    (s.fillAndForward serial r key slot found).table.directory = s.table.directory ∧
    (s.fillAndForward serial r key slot found).table.quarantined = s.table.quarantined ∧
    (s.fillAndForward serial r key slot found).table.ageing = s.table.ageing ∧
    (s.fillAndForward serial r key slot found).forwarder.held = s.forwarder.held ∧
    (s.fillAndForward serial r key slot found).forwarder.waiting = s.forwarder.waiting ∧
    (s.fillAndForward serial r key slot found).forwarder.stalled = s.forwarder.stalled ∧
    (s.fillAndForward serial r key slot found).forwarder.nextSerial = s.forwarder.nextSerial ∧
    (s.fillAndForward serial r key slot found).forwarder.toInitiator = s.forwarder.toInitiator := by
  and_intros <;>
    (simp only [State.fillAndForward]
     (repeat' split) <;> simp)

@[simp] theorem State.unmapOverlapped_frame (s : State) (r : Request) :
    (s.unmapOverlapped r).pending = s.pending ∧ (s.unmapOverlapped r).pins = s.pins ∧
    (s.unmapOverlapped r).part = s.part ∧ (s.unmapOverlapped r).forwarder = s.forwarder ∧
    (s.unmapOverlapped r).own = s.own ∧ (s.unmapOverlapped r).settings = s.settings ∧
    (s.unmapOverlapped r).intake = s.intake ∧ (s.unmapOverlapped r).flight = s.flight ∧
    (s.unmapOverlapped r).time = s.time ∧ (s.unmapOverlapped r).events = s.events ∧
    (s.unmapOverlapped r).now = s.now ∧ (s.unmapOverlapped r).table.directory = s.table.directory ∧
    (s.unmapOverlapped r).table.quarantined = s.table.quarantined ∧
    (s.unmapOverlapped r).table.ageing = s.table.ageing := by
  refine ⟨?_, ?_, ?_, ?_, ?_, ?_, ?_, ?_, ?_, ?_, ?_, ?_, ?_, ?_⟩
  · exact foldl_leaves _ (fun t => t.pending) (fun t x => by simp) _ _
  · exact foldl_leaves _ (fun t => t.pins) (fun t x => by simp) _ _
  · exact foldl_leaves _ (fun t => t.part) (fun t x => by simp) _ _
  · exact foldl_leaves _ (fun t => t.forwarder) (fun t x => by simp) _ _
  · exact foldl_leaves _ (fun t => t.own) (fun t x => by simp) _ _
  · exact foldl_leaves _ (fun t => t.settings) (fun t x => by simp) _ _
  · exact foldl_leaves _ (fun t => t.intake) (fun t x => by simp) _ _
  · exact foldl_leaves _ (fun t => t.flight) (fun t x => by simp) _ _
  · exact foldl_leaves _ (fun t => t.time) (fun t x => by simp) _ _
  · exact foldl_leaves _ (fun t => t.events) (fun t x => by simp) _ _
  · exact foldl_leaves _ (fun t => t.now) (fun t x => by simp) _ _
  · exact foldl_leaves _ (fun t => t.table.directory) (fun t x => by simp) _ _
  · exact foldl_leaves _ (fun t => t.table.quarantined) (fun t x => by simp) _ _
  · exact foldl_leaves _ (fun t => t.table.ageing) (fun t x => by simp) _ _

@[simp] theorem State.notTaken_frame (s : State) (r : Request) :
    (s.notTaken r).pending = s.pending ∧ (s.notTaken r).pins = s.pins ∧ (s.notTaken r).part = s.part ∧
    (s.notTaken r).forwarder = s.forwarder ∧ (s.notTaken r).settings = s.settings ∧ (s.notTaken r).intake = s.intake ∧
    (s.notTaken r).flight = s.flight ∧ (s.notTaken r).time = s.time ∧
    (s.notTaken r).table.directory = s.table.directory ∧ (s.notTaken r).table.quarantined = s.table.quarantined ∧
    (s.notTaken r).table.ageing = s.table.ageing ∧ (s.notTaken r).own.outstanding = s.own.outstanding ∧
    (s.notTaken r).own.nextTag = s.own.nextTag ∧ (s.notTaken r).events.consumer = s.events.consumer ∧
    (s.notTaken r).now.cause = s.now.cause := by
  and_intros <;>
    (simp only [State.notTaken]
     (repeat' split) <;> simp)

@[simp] theorem State.fillHeldWrite_frame (s : State) (h : HeldWrite) :
    (s.fillHeldWrite h).pending = s.pending ∧ (s.fillHeldWrite h).pins = s.pins ∧ (s.fillHeldWrite h).part = s.part ∧
    (s.fillHeldWrite h).settings = s.settings ∧ (s.fillHeldWrite h).intake = s.intake ∧
    (s.fillHeldWrite h).table.ageing = s.table.ageing ∧ (s.fillHeldWrite h).time.counter = s.time.counter ∧
    (s.fillHeldWrite h).time.syncEdge = s.time.syncEdge ∧ (s.fillHeldWrite h).time.ageingTimer = s.time.ageingTimer ∧
    (s.fillHeldWrite h).now.cause = s.now.cause ∧ (s.fillHeldWrite h).forwarder.held = s.forwarder.held ∧
    (s.fillHeldWrite h).forwarder.waiting = s.forwarder.waiting ∧
    (s.fillHeldWrite h).forwarder.stalled = s.forwarder.stalled ∧
    (s.fillHeldWrite h).forwarder.toInitiator = s.forwarder.toInitiator := by
  and_intros <;>
    (simp only [State.fillHeldWrite]
     (repeat' split) <;> simp)

@[simp] theorem State.releaseHeld_frame (s : State) :
    (s.releaseHeld).pending = s.pending ∧ (s.releaseHeld).pins = s.pins ∧ (s.releaseHeld).part = s.part ∧
    (s.releaseHeld).settings = s.settings ∧ (s.releaseHeld).intake = s.intake ∧
    (s.releaseHeld).table.ageing = s.table.ageing ∧ (s.releaseHeld).time.counter = s.time.counter ∧
    (s.releaseHeld).time.syncEdge = s.time.syncEdge ∧ (s.releaseHeld).time.ageingTimer = s.time.ageingTimer ∧
    (s.releaseHeld).now.cause = s.now.cause ∧ (s.releaseHeld).forwarder.waiting = s.forwarder.waiting ∧
    (s.releaseHeld).forwarder.stalled = s.forwarder.stalled ∧
    (s.releaseHeld).forwarder.toInitiator = s.forwarder.toInitiator := by
  refine ⟨?_, ?_, ?_, ?_, ?_, ?_, ?_, ?_, ?_, ?_, ?_, ?_, ?_⟩
  · exact (foldl_leaves _ (fun t => t.pending) (fun t x => by simp) _ _).trans rfl
  · exact (foldl_leaves _ (fun t => t.pins) (fun t x => by simp) _ _).trans rfl
  · exact (foldl_leaves _ (fun t => t.part) (fun t x => by simp) _ _).trans rfl
  · exact (foldl_leaves _ (fun t => t.settings) (fun t x => by simp) _ _).trans rfl
  · exact (foldl_leaves _ (fun t => t.intake) (fun t x => by simp) _ _).trans rfl
  · exact (foldl_leaves _ (fun t => t.table.ageing) (fun t x => by simp) _ _).trans rfl
  · exact (foldl_leaves _ (fun t => t.time.counter) (fun t x => by simp) _ _).trans rfl
  · exact (foldl_leaves _ (fun t => t.time.syncEdge) (fun t x => by simp) _ _).trans rfl
  · exact (foldl_leaves _ (fun t => t.time.ageingTimer) (fun t x => by simp) _ _).trans rfl
  · exact (foldl_leaves _ (fun t => t.now.cause) (fun t x => by simp) _ _).trans rfl
  · exact (foldl_leaves _ (fun t => t.forwarder.waiting) (fun t x => by simp) _ _).trans rfl
  · exact (foldl_leaves _ (fun t => t.forwarder.stalled) (fun t x => by simp) _ _).trans rfl
  · exact (foldl_leaves _ (fun t => t.forwarder.toInitiator) (fun t x => by simp) _ _).trans rfl

@[simp] theorem State.releaseHeld_forwarder_held (s : State) : s.releaseHeld.forwarder.held = [] :=
  (foldl_leaves _ (fun t => t.forwarder.held) (fun t x => by simp) _ _).trans rfl

@[simp] theorem State.settleHeld_frame (s : State) :
    (s.settleHeld).pending = s.pending ∧ (s.settleHeld).pins = s.pins ∧ (s.settleHeld).part = s.part ∧
    (s.settleHeld).settings = s.settings ∧ (s.settleHeld).intake = s.intake ∧
    (s.settleHeld).table.ageing = s.table.ageing ∧ (s.settleHeld).time.counter = s.time.counter ∧
    (s.settleHeld).time.syncEdge = s.time.syncEdge ∧ (s.settleHeld).time.ageingTimer = s.time.ageingTimer ∧
    (s.settleHeld).now.cause = s.now.cause ∧ (s.settleHeld).forwarder.waiting = s.forwarder.waiting ∧
    (s.settleHeld).forwarder.stalled = s.forwarder.stalled ∧
    (s.settleHeld).forwarder.toInitiator = s.forwarder.toInitiator := by
  and_intros <;>
    (simp only [State.settleHeld]
     (repeat' split) <;> simp)

@[simp] theorem State.forwardUnfilled_frame (s : State) (h : HeldWrite) :
    (s.forwardUnfilled h).pending = s.pending ∧ (s.forwardUnfilled h).pins = s.pins ∧
    (s.forwardUnfilled h).part = s.part ∧ (s.forwardUnfilled h).settings = s.settings ∧
    (s.forwardUnfilled h).intake = s.intake ∧ (s.forwardUnfilled h).flight = s.flight ∧
    (s.forwardUnfilled h).table = s.table ∧ (s.forwardUnfilled h).slotMap = s.slotMap ∧
    (s.forwardUnfilled h).time = s.time ∧ (s.forwardUnfilled h).now = s.now ∧
    (s.forwardUnfilled h).forwarder.held = s.forwarder.held ∧
    (s.forwardUnfilled h).forwarder.waiting = s.forwarder.waiting ∧
    (s.forwardUnfilled h).forwarder.stalled = s.forwarder.stalled ∧
    (s.forwardUnfilled h).forwarder.toInitiator = s.forwarder.toInitiator ∧
    (s.forwardUnfilled h).events.errors = s.events.errors ∧
    (s.forwardUnfilled h).events.firstPointer = s.events.firstPointer ∧
    (s.forwardUnfilled h).events.consumer = s.events.consumer ∧
    (s.forwardUnfilled h).events.applyResult = s.events.applyResult ∧
    (s.forwardUnfilled h).events.commandResult = s.events.commandResult := by
  and_intros <;> simp [State.forwardUnfilled, State.withCause]

@[simp] theorem State.forwardHeldUnfilled_frame (s : State) :
    (s.forwardHeldUnfilled).pending = s.pending ∧ (s.forwardHeldUnfilled).pins = s.pins ∧
    (s.forwardHeldUnfilled).part = s.part ∧ (s.forwardHeldUnfilled).settings = s.settings ∧
    (s.forwardHeldUnfilled).intake = s.intake ∧ (s.forwardHeldUnfilled).flight = s.flight ∧
    (s.forwardHeldUnfilled).table = s.table ∧ (s.forwardHeldUnfilled).slotMap = s.slotMap ∧
    (s.forwardHeldUnfilled).time = s.time ∧ (s.forwardHeldUnfilled).now = s.now ∧
    (s.forwardHeldUnfilled).forwarder.waiting = s.forwarder.waiting ∧
    (s.forwardHeldUnfilled).forwarder.stalled = s.forwarder.stalled ∧
    (s.forwardHeldUnfilled).forwarder.toInitiator = s.forwarder.toInitiator ∧
    (s.forwardHeldUnfilled).events.errors = s.events.errors ∧
    (s.forwardHeldUnfilled).events.firstPointer = s.events.firstPointer ∧
    (s.forwardHeldUnfilled).events.consumer = s.events.consumer ∧
    (s.forwardHeldUnfilled).events.applyResult = s.events.applyResult ∧
    (s.forwardHeldUnfilled).events.commandResult = s.events.commandResult := by
  refine ⟨?_, ?_, ?_, ?_, ?_, ?_, ?_, ?_, ?_, ?_, ?_, ?_, ?_, ?_, ?_, ?_, ?_, ?_⟩
  · exact (foldl_leaves _ (fun t => t.pending) (fun t x => by simp) _ _).trans rfl
  · exact (foldl_leaves _ (fun t => t.pins) (fun t x => by simp) _ _).trans rfl
  · exact (foldl_leaves _ (fun t => t.part) (fun t x => by simp) _ _).trans rfl
  · exact (foldl_leaves _ (fun t => t.settings) (fun t x => by simp) _ _).trans rfl
  · exact (foldl_leaves _ (fun t => t.intake) (fun t x => by simp) _ _).trans rfl
  · exact (foldl_leaves _ (fun t => t.flight) (fun t x => by simp) _ _).trans rfl
  · exact (foldl_leaves _ (fun t => t.table) (fun t x => by simp) _ _).trans rfl
  · exact (foldl_leaves _ (fun t => t.slotMap) (fun t x => by simp) _ _).trans rfl
  · exact (foldl_leaves _ (fun t => t.time) (fun t x => by simp) _ _).trans rfl
  · exact (foldl_leaves _ (fun t => t.now) (fun t x => by simp) _ _).trans rfl
  · exact (foldl_leaves _ (fun t => t.forwarder.waiting) (fun t x => by simp) _ _).trans rfl
  · exact (foldl_leaves _ (fun t => t.forwarder.stalled) (fun t x => by simp) _ _).trans rfl
  · exact (foldl_leaves _ (fun t => t.forwarder.toInitiator) (fun t x => by simp) _ _).trans rfl
  · exact (foldl_leaves _ (fun t => t.events.errors) (fun t x => by simp) _ _).trans rfl
  · exact (foldl_leaves _ (fun t => t.events.firstPointer) (fun t x => by simp) _ _).trans rfl
  · exact (foldl_leaves _ (fun t => t.events.consumer) (fun t x => by simp) _ _).trans rfl
  · exact (foldl_leaves _ (fun t => t.events.applyResult) (fun t x => by simp) _ _).trans rfl
  · exact (foldl_leaves _ (fun t => t.events.commandResult) (fun t x => by simp) _ _).trans rfl

@[simp] theorem State.forwardHeldUnfilled_forwarder_held (s : State) : s.forwardHeldUnfilled.forwarder.held = [] :=
  (foldl_leaves _ (fun t => t.forwarder.held) (fun t x => by simp) _ _).trans rfl

@[simp] theorem State.releaseStation_frame (s : State) (index : Nat) (reason : ReleaseReason) (time : Time) (stage :
    Nat) : (s.releaseStation index reason time stage).pending = s.pending ∧
    (s.releaseStation index reason time stage).pins = s.pins ∧
    (s.releaseStation index reason time stage).part = s.part ∧
    (s.releaseStation index reason time stage).settings = s.settings ∧
    (s.releaseStation index reason time stage).intake = s.intake ∧
    (s.releaseStation index reason time stage).table.ageing = s.table.ageing ∧
    (s.releaseStation index reason time stage).time.counter = s.time.counter ∧
    (s.releaseStation index reason time stage).time.syncEdge = s.time.syncEdge ∧
    (s.releaseStation index reason time stage).time.ageingTimer = s.time.ageingTimer ∧
    (s.releaseStation index reason time stage).now.cause = s.now.cause ∧
    (s.releaseStation index reason time stage).forwarder.waiting = s.forwarder.waiting ∧
    (s.releaseStation index reason time stage).forwarder.stalled = s.forwarder.stalled ∧
    (s.releaseStation index reason time stage).forwarder.toInitiator = s.forwarder.toInitiator := by
  and_intros <;> simp [State.releaseStation]

@[simp] theorem State.failIntegrity_frame (s : State) (index : Nat) (time : Time) :
    (s.failIntegrity index time).pending = s.pending ∧ (s.failIntegrity index time).pins = s.pins ∧
    (s.failIntegrity index time).part = s.part ∧ (s.failIntegrity index time).settings = s.settings ∧
    (s.failIntegrity index time).intake = s.intake ∧ (s.failIntegrity index time).table.ageing = s.table.ageing ∧
    (s.failIntegrity index time).time.counter = s.time.counter ∧
    (s.failIntegrity index time).time.syncEdge = s.time.syncEdge ∧
    (s.failIntegrity index time).time.ageingTimer = s.time.ageingTimer ∧
    (s.failIntegrity index time).now.cause = s.now.cause ∧
    (s.failIntegrity index time).forwarder.waiting = s.forwarder.waiting ∧
    (s.failIntegrity index time).forwarder.stalled = s.forwarder.stalled ∧
    (s.failIntegrity index time).forwarder.toInitiator = s.forwarder.toInitiator := by
  and_intros <;> simp [State.failIntegrity]

/-! ### Part states and ageing -/

@[simp] theorem State.abandonDrain_frame (s : State) :
    (s.abandonDrain).pending = s.pending ∧ (s.abandonDrain).pins = s.pins ∧ (s.abandonDrain).part = s.part ∧
    (s.abandonDrain).forwarder = s.forwarder ∧ (s.abandonDrain).intake = s.intake ∧
    (s.abandonDrain).flight = s.flight ∧ (s.abandonDrain).table = s.table ∧ (s.abandonDrain).slotMap = s.slotMap ∧
    (s.abandonDrain).time = s.time ∧ (s.abandonDrain).now = s.now ∧
    (s.abandonDrain).settings.staging = s.settings.staging ∧ (s.abandonDrain).settings.active = s.settings.active ∧
    (s.abandonDrain).own.outstanding = s.own.outstanding ∧ (s.abandonDrain).own.nextTag = s.own.nextTag := by
  and_intros <;>
    (simp only [State.abandonDrain]
     (repeat' split) <;> simp)

@[simp] theorem State.enterStopped_frame (s : State) :
    (s.enterStopped).pending = s.pending ∧ (s.enterStopped).pins = s.pins ∧ (s.enterStopped).intake = s.intake ∧
    (s.enterStopped).slotMap = s.slotMap ∧ (s.enterStopped).time = s.time ∧ (s.enterStopped).now = s.now ∧
    (s.enterStopped).settings.staging = s.settings.staging ∧ (s.enterStopped).settings.active = s.settings.active ∧
    (s.enterStopped).forwarder.waiting = s.forwarder.waiting ∧
    (s.enterStopped).forwarder.stalled = s.forwarder.stalled ∧
    (s.enterStopped).forwarder.toInitiator = s.forwarder.toInitiator ∧
    (s.enterStopped).table.directory = s.table.directory ∧ (s.enterStopped).table.quarantined = s.table.quarantined ∧
    (s.enterStopped).table.ageing = s.table.ageing := by
  and_intros <;> simp [State.enterStopped]

@[simp] theorem State.enterStopped_part (s : State) : s.enterStopped.part = .stopped := rfl

@[simp] theorem State.stopIfDue_frame (s : State) :
    (s.stopIfDue).pending = s.pending ∧ (s.stopIfDue).pins = s.pins ∧ (s.stopIfDue).intake = s.intake ∧
    (s.stopIfDue).slotMap = s.slotMap ∧ (s.stopIfDue).time = s.time ∧
    (s.stopIfDue).settings.staging = s.settings.staging ∧ (s.stopIfDue).settings.active = s.settings.active ∧
    (s.stopIfDue).forwarder.waiting = s.forwarder.waiting ∧ (s.stopIfDue).forwarder.stalled = s.forwarder.stalled ∧
    (s.stopIfDue).forwarder.toInitiator = s.forwarder.toInitiator ∧
    (s.stopIfDue).table.directory = s.table.directory ∧ (s.stopIfDue).table.quarantined = s.table.quarantined ∧
    (s.stopIfDue).table.ageing = s.table.ageing ∧ (s.stopIfDue).now.cause = s.now.cause := by
  and_intros <;>
    (simp only [State.stopIfDue]
     (repeat' split) <;> simp)

@[simp] theorem State.finish_frame (s : State) :
    (s.finish).pending = s.pending ∧ (s.finish).intake = s.intake ∧ (s.finish).slotMap = s.slotMap ∧
    (s.finish).time = s.time ∧ (s.finish).settings.staging = s.settings.staging ∧
    (s.finish).settings.active = s.settings.active ∧ (s.finish).forwarder.waiting = s.forwarder.waiting ∧
    (s.finish).forwarder.stalled = s.forwarder.stalled ∧ (s.finish).forwarder.toInitiator = s.forwarder.toInitiator ∧
    (s.finish).table.directory = s.table.directory ∧ (s.finish).table.quarantined = s.table.quarantined ∧
    (s.finish).table.ageing = s.table.ageing ∧ (s.finish).pins.straps = s.pins.straps ∧
    (s.finish).pins.resetLow = s.pins.resetLow := by
  and_intros <;> simp [State.finish]

@[simp] theorem State.ageContext_frame (s : State) (index : Nat) :
    (s.ageContext index).pending = s.pending ∧ (s.ageContext index).pins = s.pins ∧
    (s.ageContext index).part = s.part ∧ (s.ageContext index).settings = s.settings ∧
    (s.ageContext index).intake = s.intake ∧ (s.ageContext index).time.counter = s.time.counter ∧
    (s.ageContext index).time.syncEdge = s.time.syncEdge ∧
    (s.ageContext index).time.ageingTimer = s.time.ageingTimer ∧ (s.ageContext index).now.cause = s.now.cause ∧
    (s.ageContext index).forwarder.waiting = s.forwarder.waiting ∧
    (s.ageContext index).forwarder.stalled = s.forwarder.stalled ∧
    (s.ageContext index).forwarder.toInitiator = s.forwarder.toInitiator ∧
    (s.ageContext index).table.ageing = s.table.ageing := by
  and_intros <;>
    (simp only [State.ageContext]
     (repeat' split) <;> simp)

@[simp] theorem State.ageingStep_frame (s : State) :
    (s.ageingStep).pending = s.pending ∧ (s.ageingStep).pins = s.pins ∧ (s.ageingStep).part = s.part ∧
    (s.ageingStep).settings = s.settings ∧ (s.ageingStep).intake = s.intake ∧
    (s.ageingStep).time.counter = s.time.counter ∧ (s.ageingStep).time.syncEdge = s.time.syncEdge ∧
    (s.ageingStep).time.ageingTimer = s.time.ageingTimer ∧ (s.ageingStep).now.cause = s.now.cause ∧
    (s.ageingStep).forwarder.waiting = s.forwarder.waiting ∧ (s.ageingStep).forwarder.stalled = s.forwarder.stalled ∧
    (s.ageingStep).forwarder.toInitiator = s.forwarder.toInitiator ∧ (s.ageingStep).table.ageing = s.table.ageing := by
  refine ⟨?_, ?_, ?_, ?_, ?_, ?_, ?_, ?_, ?_, ?_, ?_, ?_, ?_⟩
  · exact foldl_leaves _ (fun t => t.pending) (fun t x => by simp) _ _
  · exact foldl_leaves _ (fun t => t.pins) (fun t x => by simp) _ _
  · exact foldl_leaves _ (fun t => t.part) (fun t x => by simp) _ _
  · exact foldl_leaves _ (fun t => t.settings) (fun t x => by simp) _ _
  · exact foldl_leaves _ (fun t => t.intake) (fun t x => by simp) _ _
  · exact foldl_leaves _ (fun t => t.time.counter) (fun t x => by simp) _ _
  · exact foldl_leaves _ (fun t => t.time.syncEdge) (fun t x => by simp) _ _
  · exact foldl_leaves _ (fun t => t.time.ageingTimer) (fun t x => by simp) _ _
  · exact foldl_leaves _ (fun t => t.now.cause) (fun t x => by simp) _ _
  · exact foldl_leaves _ (fun t => t.forwarder.waiting) (fun t x => by simp) _ _
  · exact foldl_leaves _ (fun t => t.forwarder.stalled) (fun t x => by simp) _ _
  · exact foldl_leaves _ (fun t => t.forwarder.toInitiator) (fun t x => by simp) _ _
  · exact foldl_leaves _ (fun t => t.table.ageing) (fun t x => by simp) _ _

@[simp] theorem State.ageByCount_frame (s : State) :
    (s.ageByCount).pending = s.pending ∧ (s.ageByCount).pins = s.pins ∧ (s.ageByCount).part = s.part ∧
    (s.ageByCount).settings = s.settings ∧ (s.ageByCount).intake = s.intake ∧
    (s.ageByCount).time.counter = s.time.counter ∧ (s.ageByCount).time.syncEdge = s.time.syncEdge ∧
    (s.ageByCount).time.ageingTimer = s.time.ageingTimer ∧ (s.ageByCount).now.cause = s.now.cause ∧
    (s.ageByCount).forwarder.waiting = s.forwarder.waiting ∧ (s.ageByCount).forwarder.stalled = s.forwarder.stalled ∧
    (s.ageByCount).forwarder.toInitiator = s.forwarder.toInitiator := by
  and_intros <;>
    (simp only [State.ageByCount]
     split <;> simp)

@[simp] theorem State.countReport_frame (s : State) :
    (s.countReport).pending = s.pending ∧ (s.countReport).pins = s.pins ∧ (s.countReport).part = s.part ∧
    (s.countReport).settings = s.settings ∧ (s.countReport).intake = s.intake ∧
    (s.countReport).time.counter = s.time.counter ∧ (s.countReport).time.syncEdge = s.time.syncEdge ∧
    (s.countReport).time.ageingTimer = s.time.ageingTimer ∧ (s.countReport).now.cause = s.now.cause ∧
    (s.countReport).forwarder.waiting = s.forwarder.waiting ∧
    (s.countReport).forwarder.stalled = s.forwarder.stalled ∧
    (s.countReport).forwarder.toInitiator = s.forwarder.toInitiator := by
  and_intros <;>
    (simp only [State.countReport]
     (repeat' split) <;> simp)

/-! ### Reports -/

@[simp] theorem State.enqueue_frame (s : State) (h : Header) (e : Report) :
    (s.enqueue h e).pending = s.pending ∧ (s.enqueue h e).pins = s.pins ∧ (s.enqueue h e).part = s.part ∧
    (s.enqueue h e).forwarder = s.forwarder ∧ (s.enqueue h e).settings = s.settings ∧
    (s.enqueue h e).flight = s.flight ∧ (s.enqueue h e).table = s.table ∧ (s.enqueue h e).slotMap = s.slotMap ∧
    (s.enqueue h e).time = s.time ∧ (s.enqueue h e).own.outstanding = s.own.outstanding ∧
    (s.enqueue h e).own.nextTag = s.own.nextTag ∧ (s.enqueue h e).events.consumer = s.events.consumer ∧
    (s.enqueue h e).now.cause = s.now.cause := by
  and_intros <;>
    (simp only [State.enqueue]
     (repeat' split) <;> simp)

@[simp] theorem State.takeReport_frame (s : State) (r : Request) (slot : Nat) :
    (s.takeReport r slot).pending = s.pending ∧ (s.takeReport r slot).pins = s.pins ∧
    (s.takeReport r slot).part = s.part ∧ (s.takeReport r slot).forwarder = s.forwarder ∧
    (s.takeReport r slot).settings = s.settings ∧ (s.takeReport r slot).flight = s.flight ∧
    (s.takeReport r slot).table = s.table ∧ (s.takeReport r slot).slotMap = s.slotMap ∧
    (s.takeReport r slot).time = s.time ∧ (s.takeReport r slot).own.outstanding = s.own.outstanding ∧
    (s.takeReport r slot).own.nextTag = s.own.nextTag ∧ (s.takeReport r slot).events.consumer = s.events.consumer ∧
    (s.takeReport r slot).now.cause = s.now.cause := by
  and_intros <;>
    (simp only [State.takeReport]
     (repeat' split) <;> simp)

@[simp] theorem State.intakeWrite_frame (s : State) (r : Request) :
    (s.intakeWrite r).pending = s.pending ∧ (s.intakeWrite r).pins = s.pins ∧ (s.intakeWrite r).part = s.part ∧
    (s.intakeWrite r).forwarder = s.forwarder ∧ (s.intakeWrite r).settings = s.settings ∧
    (s.intakeWrite r).flight = s.flight ∧ (s.intakeWrite r).table = s.table ∧ (s.intakeWrite r).slotMap = s.slotMap ∧
    (s.intakeWrite r).time = s.time ∧ (s.intakeWrite r).own.outstanding = s.own.outstanding ∧
    (s.intakeWrite r).own.nextTag = s.own.nextTag ∧ (s.intakeWrite r).events.consumer = s.events.consumer ∧
    (s.intakeWrite r).now.cause = s.now.cause := by
  and_intros <;>
    (simp only [State.intakeWrite]
     (repeat' split) <;> simp)

/-! ### The corrector -/

@[simp] theorem State.rearmSilence_frame (s : State) (index : Nat) (a : Table Word) (time : Time) :
    (s.rearmSilence index a time).pending = s.pending ∧ (s.rearmSilence index a time).pins = s.pins ∧
    (s.rearmSilence index a time).part = s.part ∧ (s.rearmSilence index a time).forwarder = s.forwarder ∧
    (s.rearmSilence index a time).own = s.own ∧ (s.rearmSilence index a time).settings = s.settings ∧
    (s.rearmSilence index a time).intake = s.intake ∧ (s.rearmSilence index a time).flight = s.flight ∧
    (s.rearmSilence index a time).table = s.table ∧ (s.rearmSilence index a time).slotMap = s.slotMap ∧
    (s.rearmSilence index a time).events = s.events ∧ (s.rearmSilence index a time).now = s.now ∧
    (s.rearmSilence index a time).time.counter = s.time.counter ∧
    (s.rearmSilence index a time).time.syncEdge = s.time.syncEdge ∧
    (s.rearmSilence index a time).time.ageingTimer = s.time.ageingTimer := by
  and_intros <;>
    (simp only [State.rearmSilence]
     (repeat' split) <;> simp)

@[simp] theorem State.testCorrection_frame (s : State) (index : Nat) (a : Table Word) (report : Report) (time : Time)
    :
    (s.testCorrection index a report time).pending = s.pending ∧
    (s.testCorrection index a report time).pins = s.pins ∧ (s.testCorrection index a report time).part = s.part ∧
    (s.testCorrection index a report time).forwarder = s.forwarder ∧
    (s.testCorrection index a report time).settings = s.settings ∧
    (s.testCorrection index a report time).intake = s.intake ∧
    (s.testCorrection index a report time).slotMap = s.slotMap ∧
    (s.testCorrection index a report time).table.directory = s.table.directory ∧
    (s.testCorrection index a report time).table.quarantined = s.table.quarantined ∧
    (s.testCorrection index a report time).table.ageing = s.table.ageing ∧
    (s.testCorrection index a report time).time.counter = s.time.counter ∧
    (s.testCorrection index a report time).time.syncEdge = s.time.syncEdge ∧
    (s.testCorrection index a report time).time.ageingTimer = s.time.ageingTimer ∧
    (s.testCorrection index a report time).own.outstanding = s.own.outstanding ∧
    (s.testCorrection index a report time).own.nextTag = s.own.nextTag ∧
    (s.testCorrection index a report time).now.cause = s.now.cause := by
  and_intros <;>
    (simp only [State.testCorrection]
     (repeat' split) <;> simp)

theorem State.goOn_cases (s : State) (f : State → State) :
    (s.now.stopDue = true ∧ s.goOn f = s) ∨ (s.now.stopDue = false ∧ s.goOn f = f s) := by
  unfold State.goOn
  cases h : s.now.stopDue <;> simp

@[simp] theorem State.bindReport_frame (s : State) (index : Nat) (age : Nat) (report : Report) :
    (s.bindReport index age report).pending = s.pending ∧ (s.bindReport index age report).pins = s.pins ∧
    (s.bindReport index age report).part = s.part ∧ (s.bindReport index age report).settings = s.settings ∧
    (s.bindReport index age report).intake = s.intake ∧
    (s.bindReport index age report).time.counter = s.time.counter ∧
    (s.bindReport index age report).time.syncEdge = s.time.syncEdge ∧
    (s.bindReport index age report).forwarder.waiting = s.forwarder.waiting ∧
    (s.bindReport index age report).forwarder.stalled = s.forwarder.stalled ∧
    (s.bindReport index age report).forwarder.toInitiator = s.forwarder.toInitiator := by
  and_intros <;>
    (simp only [State.bindReport, State.goOn]
     (repeat' split) <;> simp)

@[simp] theorem State.refuse_frame (s : State) (report : Report) (cause : RefusalCause) :
    (s.refuse report cause).pending = s.pending ∧ (s.refuse report cause).pins = s.pins ∧
    (s.refuse report cause).part = s.part ∧ (s.refuse report cause).forwarder = s.forwarder ∧
    (s.refuse report cause).settings = s.settings ∧ (s.refuse report cause).intake = s.intake ∧
    (s.refuse report cause).flight = s.flight ∧ (s.refuse report cause).table = s.table ∧
    (s.refuse report cause).slotMap = s.slotMap ∧ (s.refuse report cause).time = s.time ∧
    (s.refuse report cause).own.outstanding = s.own.outstanding ∧
    (s.refuse report cause).own.nextTag = s.own.nextTag ∧
    (s.refuse report cause).events.consumer = s.events.consumer ∧ (s.refuse report cause).now.cause = s.now.cause := by
  and_intros <;> simp [State.refuse]

@[simp] theorem State.allocate_frame (s : State) (index : Nat) (report : Report) :
    (s.allocate index report).pending = s.pending ∧ (s.allocate index report).pins = s.pins ∧
    (s.allocate index report).part = s.part ∧ (s.allocate index report).settings = s.settings ∧
    (s.allocate index report).intake = s.intake ∧ (s.allocate index report).time.counter = s.time.counter ∧
    (s.allocate index report).time.syncEdge = s.time.syncEdge ∧
    (s.allocate index report).forwarder.waiting = s.forwarder.waiting ∧
    (s.allocate index report).forwarder.stalled = s.forwarder.stalled ∧
    (s.allocate index report).forwarder.toInitiator = s.forwarder.toInitiator := by
  and_intros <;>
    (simp only [State.allocate, State.goOn]
     (repeat' split) <;> simp)

@[simp] theorem State.adopt_frame (s : State) (index : Nat) (report : Report) :
    (s.adopt index report).pending = s.pending ∧ (s.adopt index report).pins = s.pins ∧
    (s.adopt index report).part = s.part ∧ (s.adopt index report).settings = s.settings ∧
    (s.adopt index report).intake = s.intake ∧ (s.adopt index report).time.counter = s.time.counter ∧
    (s.adopt index report).time.syncEdge = s.time.syncEdge ∧
    (s.adopt index report).forwarder.waiting = s.forwarder.waiting ∧
    (s.adopt index report).forwarder.stalled = s.forwarder.stalled ∧
    (s.adopt index report).forwarder.toInitiator = s.forwarder.toInitiator := by
  and_intros <;>
    (simp only [State.adopt, State.goOn]
     (repeat' split) <;> simp)

@[simp] theorem State.reclaimScan_frame (s : State) (channel : Nat) (l : List Nat) :
    ((State.reclaimScan channel l s).1).pending = s.pending ∧ ((State.reclaimScan channel l s).1).pins = s.pins ∧
    ((State.reclaimScan channel l s).1).part = s.part ∧ ((State.reclaimScan channel l s).1).settings = s.settings ∧
    ((State.reclaimScan channel l s).1).intake = s.intake ∧
    ((State.reclaimScan channel l s).1).time.counter = s.time.counter ∧
    ((State.reclaimScan channel l s).1).time.syncEdge = s.time.syncEdge ∧
    ((State.reclaimScan channel l s).1).forwarder.waiting = s.forwarder.waiting ∧
    ((State.reclaimScan channel l s).1).forwarder.stalled = s.forwarder.stalled ∧
    ((State.reclaimScan channel l s).1).forwarder.toInitiator = s.forwarder.toInitiator ∧
    ((State.reclaimScan channel l s).1).time.ageingTimer = s.time.ageingTimer := by
  induction l generalizing s with
  | nil => exact ⟨rfl, rfl, rfl, rfl, rfl, rfl, rfl, rfl, rfl, rfl, rfl⟩
  | cons i l ih =>
    simp only [State.reclaimScan]
    (repeat' split) <;> simp [ih]

/-- What the scan and what follows it leave, an admission leaves. -/
theorem State.admitFirstContact_leaves {α : Type} (g : State → α) (ha : ∀ t i r, g (State.allocate t i r) = g t)
    (hr : ∀ t r c, g (State.refuse t r c) = g t) (hs : ∀ c l t, g (State.reclaimScan c l t).1 = g t)
    (hl : ∀ t i n time k, g (State.releaseStation t i n time k) = g t) (s : State) (report : Report) :
    g (s.admitFirstContact report) = g s := by
  simp only [State.admitFirstContact]
  split
  · exact ha _ _ _
  · cases h : State.reclaimScan report.channel s.table.contexts.keys s with
    | mk t o =>
      have e := hs report.channel s.table.contexts.keys s
      rw [h] at e
      cases o with
      | none => exact (State.goOn_leaves g t _ (hr _ _ _)).trans e
      | some i => exact ((State.goOn_leaves g _ _ (ha _ _ _)).trans (hl _ _ _ _ _)).trans e

@[simp] theorem State.admitFirstContact_frame (s : State) (report : Report) :
    (s.admitFirstContact report).pending = s.pending ∧ (s.admitFirstContact report).pins = s.pins ∧
    (s.admitFirstContact report).part = s.part ∧ (s.admitFirstContact report).settings = s.settings ∧
    (s.admitFirstContact report).intake = s.intake ∧ (s.admitFirstContact report).time.counter = s.time.counter ∧
    (s.admitFirstContact report).time.syncEdge = s.time.syncEdge ∧
    (s.admitFirstContact report).forwarder.waiting = s.forwarder.waiting ∧
    (s.admitFirstContact report).forwarder.stalled = s.forwarder.stalled ∧
    (s.admitFirstContact report).forwarder.toInitiator = s.forwarder.toInitiator := by
  refine ⟨?_, ?_, ?_, ?_, ?_, ?_, ?_, ?_, ?_, ?_⟩
  · exact State.admitFirstContact_leaves (fun t => t.pending) (fun _ _ _ => by simp) (fun _ _ _ => by simp) (fun _ _ _ => by simp) (fun _ _ _ _ _ => by simp) s report
  · exact State.admitFirstContact_leaves (fun t => t.pins) (fun _ _ _ => by simp) (fun _ _ _ => by simp) (fun _ _ _ => by simp) (fun _ _ _ _ _ => by simp) s report
  · exact State.admitFirstContact_leaves (fun t => t.part) (fun _ _ _ => by simp) (fun _ _ _ => by simp) (fun _ _ _ => by simp) (fun _ _ _ _ _ => by simp) s report
  · exact State.admitFirstContact_leaves (fun t => t.settings) (fun _ _ _ => by simp) (fun _ _ _ => by simp) (fun _ _ _ => by simp) (fun _ _ _ _ _ => by simp) s report
  · exact State.admitFirstContact_leaves (fun t => t.intake) (fun _ _ _ => by simp) (fun _ _ _ => by simp) (fun _ _ _ => by simp) (fun _ _ _ _ _ => by simp) s report
  · exact State.admitFirstContact_leaves (fun t => t.time.counter) (fun _ _ _ => by simp) (fun _ _ _ => by simp) (fun _ _ _ => by simp) (fun _ _ _ _ _ => by simp) s report
  · exact State.admitFirstContact_leaves (fun t => t.time.syncEdge) (fun _ _ _ => by simp) (fun _ _ _ => by simp) (fun _ _ _ => by simp) (fun _ _ _ _ _ => by simp) s report
  · exact State.admitFirstContact_leaves (fun t => t.forwarder.waiting) (fun _ _ _ => by simp) (fun _ _ _ => by simp) (fun _ _ _ => by simp) (fun _ _ _ _ _ => by simp) s report
  · exact State.admitFirstContact_leaves (fun t => t.forwarder.stalled) (fun _ _ _ => by simp) (fun _ _ _ => by simp) (fun _ _ _ => by simp) (fun _ _ _ _ _ => by simp) s report
  · exact State.admitFirstContact_leaves (fun t => t.forwarder.toInitiator) (fun _ _ _ => by simp) (fun _ _ _ => by simp) (fun _ _ _ => by simp) (fun _ _ _ _ _ => by simp) s report

@[simp] theorem State.admitKeepalive_frame (s : State) (report : Report) :
    (s.admitKeepalive report).pending = s.pending ∧ (s.admitKeepalive report).pins = s.pins ∧
    (s.admitKeepalive report).part = s.part ∧ (s.admitKeepalive report).settings = s.settings ∧
    (s.admitKeepalive report).intake = s.intake ∧ (s.admitKeepalive report).time.counter = s.time.counter ∧
    (s.admitKeepalive report).time.syncEdge = s.time.syncEdge ∧
    (s.admitKeepalive report).forwarder.waiting = s.forwarder.waiting ∧
    (s.admitKeepalive report).forwarder.stalled = s.forwarder.stalled ∧
    (s.admitKeepalive report).forwarder.toInitiator = s.forwarder.toInitiator := by
  and_intros <;>
    (simp only [State.admitKeepalive]
     (repeat' split) <;> simp)

@[simp] theorem State.admit_frame (s : State) (found : Option Nat) (report : Report) :
    (s.admitReport found report).pending = s.pending ∧ (s.admitReport found report).pins = s.pins ∧
    (s.admitReport found report).part = s.part ∧ (s.admitReport found report).settings = s.settings ∧
    (s.admitReport found report).intake = s.intake ∧ (s.admitReport found report).time.counter = s.time.counter ∧
    (s.admitReport found report).time.syncEdge = s.time.syncEdge ∧
    (s.admitReport found report).forwarder.waiting = s.forwarder.waiting ∧
    (s.admitReport found report).forwarder.stalled = s.forwarder.stalled ∧
    (s.admitReport found report).forwarder.toInitiator = s.forwarder.toInitiator := by
  and_intros <;>
    (simp only [State.admitReport, State.goOn]
     (repeat' split) <;> simp)

@[simp] theorem State.takeHead_frame (s : State) :
    (s.takeHead).pending = s.pending ∧ (s.takeHead).pins = s.pins ∧ (s.takeHead).part = s.part ∧
    (s.takeHead).settings = s.settings ∧ (s.takeHead).time.counter = s.time.counter ∧
    (s.takeHead).time.syncEdge = s.time.syncEdge ∧ (s.takeHead).forwarder.waiting = s.forwarder.waiting ∧
    (s.takeHead).forwarder.stalled = s.forwarder.stalled ∧
    (s.takeHead).forwarder.toInitiator = s.forwarder.toInitiator := by
  and_intros <;>
    (simp only [State.takeHead, State.goOn]
     (repeat' split) <;> simp)

@[simp] theorem State.completeNoted_frame (s : State) :
    (s.completeNoted).pending = s.pending ∧ (s.completeNoted).pins = s.pins ∧ (s.completeNoted).part = s.part ∧
    (s.completeNoted).settings = s.settings ∧ (s.completeNoted).intake = s.intake ∧
    (s.completeNoted).time.counter = s.time.counter ∧ (s.completeNoted).time.syncEdge = s.time.syncEdge ∧
    (s.completeNoted).forwarder.waiting = s.forwarder.waiting ∧
    (s.completeNoted).forwarder.stalled = s.forwarder.stalled ∧
    (s.completeNoted).forwarder.toInitiator = s.forwarder.toInitiator := by
  and_intros <;>
    (simp only [State.completeNoted]
     (repeat' split) <;> simp)

@[simp] theorem State.rearmAfterSilent_frame (s : State) (index : Nat) (a : Table Word) (v : Verdict) (before :
    StationState) :
    (s.rearmAfterSilent index a v before).pending = s.pending ∧ (s.rearmAfterSilent index a v before).pins = s.pins ∧
    (s.rearmAfterSilent index a v before).part = s.part ∧
    (s.rearmAfterSilent index a v before).forwarder = s.forwarder ∧
    (s.rearmAfterSilent index a v before).own = s.own ∧ (s.rearmAfterSilent index a v before).settings = s.settings ∧
    (s.rearmAfterSilent index a v before).intake = s.intake ∧
    (s.rearmAfterSilent index a v before).flight = s.flight ∧ (s.rearmAfterSilent index a v before).table = s.table ∧
    (s.rearmAfterSilent index a v before).slotMap = s.slotMap ∧
    (s.rearmAfterSilent index a v before).events = s.events ∧ (s.rearmAfterSilent index a v before).now = s.now ∧
    (s.rearmAfterSilent index a v before).time.counter = s.time.counter ∧
    (s.rearmAfterSilent index a v before).time.syncEdge = s.time.syncEdge ∧
    (s.rearmAfterSilent index a v before).time.ageingTimer = s.time.ageingTimer := by
  and_intros <;>
    (simp only [State.rearmAfterSilent]
     (repeat' split) <;> simp)

@[simp] theorem State.setFallback_frame (s : State) (f : Fallback) :
    (s.setFallback f).pending = s.pending ∧ (s.setFallback f).pins = s.pins ∧ (s.setFallback f).part = s.part ∧
    (s.setFallback f).forwarder = s.forwarder ∧ (s.setFallback f).settings = s.settings ∧
    (s.setFallback f).intake = s.intake ∧ (s.setFallback f).flight = s.flight ∧ (s.setFallback f).table = s.table ∧
    (s.setFallback f).slotMap = s.slotMap ∧ (s.setFallback f).time = s.time ∧
    (s.setFallback f).own.outstanding = s.own.outstanding ∧ (s.setFallback f).own.nextTag = s.own.nextTag ∧
    (s.setFallback f).events.consumer = s.events.consumer ∧ (s.setFallback f).now.cause = s.now.cause := by
  and_intros <;>
    (simp only [State.setFallback]
     (repeat' split) <;> simp)

@[simp] theorem State.completeFull_frame (s : State) :
    (s.completeFull).pending = s.pending ∧ (s.completeFull).pins = s.pins ∧ (s.completeFull).part = s.part ∧
    (s.completeFull).settings = s.settings ∧ (s.completeFull).intake = s.intake ∧
    (s.completeFull).time.counter = s.time.counter ∧ (s.completeFull).time.syncEdge = s.time.syncEdge ∧
    (s.completeFull).forwarder.waiting = s.forwarder.waiting ∧
    (s.completeFull).forwarder.stalled = s.forwarder.stalled ∧
    (s.completeFull).forwarder.toInitiator = s.forwarder.toInitiator := by
  and_intros <;>
    (simp only [State.completeFull]
     (repeat' split) <;> simp)

@[simp] theorem State.expireSilence_frame (s : State) (index : Nat) (stage : Stage) (expiry : Time) :
    (s.expireSilence index stage expiry).pending = s.pending ∧ (s.expireSilence index stage expiry).pins = s.pins ∧
    (s.expireSilence index stage expiry).part = s.part ∧ (s.expireSilence index stage expiry).settings = s.settings ∧
    (s.expireSilence index stage expiry).intake = s.intake ∧
    (s.expireSilence index stage expiry).time.counter = s.time.counter ∧
    (s.expireSilence index stage expiry).time.syncEdge = s.time.syncEdge ∧
    (s.expireSilence index stage expiry).forwarder.waiting = s.forwarder.waiting ∧
    (s.expireSilence index stage expiry).forwarder.stalled = s.forwarder.stalled ∧
    (s.expireSilence index stage expiry).forwarder.toInitiator = s.forwarder.toInitiator := by
  and_intros <;>
    (simp only [State.expireSilence]
     (repeat' split) <;> simp)

@[simp] theorem State.expireConfirm_frame (s : State) (index : Nat) (expiry : Time) :
    (s.expireConfirm index expiry).pending = s.pending ∧ (s.expireConfirm index expiry).pins = s.pins ∧
    (s.expireConfirm index expiry).part = s.part ∧ (s.expireConfirm index expiry).settings = s.settings ∧
    (s.expireConfirm index expiry).intake = s.intake ∧ (s.expireConfirm index expiry).time.counter = s.time.counter ∧
    (s.expireConfirm index expiry).time.syncEdge = s.time.syncEdge ∧
    (s.expireConfirm index expiry).forwarder.waiting = s.forwarder.waiting ∧
    (s.expireConfirm index expiry).forwarder.stalled = s.forwarder.stalled ∧
    (s.expireConfirm index expiry).forwarder.toInitiator = s.forwarder.toInitiator := by
  and_intros <;>
    (simp only [State.expireConfirm]
     (repeat' split) <;> simp)

@[simp] theorem State.takeDeadline_frame (s : State) (d : Deadline) :
    (s.takeDeadline d).pending = s.pending ∧ (s.takeDeadline d).pins = s.pins ∧ (s.takeDeadline d).part = s.part ∧
    (s.takeDeadline d).forwarder = s.forwarder ∧ (s.takeDeadline d).own = s.own ∧
    (s.takeDeadline d).settings = s.settings ∧ (s.takeDeadline d).intake = s.intake ∧
    (s.takeDeadline d).flight = s.flight ∧ (s.takeDeadline d).table = s.table ∧
    (s.takeDeadline d).slotMap = s.slotMap ∧ (s.takeDeadline d).events = s.events ∧ (s.takeDeadline d).now = s.now ∧
    (s.takeDeadline d).time.counter = s.time.counter ∧ (s.takeDeadline d).time.syncEdge = s.time.syncEdge ∧
    (s.takeDeadline d).time.ageingTimer = s.time.ageingTimer :=
  ⟨rfl, rfl, rfl, rfl, rfl, rfl, rfl, rfl, rfl, rfl, rfl, rfl, rfl, rfl, rfl⟩

@[simp] theorem State.fireSilence_frame (s : State) :
    (s.fireSilence).pending = s.pending ∧ (s.fireSilence).pins = s.pins ∧ (s.fireSilence).part = s.part ∧
    (s.fireSilence).settings = s.settings ∧ (s.fireSilence).intake = s.intake ∧
    (s.fireSilence).time.counter = s.time.counter ∧ (s.fireSilence).time.syncEdge = s.time.syncEdge ∧
    (s.fireSilence).forwarder.waiting = s.forwarder.waiting ∧
    (s.fireSilence).forwarder.stalled = s.forwarder.stalled ∧
    (s.fireSilence).forwarder.toInitiator = s.forwarder.toInitiator := by
  and_intros <;>
    (simp only [State.fireSilence]
     (repeat' split) <;> simp)

@[simp] theorem State.fireConfirm_frame (s : State) :
    (s.fireConfirm).pending = s.pending ∧ (s.fireConfirm).pins = s.pins ∧ (s.fireConfirm).part = s.part ∧
    (s.fireConfirm).settings = s.settings ∧ (s.fireConfirm).intake = s.intake ∧
    (s.fireConfirm).time.counter = s.time.counter ∧ (s.fireConfirm).time.syncEdge = s.time.syncEdge ∧
    (s.fireConfirm).forwarder.waiting = s.forwarder.waiting ∧
    (s.fireConfirm).forwarder.stalled = s.forwarder.stalled ∧
    (s.fireConfirm).forwarder.toInitiator = s.forwarder.toInitiator := by
  and_intros <;>
    (simp only [State.fireConfirm]
     (repeat' split) <;> simp)

@[simp] theorem State.fireAgeingTimer_frame (s : State) :
    (s.fireAgeingTimer).pending = s.pending ∧ (s.fireAgeingTimer).pins = s.pins ∧ (s.fireAgeingTimer).part = s.part ∧
    (s.fireAgeingTimer).settings = s.settings ∧ (s.fireAgeingTimer).intake = s.intake ∧
    (s.fireAgeingTimer).time.counter = s.time.counter ∧ (s.fireAgeingTimer).time.syncEdge = s.time.syncEdge ∧
    (s.fireAgeingTimer).forwarder.waiting = s.forwarder.waiting ∧
    (s.fireAgeingTimer).forwarder.stalled = s.forwarder.stalled ∧
    (s.fireAgeingTimer).forwarder.toInitiator = s.forwarder.toInitiator := by
  and_intros <;>
    (simp only [State.fireAgeingTimer]
     split <;> simp)

/-! ### Apply -/

@[simp] theorem State.releaseSilently_frame (s : State) (index : Nat) :
    (s.releaseSilently index).pending = s.pending ∧ (s.releaseSilently index).pins = s.pins ∧
    (s.releaseSilently index).part = s.part ∧ (s.releaseSilently index).forwarder = s.forwarder ∧
    (s.releaseSilently index).settings = s.settings ∧ (s.releaseSilently index).intake = s.intake ∧
    (s.releaseSilently index).table.ageing = s.table.ageing ∧
    (s.releaseSilently index).time.counter = s.time.counter ∧
    (s.releaseSilently index).time.syncEdge = s.time.syncEdge ∧
    (s.releaseSilently index).time.ageingTimer = s.time.ageingTimer ∧
    (s.releaseSilently index).now.cause = s.now.cause ∧
    (s.releaseSilently index).own.outstanding = s.own.outstanding ∧
    (s.releaseSilently index).own.nextTag = s.own.nextTag := by
  and_intros <;>
    (simp only [State.releaseSilently]
     (repeat' split) <;> simp)

@[simp] theorem State.foldl_releaseSilently_frame (s : State) (l : List Nat) :
    ((l.foldl State.releaseSilently s)).pending = s.pending ∧ ((l.foldl State.releaseSilently s)).pins = s.pins ∧
    ((l.foldl State.releaseSilently s)).part = s.part ∧ ((l.foldl State.releaseSilently s)).forwarder = s.forwarder ∧
    ((l.foldl State.releaseSilently s)).settings = s.settings ∧
    ((l.foldl State.releaseSilently s)).intake = s.intake ∧
    ((l.foldl State.releaseSilently s)).table.ageing = s.table.ageing ∧
    ((l.foldl State.releaseSilently s)).time.counter = s.time.counter ∧
    ((l.foldl State.releaseSilently s)).time.syncEdge = s.time.syncEdge ∧
    ((l.foldl State.releaseSilently s)).time.ageingTimer = s.time.ageingTimer ∧
    ((l.foldl State.releaseSilently s)).now.cause = s.now.cause ∧
    ((l.foldl State.releaseSilently s)).own.outstanding = s.own.outstanding ∧
    ((l.foldl State.releaseSilently s)).own.nextTag = s.own.nextTag := by
  refine ⟨?_, ?_, ?_, ?_, ?_, ?_, ?_, ?_, ?_, ?_, ?_, ?_, ?_⟩
  · exact foldl_leaves _ (fun t => t.pending) (fun t x => by simp) _ _
  · exact foldl_leaves _ (fun t => t.pins) (fun t x => by simp) _ _
  · exact foldl_leaves _ (fun t => t.part) (fun t x => by simp) _ _
  · exact foldl_leaves _ (fun t => t.forwarder) (fun t x => by simp) _ _
  · exact foldl_leaves _ (fun t => t.settings) (fun t x => by simp) _ _
  · exact foldl_leaves _ (fun t => t.intake) (fun t x => by simp) _ _
  · exact foldl_leaves _ (fun t => t.table.ageing) (fun t x => by simp) _ _
  · exact foldl_leaves _ (fun t => t.time.counter) (fun t x => by simp) _ _
  · exact foldl_leaves _ (fun t => t.time.syncEdge) (fun t x => by simp) _ _
  · exact foldl_leaves _ (fun t => t.time.ageingTimer) (fun t x => by simp) _ _
  · exact foldl_leaves _ (fun t => t.now.cause) (fun t x => by simp) _ _
  · exact foldl_leaves _ (fun t => t.own.outstanding) (fun t x => by simp) _ _
  · exact foldl_leaves _ (fun t => t.own.nextTag) (fun t x => by simp) _ _

@[simp] theorem State.closeChannel_frame (s : State) (channel : Nat) (cause : Nat) :
    (s.closeChannel channel cause).pending = s.pending ∧ (s.closeChannel channel cause).pins = s.pins ∧
    (s.closeChannel channel cause).part = s.part ∧
    (s.closeChannel channel cause).settings.staging = s.settings.staging ∧
    (s.closeChannel channel cause).settings.draining = s.settings.draining ∧
    (s.closeChannel channel cause).time.counter = s.time.counter ∧
    (s.closeChannel channel cause).time.syncEdge = s.time.syncEdge ∧
    (s.closeChannel channel cause).forwarder.waiting = s.forwarder.waiting ∧
    (s.closeChannel channel cause).forwarder.stalled = s.forwarder.stalled ∧
    (s.closeChannel channel cause).forwarder.toInitiator = s.forwarder.toInitiator := by
  and_intros <;>
    (simp only [State.closeChannel]
     (repeat' split) <;> simp)

@[simp] theorem State.returnToReady_frame (s : State) (index : Nat) :
    (s.returnToReady index).pending = s.pending ∧ (s.returnToReady index).pins = s.pins ∧
    (s.returnToReady index).part = s.part ∧ (s.returnToReady index).settings = s.settings ∧
    (s.returnToReady index).intake = s.intake ∧ (s.returnToReady index).time.counter = s.time.counter ∧
    (s.returnToReady index).time.syncEdge = s.time.syncEdge ∧
    (s.returnToReady index).time.ageingTimer = s.time.ageingTimer ∧ (s.returnToReady index).now.cause = s.now.cause ∧
    (s.returnToReady index).forwarder.waiting = s.forwarder.waiting ∧
    (s.returnToReady index).forwarder.stalled = s.forwarder.stalled ∧
    (s.returnToReady index).forwarder.toInitiator = s.forwarder.toInitiator := by
  and_intros <;>
    (simp only [State.returnToReady]
     (repeat' split) <;> simp)

@[simp] theorem State.foldl_returnToReady_frame (s : State) (l : List Nat) :
    ((l.foldl State.returnToReady s)).pending = s.pending ∧ ((l.foldl State.returnToReady s)).pins = s.pins ∧
    ((l.foldl State.returnToReady s)).part = s.part ∧ ((l.foldl State.returnToReady s)).settings = s.settings ∧
    ((l.foldl State.returnToReady s)).intake = s.intake ∧
    ((l.foldl State.returnToReady s)).time.counter = s.time.counter ∧
    ((l.foldl State.returnToReady s)).time.syncEdge = s.time.syncEdge ∧
    ((l.foldl State.returnToReady s)).time.ageingTimer = s.time.ageingTimer ∧
    ((l.foldl State.returnToReady s)).now.cause = s.now.cause ∧
    ((l.foldl State.returnToReady s)).forwarder.waiting = s.forwarder.waiting ∧
    ((l.foldl State.returnToReady s)).forwarder.stalled = s.forwarder.stalled ∧
    ((l.foldl State.returnToReady s)).forwarder.toInitiator = s.forwarder.toInitiator := by
  refine ⟨?_, ?_, ?_, ?_, ?_, ?_, ?_, ?_, ?_, ?_, ?_, ?_⟩
  · exact foldl_leaves _ (fun t => t.pending) (fun t x => by simp) _ _
  · exact foldl_leaves _ (fun t => t.pins) (fun t x => by simp) _ _
  · exact foldl_leaves _ (fun t => t.part) (fun t x => by simp) _ _
  · exact foldl_leaves _ (fun t => t.settings) (fun t x => by simp) _ _
  · exact foldl_leaves _ (fun t => t.intake) (fun t x => by simp) _ _
  · exact foldl_leaves _ (fun t => t.time.counter) (fun t x => by simp) _ _
  · exact foldl_leaves _ (fun t => t.time.syncEdge) (fun t x => by simp) _ _
  · exact foldl_leaves _ (fun t => t.time.ageingTimer) (fun t x => by simp) _ _
  · exact foldl_leaves _ (fun t => t.now.cause) (fun t x => by simp) _ _
  · exact foldl_leaves _ (fun t => t.forwarder.waiting) (fun t x => by simp) _ _
  · exact foldl_leaves _ (fun t => t.forwarder.stalled) (fun t x => by simp) _ _
  · exact foldl_leaves _ (fun t => t.forwarder.toInitiator) (fun t x => by simp) _ _

@[simp] theorem State.clearSlotMap_frame (s : State) :
    (s.clearSlotMap).pending = s.pending ∧ (s.clearSlotMap).pins = s.pins ∧ (s.clearSlotMap).part = s.part ∧
    (s.clearSlotMap).settings = s.settings ∧ (s.clearSlotMap).intake = s.intake ∧
    (s.clearSlotMap).time.counter = s.time.counter ∧ (s.clearSlotMap).time.syncEdge = s.time.syncEdge ∧
    (s.clearSlotMap).time.ageingTimer = s.time.ageingTimer ∧ (s.clearSlotMap).now.cause = s.now.cause ∧
    (s.clearSlotMap).forwarder.waiting = s.forwarder.waiting ∧
    (s.clearSlotMap).forwarder.stalled = s.forwarder.stalled ∧
    (s.clearSlotMap).forwarder.toInitiator = s.forwarder.toInitiator := by
  and_intros <;> simp [State.clearSlotMap]

@[simp] theorem State.foldl_closeChannel_frame (s : State) (l : List Nat) :
    ((l.foldl (fun u c => u.closeChannel c 2) s)).pending = s.pending ∧
    ((l.foldl (fun u c => u.closeChannel c 2) s)).pins = s.pins ∧
    ((l.foldl (fun u c => u.closeChannel c 2) s)).part = s.part ∧
    ((l.foldl (fun u c => u.closeChannel c 2) s)).settings.staging = s.settings.staging ∧
    ((l.foldl (fun u c => u.closeChannel c 2) s)).settings.draining = s.settings.draining ∧
    ((l.foldl (fun u c => u.closeChannel c 2) s)).time.counter = s.time.counter ∧
    ((l.foldl (fun u c => u.closeChannel c 2) s)).time.syncEdge = s.time.syncEdge ∧
    ((l.foldl (fun u c => u.closeChannel c 2) s)).forwarder.waiting = s.forwarder.waiting ∧
    ((l.foldl (fun u c => u.closeChannel c 2) s)).forwarder.stalled = s.forwarder.stalled ∧
    ((l.foldl (fun u c => u.closeChannel c 2) s)).forwarder.toInitiator = s.forwarder.toInitiator := by
  refine ⟨?_, ?_, ?_, ?_, ?_, ?_, ?_, ?_, ?_, ?_⟩
  · exact foldl_leaves _ (fun t => t.pending) (fun t x => by simp) _ _
  · exact foldl_leaves _ (fun t => t.pins) (fun t x => by simp) _ _
  · exact foldl_leaves _ (fun t => t.part) (fun t x => by simp) _ _
  · exact foldl_leaves _ (fun t => t.settings.staging) (fun t x => by simp) _ _
  · exact foldl_leaves _ (fun t => t.settings.draining) (fun t x => by simp) _ _
  · exact foldl_leaves _ (fun t => t.time.counter) (fun t x => by simp) _ _
  · exact foldl_leaves _ (fun t => t.time.syncEdge) (fun t x => by simp) _ _
  · exact foldl_leaves _ (fun t => t.forwarder.waiting) (fun t x => by simp) _ _
  · exact foldl_leaves _ (fun t => t.forwarder.stalled) (fun t x => by simp) _ _
  · exact foldl_leaves _ (fun t => t.forwarder.toInitiator) (fun t x => by simp) _ _

@[simp] theorem State.foldl_openChannel_frame (s : State) (l : List Nat) :
    ((l.foldl State.openChannel s)).pending = s.pending ∧ ((l.foldl State.openChannel s)).pins = s.pins ∧
    ((l.foldl State.openChannel s)).part = s.part ∧ ((l.foldl State.openChannel s)).forwarder = s.forwarder ∧
    ((l.foldl State.openChannel s)).own = s.own ∧ ((l.foldl State.openChannel s)).settings = s.settings ∧
    ((l.foldl State.openChannel s)).flight = s.flight ∧ ((l.foldl State.openChannel s)).table = s.table ∧
    ((l.foldl State.openChannel s)).slotMap = s.slotMap ∧ ((l.foldl State.openChannel s)).time = s.time ∧
    ((l.foldl State.openChannel s)).events = s.events ∧ ((l.foldl State.openChannel s)).now = s.now ∧
    ((l.foldl State.openChannel s)).intake.queue = s.intake.queue := by
  refine ⟨?_, ?_, ?_, ?_, ?_, ?_, ?_, ?_, ?_, ?_, ?_, ?_, ?_⟩
  · exact foldl_leaves _ (fun t => t.pending) (fun t x => by simp) _ _
  · exact foldl_leaves _ (fun t => t.pins) (fun t x => by simp) _ _
  · exact foldl_leaves _ (fun t => t.part) (fun t x => by simp) _ _
  · exact foldl_leaves _ (fun t => t.forwarder) (fun t x => by simp) _ _
  · exact foldl_leaves _ (fun t => t.own) (fun t x => by simp) _ _
  · exact foldl_leaves _ (fun t => t.settings) (fun t x => by simp) _ _
  · exact foldl_leaves _ (fun t => t.flight) (fun t x => by simp) _ _
  · exact foldl_leaves _ (fun t => t.table) (fun t x => by simp) _ _
  · exact foldl_leaves _ (fun t => t.slotMap) (fun t x => by simp) _ _
  · exact foldl_leaves _ (fun t => t.time) (fun t x => by simp) _ _
  · exact foldl_leaves _ (fun t => t.events) (fun t x => by simp) _ _
  · exact foldl_leaves _ (fun t => t.now) (fun t x => by simp) _ _
  · exact foldl_leaves _ (fun t => t.intake.queue) (fun t x => by simp) _ _

@[simp] theorem State.adoptSettings_frame (s : State) :
    (s.adoptSettings).pending = s.pending ∧ (s.adoptSettings).pins = s.pins ∧
    (s.adoptSettings).settings.staging = s.settings.staging ∧
    (s.adoptSettings).settings.draining = s.settings.draining ∧ (s.adoptSettings).time.counter = s.time.counter ∧
    (s.adoptSettings).time.syncEdge = s.time.syncEdge ∧ (s.adoptSettings).forwarder.waiting = s.forwarder.waiting ∧
    (s.adoptSettings).forwarder.stalled = s.forwarder.stalled ∧
    (s.adoptSettings).forwarder.toInitiator = s.forwarder.toInitiator := by
  and_intros <;>
    (simp only [State.adoptSettings]
     (repeat' split) <;> simp)

@[simp] theorem State.applySettings_frame (s : State) (q : BitVec 16) :
    (s.applySettings q).pending = s.pending ∧ (s.applySettings q).pins = s.pins ∧
    (s.applySettings q).settings.staging = s.settings.staging ∧
    (s.applySettings q).settings.draining = s.settings.draining ∧ (s.applySettings q).time.counter = s.time.counter ∧
    (s.applySettings q).time.syncEdge = s.time.syncEdge ∧
    (s.applySettings q).forwarder.waiting = s.forwarder.waiting ∧
    (s.applySettings q).forwarder.stalled = s.forwarder.stalled ∧
    (s.applySettings q).forwarder.toInitiator = s.forwarder.toInitiator := by
  and_intros <;>
    (simp only [State.applySettings]
     (repeat' split) <;> simp)

/-! ### Commands -/

end Sys2Proof.Machine
end

