-- ==== Sys2Proof/Laws/Steps.lean ====
section
/-!
SUPPORT. What commands, requests and the memory port leave as it was, and how a step ends.
-/

namespace Sys2Proof.Machine

/-! ### Commands -/

@[simp] theorem State.findStation_frame (s : State) (n : StationName) :
    ((s.findStation n).1).pending = s.pending ∧ ((s.findStation n).1).pins = s.pins ∧
    ((s.findStation n).1).part = s.part ∧ ((s.findStation n).1).settings = s.settings ∧
    ((s.findStation n).1).intake = s.intake ∧ ((s.findStation n).1).time.counter = s.time.counter ∧
    ((s.findStation n).1).time.syncEdge = s.time.syncEdge ∧
    ((s.findStation n).1).forwarder.waiting = s.forwarder.waiting ∧
    ((s.findStation n).1).forwarder.stalled = s.forwarder.stalled ∧
    ((s.findStation n).1).forwarder.toInitiator = s.forwarder.toInitiator ∧
    ((s.findStation n).1).now.cause = s.now.cause := by
  and_intros <;>
    (simp only [State.findStation]
     (repeat' split) <;> simp)

/-- What a lookup of a station leaves, whatever it finds. -/
theorem State.findStation_leaves {α : Type} (g : State → α) (hl : ∀ t k time, g (State.lookup t k time).1 = g t)
    (hs : ∀ t, g (State.settleHeld t) = g t) (s : State) (n : StationName) : g (s.findStation n).1 = g s := by
  unfold State.findStation
  split
  · rfl
  · exact (hs _).trans (hl _ _ _)

@[simp] theorem State.stationDrop_frame (s : State) (n : StationName) :
    ((s.stationDrop n).1).pending = s.pending ∧ ((s.stationDrop n).1).pins = s.pins ∧
    ((s.stationDrop n).1).part = s.part ∧ ((s.stationDrop n).1).settings = s.settings ∧
    ((s.stationDrop n).1).intake = s.intake ∧ ((s.stationDrop n).1).time.counter = s.time.counter ∧
    ((s.stationDrop n).1).time.syncEdge = s.time.syncEdge ∧
    ((s.stationDrop n).1).forwarder.waiting = s.forwarder.waiting ∧
    ((s.stationDrop n).1).forwarder.stalled = s.forwarder.stalled ∧
    ((s.stationDrop n).1).forwarder.toInitiator = s.forwarder.toInitiator := by
  and_intros <;>
    (simp only [State.stationDrop]
     split
     · rfl
     · have e := (State.findStation_frame s n)
       cases h : s.findStation n with
       | mk t o =>
         simp only [h] at e
         cases o <;> simp [e])

@[simp] theorem State.stationRestart_frame (s : State) (n : StationName) :
    ((s.stationRestart n).1).pending = s.pending ∧ ((s.stationRestart n).1).pins = s.pins ∧
    ((s.stationRestart n).1).part = s.part ∧ ((s.stationRestart n).1).settings = s.settings ∧
    ((s.stationRestart n).1).intake = s.intake ∧ ((s.stationRestart n).1).time.counter = s.time.counter ∧
    ((s.stationRestart n).1).time.syncEdge = s.time.syncEdge ∧
    ((s.stationRestart n).1).forwarder.waiting = s.forwarder.waiting ∧
    ((s.stationRestart n).1).forwarder.stalled = s.forwarder.stalled ∧
    ((s.stationRestart n).1).forwarder.toInitiator = s.forwarder.toInitiator := by
  and_intros <;>
    (simp only [State.stationRestart]
     split
     · rfl
     · have e := (State.findStation_frame s n)
       cases h : s.findStation n with
       | mk t o =>
         simp only [h] at e
         cases o <;> simp [e])

@[simp] theorem State.moveStation_frame (s : State) (source : Nat) (c : Context) (target : Key) :
    (s.moveStation source c target).pending = s.pending ∧ (s.moveStation source c target).pins = s.pins ∧
    (s.moveStation source c target).part = s.part ∧ (s.moveStation source c target).settings = s.settings ∧
    (s.moveStation source c target).intake = s.intake ∧
    (s.moveStation source c target).time.counter = s.time.counter ∧
    (s.moveStation source c target).time.syncEdge = s.time.syncEdge ∧
    (s.moveStation source c target).forwarder.waiting = s.forwarder.waiting ∧
    (s.moveStation source c target).forwarder.stalled = s.forwarder.stalled ∧
    (s.moveStation source c target).forwarder.toInitiator = s.forwarder.toInitiator := by
  and_intros <;>
    (unfold State.moveStation
     dsimp only
     split <;> simp)

@[simp] theorem State.stationMove_frame (s : State) (origin : StationName) (target : StationName) :
    ((s.stationMove origin target).1).pending = s.pending ∧ ((s.stationMove origin target).1).pins = s.pins ∧
    ((s.stationMove origin target).1).part = s.part ∧ ((s.stationMove origin target).1).settings = s.settings ∧
    ((s.stationMove origin target).1).intake = s.intake ∧
    ((s.stationMove origin target).1).time.counter = s.time.counter ∧
    ((s.stationMove origin target).1).time.syncEdge = s.time.syncEdge ∧
    ((s.stationMove origin target).1).forwarder.waiting = s.forwarder.waiting ∧
    ((s.stationMove origin target).1).forwarder.stalled = s.forwarder.stalled ∧
    ((s.stationMove origin target).1).forwarder.toInitiator = s.forwarder.toInitiator := by
  and_intros <;>
    (simp only [State.stationMove]
     split
     · rfl
     · have e := State.findStation_frame s origin
       cases h : s.findStation origin with
       | mk t o =>
         simp only [h] at e
         cases o with
         | none => simp [e]
         | some source =>
           have e2 := State.findStation_frame t target
           cases h2 : t.findStation target with
           | mk u o2 =>
             simp only [h2] at e2
             cases o2 with
             | some _ => simp [e, e2, h2]
             | none =>
               simp only [h2]
               (repeat' split) <;> simp [e, e2])

@[simp] theorem State.channelClose_frame (s : State) (field : Nat) :
    ((s.channelClose field).1).pending = s.pending ∧ ((s.channelClose field).1).pins = s.pins ∧
    ((s.channelClose field).1).part = s.part ∧ ((s.channelClose field).1).settings.staging = s.settings.staging ∧
    ((s.channelClose field).1).settings.draining = s.settings.draining ∧
    ((s.channelClose field).1).time.counter = s.time.counter ∧
    ((s.channelClose field).1).time.syncEdge = s.time.syncEdge ∧
    ((s.channelClose field).1).forwarder.waiting = s.forwarder.waiting ∧
    ((s.channelClose field).1).forwarder.stalled = s.forwarder.stalled ∧
    ((s.channelClose field).1).forwarder.toInitiator = s.forwarder.toInitiator := by
  and_intros <;>
    (simp only [State.channelClose]
     (repeat' split) <;> simp)

@[simp] theorem State.errorClear_frame (s : State) (argument : Word) :
    (s.errorClear argument).pending = s.pending ∧ (s.errorClear argument).pins = s.pins ∧
    (s.errorClear argument).part = s.part ∧ (s.errorClear argument).forwarder = s.forwarder ∧
    (s.errorClear argument).settings = s.settings ∧ (s.errorClear argument).intake = s.intake ∧
    (s.errorClear argument).flight = s.flight ∧ (s.errorClear argument).slotMap = s.slotMap ∧
    (s.errorClear argument).time = s.time ∧ (s.errorClear argument).now = s.now ∧
    (s.errorClear argument).own.outstanding = s.own.outstanding ∧
    (s.errorClear argument).own.nextTag = s.own.nextTag ∧ (s.errorClear argument).table.contexts = s.table.contexts ∧
    (s.errorClear argument).table.directory = s.table.directory ∧
    (s.errorClear argument).table.ageing = s.table.ageing ∧
    (s.errorClear argument).events.holding = s.events.holding ∧
    (s.errorClear argument).events.producer = s.events.producer ∧
    (s.errorClear argument).events.consumer = s.events.consumer ∧
    (s.errorClear argument).events.mark = s.events.mark ∧
    (s.errorClear argument).events.sequence = s.events.sequence ∧
    (s.errorClear argument).events.lost = s.events.lost ∧
    (s.errorClear argument).events.applyResult = s.events.applyResult ∧
    (s.errorClear argument).events.commandResult = s.events.commandResult := by
  and_intros <;>
    (simp only [State.errorClear]
     (repeat' split) <;> simp)

@[simp] theorem State.drainAnswer_frame (s : State) (q : BitVec 16) :
    (s.drainAnswer q).pending = s.pending ∧ (s.drainAnswer q).pins = s.pins ∧ (s.drainAnswer q).part = s.part ∧
    (s.drainAnswer q).forwarder = s.forwarder ∧ (s.drainAnswer q).intake = s.intake ∧
    (s.drainAnswer q).flight = s.flight ∧ (s.drainAnswer q).table = s.table ∧ (s.drainAnswer q).slotMap = s.slotMap ∧
    (s.drainAnswer q).time = s.time ∧ (s.drainAnswer q).now = s.now ∧
    (s.drainAnswer q).settings.staging = s.settings.staging ∧ (s.drainAnswer q).settings.active = s.settings.active ∧
    (s.drainAnswer q).own.outstanding = s.own.outstanding ∧ (s.drainAnswer q).events.holding = s.events.holding ∧
    (s.drainAnswer q).events.errors = s.events.errors :=
  ⟨rfl, rfl, rfl, rfl, rfl, rfl, rfl, rfl, rfl, rfl, rfl, rfl, rfl, rfl, rfl⟩

@[simp] theorem State.startDrain_frame (s : State) (q : BitVec 16) :
    (s.startDrain q).pending = s.pending ∧ (s.startDrain q).pins = s.pins ∧ (s.startDrain q).part = s.part ∧
    (s.startDrain q).forwarder = s.forwarder ∧ (s.startDrain q).intake = s.intake ∧
    (s.startDrain q).flight = s.flight ∧ (s.startDrain q).table = s.table ∧ (s.startDrain q).slotMap = s.slotMap ∧
    (s.startDrain q).time = s.time ∧ (s.startDrain q).now = s.now ∧
    (s.startDrain q).settings.staging = s.settings.staging ∧ (s.startDrain q).settings.active = s.settings.active ∧
    (s.startDrain q).own.outstanding = s.own.outstanding ∧ (s.startDrain q).events.holding = s.events.holding ∧
    (s.startDrain q).events.errors = s.events.errors := by
  and_intros <;>
    (simp only [State.startDrain]
     (repeat' split) <;> simp)

@[simp] theorem State.finishDrain_frame (s : State) :
    (s.finishDrain).pending = s.pending ∧ (s.finishDrain).pins = s.pins ∧ (s.finishDrain).part = s.part ∧
    (s.finishDrain).forwarder = s.forwarder ∧ (s.finishDrain).intake = s.intake ∧ (s.finishDrain).flight = s.flight ∧
    (s.finishDrain).table = s.table ∧ (s.finishDrain).slotMap = s.slotMap ∧ (s.finishDrain).time = s.time ∧
    (s.finishDrain).now = s.now ∧ (s.finishDrain).settings.staging = s.settings.staging ∧
    (s.finishDrain).settings.active = s.settings.active ∧ (s.finishDrain).own.outstanding = s.own.outstanding ∧
    (s.finishDrain).events.holding = s.events.holding ∧ (s.finishDrain).events.errors = s.events.errors := by
  and_intros <;>
    (simp only [State.finishDrain]
     (repeat' split) <;> simp)

@[simp] theorem State.foldl_issueStatus_frame (s : State) (l : List Nat) :
    ((l.foldl State.issueStatus s)).pending = s.pending ∧ ((l.foldl State.issueStatus s)).pins = s.pins ∧
    ((l.foldl State.issueStatus s)).part = s.part ∧ ((l.foldl State.issueStatus s)).forwarder = s.forwarder ∧
    ((l.foldl State.issueStatus s)).settings = s.settings ∧ ((l.foldl State.issueStatus s)).intake = s.intake ∧
    ((l.foldl State.issueStatus s)).flight = s.flight ∧ ((l.foldl State.issueStatus s)).table = s.table ∧
    ((l.foldl State.issueStatus s)).slotMap = s.slotMap ∧ ((l.foldl State.issueStatus s)).time = s.time ∧
    ((l.foldl State.issueStatus s)).events = s.events ∧ ((l.foldl State.issueStatus s)).now = s.now ∧
    ((l.foldl State.issueStatus s)).own.outstanding = s.own.outstanding ∧
    ((l.foldl State.issueStatus s)).own.nextTag = s.own.nextTag := by
  refine ⟨?_, ?_, ?_, ?_, ?_, ?_, ?_, ?_, ?_, ?_, ?_, ?_, ?_, ?_⟩
  · exact foldl_leaves _ (fun t => t.pending) (fun t x => by simp) _ _
  · exact foldl_leaves _ (fun t => t.pins) (fun t x => by simp) _ _
  · exact foldl_leaves _ (fun t => t.part) (fun t x => by simp) _ _
  · exact foldl_leaves _ (fun t => t.forwarder) (fun t x => by simp) _ _
  · exact foldl_leaves _ (fun t => t.settings) (fun t x => by simp) _ _
  · exact foldl_leaves _ (fun t => t.intake) (fun t x => by simp) _ _
  · exact foldl_leaves _ (fun t => t.flight) (fun t x => by simp) _ _
  · exact foldl_leaves _ (fun t => t.table) (fun t x => by simp) _ _
  · exact foldl_leaves _ (fun t => t.slotMap) (fun t x => by simp) _ _
  · exact foldl_leaves _ (fun t => t.time) (fun t x => by simp) _ _
  · exact foldl_leaves _ (fun t => t.events) (fun t x => by simp) _ _
  · exact foldl_leaves _ (fun t => t.now) (fun t x => by simp) _ _
  · exact foldl_leaves _ (fun t => t.own.outstanding) (fun t x => by simp) _ _
  · exact foldl_leaves _ (fun t => t.own.nextTag) (fun t x => by simp) _ _

@[simp] theorem State.softReset_frame (s : State) (q : BitVec 16) :
    (s.softReset q).pending = s.pending ∧ (s.softReset q).pins = s.pins ∧
    (s.softReset q).settings.staging = s.settings.staging ∧ (s.softReset q).time.counter = s.time.counter ∧
    (s.softReset q).time.syncEdge = s.time.syncEdge ∧ (s.softReset q).forwarder.waiting = s.forwarder.waiting ∧
    (s.softReset q).forwarder.stalled = s.forwarder.stalled ∧
    (s.softReset q).forwarder.toInitiator = s.forwarder.toInitiator := by
  and_intros <;>
    (simp only [State.softReset, State.foldl_issueStatus_frame, State.commandAnswer_frame]
     split <;> simp)

@[simp] theorem State.answerCommand_frame (s : State) (code : Nat) (first : Word) (second : Word) :
    ((s.answerCommand code first second).1).pending = s.pending ∧
    ((s.answerCommand code first second).1).pins = s.pins ∧ ((s.answerCommand code first second).1).part = s.part ∧
    ((s.answerCommand code first second).1).settings.staging = s.settings.staging ∧
    ((s.answerCommand code first second).1).time.counter = s.time.counter ∧
    ((s.answerCommand code first second).1).time.syncEdge = s.time.syncEdge ∧
    ((s.answerCommand code first second).1).forwarder.waiting = s.forwarder.waiting ∧
    ((s.answerCommand code first second).1).forwarder.stalled = s.forwarder.stalled ∧
    ((s.answerCommand code first second).1).forwarder.toInitiator = s.forwarder.toInitiator := by
  and_intros <;>
    (simp only [State.answerCommand, State.whenRunning]
     (repeat' split) <;> simp)

@[simp] theorem State.takeCommand_frame (s : State) :
    (s.takeCommand).pending = s.pending ∧ (s.takeCommand).pins = s.pins ∧
    (s.takeCommand).settings.staging = s.settings.staging ∧ (s.takeCommand).time.counter = s.time.counter ∧
    (s.takeCommand).time.syncEdge = s.time.syncEdge ∧ (s.takeCommand).forwarder.waiting = s.forwarder.waiting ∧
    (s.takeCommand).forwarder.stalled = s.forwarder.stalled ∧
    (s.takeCommand).forwarder.toInitiator = s.forwarder.toInitiator := by
  and_intros <;>
    (simp only [State.takeCommand]
     (repeat' split) <;> simp)

@[simp] theorem State.takeApply_frame (s : State) :
    (s.takeApply).pending = s.pending ∧ (s.takeApply).pins = s.pins ∧
    (s.takeApply).settings.staging = s.settings.staging ∧ (s.takeApply).time.counter = s.time.counter ∧
    (s.takeApply).time.syncEdge = s.time.syncEdge ∧ (s.takeApply).forwarder.waiting = s.forwarder.waiting ∧
    (s.takeApply).forwarder.stalled = s.forwarder.stalled ∧
    (s.takeApply).forwarder.toInitiator = s.forwarder.toInitiator := by
  and_intros <;> simp [State.takeApply]

@[simp] theorem State.offerConsumer_frame (s : State) :
    (s.offerConsumer).pending = s.pending ∧ (s.offerConsumer).pins = s.pins ∧ (s.offerConsumer).part = s.part ∧
    (s.offerConsumer).forwarder = s.forwarder ∧ (s.offerConsumer).settings = s.settings ∧
    (s.offerConsumer).intake = s.intake ∧ (s.offerConsumer).flight = s.flight ∧ (s.offerConsumer).table = s.table ∧
    (s.offerConsumer).slotMap = s.slotMap ∧ (s.offerConsumer).time = s.time ∧ (s.offerConsumer).now = s.now ∧
    (s.offerConsumer).own.outstanding = s.own.outstanding ∧ (s.offerConsumer).own.nextTag = s.own.nextTag ∧
    (s.offerConsumer).events.errors = s.events.errors ∧
    (s.offerConsumer).events.firstPointer = s.events.firstPointer := by
  and_intros <;>
    (simp only [State.offerConsumer]
     (repeat' split) <;> simp)

/-- What an action and an entry to STOPPED leave, acting on a control word leaves. -/
theorem State.onControl_leaves {α : Type} (g : State → α) (hs : ∀ t, g (State.stopIfDue t) = g t) (s : State) (r : Request)
    (word : Nat) (f : State → State) (hf : ∀ t, g (f t) = g t) : g (s.onControl r word f) = g s := by
  unfold State.onControl
  split
  · exact (hs _).trans (hf _)
  · rfl

/-! ### Requests -/

@[simp] theorem State.settingsWrite_frame (s : State) (r : Request) :
    (s.settingsWrite r).pending = s.pending ∧ (s.settingsWrite r).pins = s.pins ∧
    (s.settingsWrite r).time.counter = s.time.counter ∧ (s.settingsWrite r).time.syncEdge = s.time.syncEdge ∧
    (s.settingsWrite r).forwarder.waiting = s.forwarder.waiting ∧
    (s.settingsWrite r).forwarder.stalled = s.forwarder.stalled ∧
    (s.settingsWrite r).forwarder.toInitiator = s.forwarder.toInitiator := by
  refine ⟨?_, ?_, ?_, ?_, ?_, ?_, ?_⟩
  · exact (by
    have h := fun u w f => State.onControl_leaves (fun t => t.pending) (fun t => by simp) u r w f
    unfold State.settingsWrite
    split
    · exact (h _ _ _ (fun t => by simp)).trans ((h _ _ _ (fun t => by simp)).trans ((h _ _ _ (fun t => by simp)).trans (by simp)))
    · rfl)
  · exact (by
    have h := fun u w f => State.onControl_leaves (fun t => t.pins) (fun t => by simp) u r w f
    unfold State.settingsWrite
    split
    · exact (h _ _ _ (fun t => by simp)).trans ((h _ _ _ (fun t => by simp)).trans ((h _ _ _ (fun t => by simp)).trans (by simp)))
    · rfl)
  · exact (by
    have h := fun u w f => State.onControl_leaves (fun t => t.time.counter) (fun t => by simp) u r w f
    unfold State.settingsWrite
    split
    · exact (h _ _ _ (fun t => by simp)).trans ((h _ _ _ (fun t => by simp)).trans ((h _ _ _ (fun t => by simp)).trans (by simp)))
    · rfl)
  · exact (by
    have h := fun u w f => State.onControl_leaves (fun t => t.time.syncEdge) (fun t => by simp) u r w f
    unfold State.settingsWrite
    split
    · exact (h _ _ _ (fun t => by simp)).trans ((h _ _ _ (fun t => by simp)).trans ((h _ _ _ (fun t => by simp)).trans (by simp)))
    · rfl)
  · exact (by
    have h := fun u w f => State.onControl_leaves (fun t => t.forwarder.waiting) (fun t => by simp) u r w f
    unfold State.settingsWrite
    split
    · exact (h _ _ _ (fun t => by simp)).trans ((h _ _ _ (fun t => by simp)).trans ((h _ _ _ (fun t => by simp)).trans (by simp)))
    · rfl)
  · exact (by
    have h := fun u w f => State.onControl_leaves (fun t => t.forwarder.stalled) (fun t => by simp) u r w f
    unfold State.settingsWrite
    split
    · exact (h _ _ _ (fun t => by simp)).trans ((h _ _ _ (fun t => by simp)).trans ((h _ _ _ (fun t => by simp)).trans (by simp)))
    · rfl)
  · exact (by
    have h := fun u w f => State.onControl_leaves (fun t => t.forwarder.toInitiator) (fun t => by simp) u r w f
    unfold State.settingsWrite
    split
    · exact (h _ _ _ (fun t => by simp)).trans ((h _ _ _ (fun t => by simp)).trans ((h _ _ _ (fun t => by simp)).trans (by simp)))
    · rfl)

@[simp] theorem State.blockWrite_frame (s : State) (r : Request) :
    (s.blockWrite r).pending = s.pending ∧ (s.blockWrite r).pins = s.pins ∧ (s.blockWrite r).part = s.part ∧
    (s.blockWrite r).settings = s.settings ∧ (s.blockWrite r).intake = s.intake ∧ (s.blockWrite r).flight = s.flight ∧
    (s.blockWrite r).table = s.table ∧ (s.blockWrite r).slotMap = s.slotMap ∧ (s.blockWrite r).time = s.time ∧
    (s.blockWrite r).forwarder.held = s.forwarder.held ∧ (s.blockWrite r).forwarder.waiting = s.forwarder.waiting ∧
    (s.blockWrite r).forwarder.stalled = s.forwarder.stalled ∧
    (s.blockWrite r).forwarder.inFlight = s.forwarder.inFlight ∧
    (s.blockWrite r).forwarder.nextSerial = s.forwarder.nextSerial ∧
    (s.blockWrite r).forwarder.toMemory = s.forwarder.toMemory ∧
    (s.blockWrite r).own.outstanding = s.own.outstanding ∧ (s.blockWrite r).own.nextTag = s.own.nextTag ∧
    (s.blockWrite r).events.consumer = s.events.consumer ∧ (s.blockWrite r).now.cause = s.now.cause := by
  and_intros <;> simp [State.blockWrite]

@[simp] theorem State.passWrite_frame (s : State) (r : Request) :
    (s.passWrite r).pending = s.pending ∧ (s.passWrite r).pins = s.pins ∧
    (s.passWrite r).time.counter = s.time.counter ∧ (s.passWrite r).time.syncEdge = s.time.syncEdge ∧
    (s.passWrite r).forwarder.waiting = s.forwarder.waiting ∧
    (s.passWrite r).forwarder.stalled = s.forwarder.stalled ∧
    (s.passWrite r).forwarder.toInitiator = s.forwarder.toInitiator := by
  and_intros <;> simp [State.passWrite]

@[simp] theorem State.deliver_frame (s : State) (slot : Nat) :
    (s.deliver slot).pending = s.pending ∧ (s.deliver slot).pins = s.pins ∧ (s.deliver slot).part = s.part ∧
    (s.deliver slot).settings = s.settings ∧ (s.deliver slot).intake = s.intake ∧
    (s.deliver slot).time.counter = s.time.counter ∧ (s.deliver slot).time.syncEdge = s.time.syncEdge ∧
    (s.deliver slot).forwarder.waiting = s.forwarder.waiting ∧
    (s.deliver slot).forwarder.stalled = s.forwarder.stalled ∧
    (s.deliver slot).forwarder.toInitiator = s.forwarder.toInitiator := by
  and_intros <;>
    (simp only [State.deliver]
     (repeat' split) <;> simp)

@[simp] theorem State.passRead_frame (s : State) (r : Request) :
    (s.passRead r).pending = s.pending ∧ (s.passRead r).pins = s.pins ∧ (s.passRead r).part = s.part ∧
    (s.passRead r).settings = s.settings ∧ (s.passRead r).intake = s.intake ∧
    (s.passRead r).time.counter = s.time.counter ∧ (s.passRead r).time.syncEdge = s.time.syncEdge ∧
    (s.passRead r).forwarder.waiting = s.forwarder.waiting ∧ (s.passRead r).forwarder.stalled = s.forwarder.stalled ∧
    (s.passRead r).forwarder.toInitiator = s.forwarder.toInitiator := by
  and_intros <;>
    (simp only [State.passRead]
     split <;> simp)

@[simp] theorem State.passResponse_frame (s : State) (r : Request) (slot : Nat) :
    (s.passResponse r slot).pending = s.pending ∧ (s.passResponse r slot).pins = s.pins ∧
    (s.passResponse r slot).part = s.part ∧ (s.passResponse r slot).settings = s.settings ∧
    (s.passResponse r slot).intake = s.intake ∧ (s.passResponse r slot).time.counter = s.time.counter ∧
    (s.passResponse r slot).time.syncEdge = s.time.syncEdge ∧
    (s.passResponse r slot).forwarder.waiting = s.forwarder.waiting ∧
    (s.passResponse r slot).forwarder.stalled = s.forwarder.stalled ∧
    (s.passResponse r slot).forwarder.toInitiator = s.forwarder.toInitiator := by
  and_intros <;>
    (simp only [State.passResponse]
     (repeat' split) <;> simp)

@[simp] theorem State.settleResponse_frame (s : State) (o : Origin) (r : Request) (slot : Nat) :
    (s.settleResponse o r slot).pending = s.pending ∧ (s.settleResponse o r slot).pins = s.pins ∧
    (s.settleResponse o r slot).part = s.part ∧ (s.settleResponse o r slot).settings = s.settings ∧
    (s.settleResponse o r slot).intake = s.intake ∧ (s.settleResponse o r slot).time.counter = s.time.counter ∧
    (s.settleResponse o r slot).time.syncEdge = s.time.syncEdge := by
  and_intros <;>
    (simp only [State.settleResponse]
     (repeat' split) <;> simp)

@[simp] theorem State.joinWaiting_frame (s : State) (o : Origin) (r : Request) :
    (s.joinWaiting o r).pending = s.pending ∧ (s.joinWaiting o r).pins = s.pins ∧ (s.joinWaiting o r).part = s.part ∧
    (s.joinWaiting o r).own = s.own ∧ (s.joinWaiting o r).settings = s.settings ∧
    (s.joinWaiting o r).intake = s.intake ∧ (s.joinWaiting o r).flight = s.flight ∧
    (s.joinWaiting o r).table = s.table ∧ (s.joinWaiting o r).slotMap = s.slotMap ∧
    (s.joinWaiting o r).time = s.time ∧ (s.joinWaiting o r).events = s.events ∧ (s.joinWaiting o r).now = s.now ∧
    (s.joinWaiting o r).forwarder.held = s.forwarder.held ∧
    (s.joinWaiting o r).forwarder.inFlight = s.forwarder.inFlight ∧
    (s.joinWaiting o r).forwarder.nextSerial = s.forwarder.nextSerial ∧
    (s.joinWaiting o r).forwarder.toMemory = s.forwarder.toMemory ∧
    (s.joinWaiting o r).forwarder.toInitiator = s.forwarder.toInitiator := by
  and_intros <;> cases o <;> simp only [State.joinWaiting] <;> (repeat' split) <;> simp

/-- What the settling of a request leaves, its step leaves, whether it happens or not. -/
theorem State.settle_leaves {α : Type} (g : State → α) (s : State) (o : Origin) (kind : Request → Bool)
    (f : Request → State) (h : ∀ r, g (f r) = g s) : g (s.settle o kind f) = g s := by
  unfold State.settle
  split
  · rfl
  · split
    · exact h _
    · rfl

@[simp] theorem State.settlePass_frame (s : State) (o : Origin) (kind : Request → Bool) :
    (s.settlePass o kind).pending = s.pending ∧ (s.settlePass o kind).pins = s.pins ∧
    (s.settlePass o kind).time.counter = s.time.counter ∧ (s.settlePass o kind).time.syncEdge = s.time.syncEdge := by
  refine ⟨?_, ?_, ?_, ?_⟩
  · exact State.settle_leaves (fun t => t.pending) s o _ _ (fun r => by simp)
  · exact State.settle_leaves (fun t => t.pins) s o _ _ (fun r => by simp)
  · exact State.settle_leaves (fun t => t.time.counter) s o _ _ (fun r => by simp)
  · exact State.settle_leaves (fun t => t.time.syncEdge) s o _ _ (fun r => by simp)

/-! ### The memory port -/

@[simp] theorem State.returnCompletion_frame (s : State) (c : Completion) :
    (s.returnCompletion c).pending = s.pending ∧ (s.returnCompletion c).pins = s.pins ∧
    (s.returnCompletion c).part = s.part ∧ (s.returnCompletion c).own = s.own ∧
    (s.returnCompletion c).settings = s.settings ∧ (s.returnCompletion c).intake = s.intake ∧
    (s.returnCompletion c).flight = s.flight ∧ (s.returnCompletion c).table = s.table ∧
    (s.returnCompletion c).slotMap = s.slotMap ∧ (s.returnCompletion c).time = s.time ∧
    (s.returnCompletion c).events = s.events ∧ (s.returnCompletion c).now = s.now ∧
    (s.returnCompletion c).forwarder.held = s.forwarder.held ∧
    (s.returnCompletion c).forwarder.waiting = s.forwarder.waiting ∧
    (s.returnCompletion c).forwarder.stalled = s.forwarder.stalled ∧
    (s.returnCompletion c).forwarder.nextSerial = s.forwarder.nextSerial ∧
    (s.returnCompletion c).forwarder.toMemory = s.forwarder.toMemory := by
  and_intros <;>
    (simp only [State.returnCompletion]
     (repeat' split) <;> simp)

@[simp] theorem State.ackOwn_frame (s : State) (tag : BitVec 8) (status : CompletionStatus) :
    (s.ackOwn tag status).pending = s.pending ∧ (s.ackOwn tag status).pins = s.pins ∧
    (s.ackOwn tag status).part = s.part ∧ (s.ackOwn tag status).forwarder = s.forwarder ∧
    (s.ackOwn tag status).settings = s.settings ∧ (s.ackOwn tag status).intake = s.intake ∧
    (s.ackOwn tag status).flight = s.flight ∧ (s.ackOwn tag status).table = s.table ∧
    (s.ackOwn tag status).slotMap = s.slotMap ∧ (s.ackOwn tag status).time = s.time ∧
    (s.ackOwn tag status).own.nextTag = s.own.nextTag ∧ (s.ackOwn tag status).events.consumer = s.events.consumer ∧
    (s.ackOwn tag status).now.cause = s.now.cause := by
  and_intros <;>
    (simp only [State.ackOwn]
     (repeat' split) <;> simp)

@[simp] theorem State.writeHeldEvent_frame (s : State) :
    (s.writeHeldEvent).pending = s.pending ∧ (s.writeHeldEvent).pins = s.pins ∧ (s.writeHeldEvent).part = s.part ∧
    (s.writeHeldEvent).forwarder = s.forwarder ∧ (s.writeHeldEvent).settings = s.settings ∧
    (s.writeHeldEvent).intake = s.intake ∧ (s.writeHeldEvent).flight = s.flight ∧ (s.writeHeldEvent).table = s.table ∧
    (s.writeHeldEvent).slotMap = s.slotMap ∧ (s.writeHeldEvent).time = s.time ∧ (s.writeHeldEvent).now = s.now ∧
    (s.writeHeldEvent).own.outstanding = s.own.outstanding ∧ (s.writeHeldEvent).own.nextTag = s.own.nextTag ∧
    (s.writeHeldEvent).events.errors = s.events.errors ∧
    (s.writeHeldEvent).events.firstPointer = s.events.firstPointer ∧
    (s.writeHeldEvent).events.consumer = s.events.consumer := by
  and_intros <;>
    (simp only [State.writeHeldEvent]
     (repeat' split) <;> simp)

/-! ### Steps -/

/-- A step of a part that is out of reset is its effect, finished. -/
theorem State.act_next (s : State) (f : State → State) (h : s.pins.resetLow = false) : s.act f = .next (f s).finish := by
  simp [State.act, h]

/-- A step of a part in reset is nothing. -/
theorem State.act_reset (s : State) (f : State → State) (h : s.pins.resetLow = true) : s.act f = .next s := by
  simp [State.act, h]

/-- What an effect and its finish leave, the step leaves. -/
theorem State.act_leaves {α : Type} (g : State → α) (hf : ∀ t, g (State.finish t) = g t) (s : State) (f : State → State)
    (h : g (f s) = g s) {t : State} (e : s.act f = .next t) : g t = g s := by
  unfold State.act at e
  injection e with e
  subst e
  split
  · rfl
  · exact (hf _).trans h

/-- A step that raises no fatal setting ends in its effect, with the cause of own writes dropped and ATTN judged. -/
theorem State.finish_calm (s : State) (h : s.now.stopDue = false) :
    s.finish =
      { s with
        now := { cause := none, stopDue := false }
        pins := { s.pins with attention := s.attentionLevel } } := by
  have e : s.stopIfDue = s := by
    unfold State.stopIfDue
    obtain ⟨pending, pins, part, forwarder, own, settings, intake, flight, table, slotMap, time, events, cause, due⟩ := s
    cases h
    simp
  unfold State.finish
  rw [e]
  obtain ⟨pending, pins, part, forwarder, own, settings, intake, flight, table, slotMap, time, events, cause, due⟩ := s
  cases h
  rfl

/-- A request at its turn and of the step's kind is settled. -/
theorem State.settle_next (s : State) (o : Origin) (r : Request) (kind : Request → Bool) (f : Request → State)
    (h : s.requestAt o = some r) (ht : s.atTurn o r = true) (hk : kind r = true) : s.settle o kind f = f r := by
  simp [State.settle, h, ht, hk]

/-- With no request at its origin, nothing is settled. -/
theorem State.settle_none (s : State) (o : Origin) (kind : Request → Bool) (f : Request → State)
    (h : s.requestAt o = none) : s.settle o kind f = s := by
  simp [State.settle, h]

end Sys2Proof.Machine
end

