-- ==== Sys2Proof/Laws/Table.lean ====
section
/-!
SUPPORT. Reading a table after a write, and the canonical form: every operation keeps it, and the reset state has it.
-/

namespace Sys2Proof

/-! ### Reading after writing -/

@[simp] theorem Table.get?_nil {α : Type} (n : Nat) : Table.get? ([] : Table α) n = none := rfl

/-- A number just set is found. -/
@[simp] theorem Table.get?_set_self {α : Type} (t : Table α) (n : Nat) (v : α) : Table.get? (Table.set t n v) n = some v := by
  induction t with
  | nil => simp [Table.set, Table.get?]
  | cons p t ih =>
    unfold Table.set
    split
    · simp [Table.get?]
    · split
      · simp [Table.get?]
      · simp [Table.get?, *]

/-- Setting one number leaves every other as it was. -/
theorem Table.get?_set_other {α : Type} (t : Table α) (n m : Nat) (v : α) (h : m ≠ n) :
    Table.get? (Table.set t n v) m = Table.get? t m := by
  induction t with
  | nil => simp [Table.set, Table.get?, h]
  | cons p t ih =>
    obtain ⟨k, w⟩ := p
    unfold Table.set
    split
    · simp [Table.get?, h]
    · split
      · rename_i hk
        subst hk
        simp [Table.get?, h]
      · simp [Table.get?, ih]

/-- The last of two writes under one number stands. -/
theorem Table.set_set {α : Type} (t : Table α) (n : Nat) (v w : α) : Table.set (Table.set t n v) n w = Table.set t n w := by
  induction t with
  | nil => simp [Table.set]
  | cons p t ih =>
    obtain ⟨k, x⟩ := p
    by_cases h1 : n < k
    · simp [Table.set, h1]
    · by_cases h2 : n = k
      · simp [Table.set, h2]
      · simp [Table.set, h1, h2, ih]

theorem Table.get?_set {α : Type} (t : Table α) (n m : Nat) (v : α) :
    Table.get? (Table.set t n v) m = if m = n then some v else Table.get? t m := by
  split
  · subst_vars
    simp
  · exact Table.get?_set_other t n m v (by assumption)

/-- A filter by number leaves what it keeps and drops the rest. -/
theorem Table.get?_filter_key {α : Type} (t : Table α) (p : Nat → Bool) (m : Nat) :
    Table.get? (t.filter fun q => p q.1) m = if p m then Table.get? t m else none := by
  induction t with
  | nil => simp [Table.get?]
  | cons q t ih =>
    obtain ⟨k, w⟩ := q
    by_cases hk : p k = true
    · simp only [List.filter_cons, hk, if_true, Table.get?, ih]
      by_cases hm : m = k
      · subst hm
        simp [hk]
      · simp [hm]
    · simp only [List.filter_cons, hk, Table.get?]
      by_cases hm : m = k
      · subst hm
        simp [hk, ih]
      · simp [hm, ih]

/-- A number erased is not found, and every other is as it was. -/
theorem Table.get?_erase {α : Type} (t : Table α) (n m : Nat) :
    Table.get? (Table.erase t n) m = if m = n then none else Table.get? t m := by
  have h := Table.get?_filter_key t (fun k => k != n) m
  unfold Table.erase
  rw [h]
  by_cases e : m = n <;> simp [e]

/-- A listed pair of a table in canonical form is found. -/
theorem Table.mem_keys_of_get? {α : Type} (t : Table α) (n : Nat) (v : α) (h : Table.get? t n = some v) : (n, v) ∈ t := by
  induction t with
  | nil => simp at h
  | cons p t ih =>
    obtain ⟨k, w⟩ := p
    unfold Table.get? at h
    split at h
    · cases h
      subst_vars
      exact List.mem_cons_self
    · exact List.mem_cons_of_mem _ (ih h)

/-! ### The canonical form -/

/-- The form as a relation of neighbours. -/
theorem Table.wf_iff {α : Type} (t : Table α) : Table.wf t = true ↔ t.Pairwise fun p q => p.1 < q.1 := by
  induction t with
  | nil => simp [Table.wf]
  | cons p t ih =>
    cases t with
    | nil => simp [Table.wf]
    | cons q t =>
      obtain ⟨k, v⟩ := p
      obtain ⟨l, w⟩ := q
      simp only [Table.wf, Bool.and_eq_true, decide_eq_true_eq, ih, List.pairwise_cons, List.mem_cons]
      constructor
      · rintro ⟨h1, h2, h3⟩
        refine ⟨?_, h2, h3⟩
        rintro x (rfl | hx)
        · exact h1
        · exact lt_trans h1 (h2 x hx)
      · rintro ⟨h1, h2, h3⟩
        exact ⟨h1 _ (Or.inl rfl), h2, h3⟩

theorem Table.mem_set {α : Type} (t : Table α) (n : Nat) (v : α) (q : Nat × α) (h : q ∈ Table.set t n v) :
    q = (n, v) ∨ q ∈ t := by
  induction t with
  | nil => simpa [Table.set] using h
  | cons p t ih =>
    obtain ⟨k, w⟩ := p
    unfold Table.set at h
    split at h
    · simpa using h
    · split at h
      · rcases List.mem_cons.mp h with h | h
        · exact Or.inl h
        · exact Or.inr (List.mem_cons_of_mem _ h)
      · rcases List.mem_cons.mp h with h | h
        · exact Or.inr (by simp [h])
        · rcases ih h with h | h
          · exact Or.inl h
          · exact Or.inr (List.mem_cons_of_mem _ h)

/-- Setting keeps the form. -/
theorem Table.wf_set {α : Type} (t : Table α) (n : Nat) (v : α) (h : Table.wf t = true) :
    Table.wf (Table.set t n v) = true := by
  rw [Table.wf_iff] at *
  induction t with
  | nil => simp [Table.set]
  | cons p t ih =>
    obtain ⟨k, w⟩ := p
    rw [List.pairwise_cons] at h
    unfold Table.set
    split
    · rename_i hk
      refine List.pairwise_cons.mpr ⟨?_, List.pairwise_cons.mpr h⟩
      intro q hq
      rcases List.mem_cons.mp hq with rfl | hq
      · exact hk
      · exact lt_trans hk (h.1 q hq)
    · split
      · rename_i hk
        subst hk
        exact List.pairwise_cons.mpr h
      · refine List.pairwise_cons.mpr ⟨?_, ih h.2⟩
        intro q hq
        rcases Table.mem_set t n v q hq with rfl | hq
        · simp only
          omega
        · exact h.1 q hq

/-- Dropping entries keeps the form. -/
theorem Table.wf_filter {α : Type} (t : Table α) (p : Nat × α → Bool) (h : Table.wf t = true) :
    Table.wf (t.filter p) = true := by
  rw [Table.wf_iff] at *
  exact h.filter p

theorem Table.wf_erase {α : Type} (t : Table α) (n : Nat) (h : Table.wf t = true) : Table.wf (Table.erase t n) = true :=
  Table.wf_filter t _ h

/-- Of a canonical table, a filter keeps a number exactly when it keeps its entry. -/
theorem Table.get?_filter {α : Type} (t : Table α) (p : Nat × α → Bool) (n : Nat) (h : Table.wf t = true) :
    Table.get? (t.filter p) n = (Table.get? t n).filter fun v => p (n, v) := by
  rw [Table.wf_iff] at h
  induction t with
  | nil => rfl
  | cons q t ih =>
    obtain ⟨k, w⟩ := q
    have ih := ih (List.pairwise_cons.mp h).2
    by_cases e : n = k
    · subst e
      by_cases hp : p (n, w) = true
      · simp [List.filter_cons, hp, Table.get?, Option.filter]
      · have gone : Table.get? (t.filter p) n = none := by
          cases hg : Table.get? (t.filter p) n with
          | none => rfl
          | some v =>
            have m := (List.mem_filter.mp (Table.mem_keys_of_get? _ _ _ hg)).1
            exact absurd ((List.pairwise_cons.mp h).1 _ m) (Nat.lt_irrefl n)
        simp [List.filter_cons, hp, Table.get?, gone, Option.filter]
    · by_cases hp : p (k, w) = true <;> simp [List.filter_cons, hp, Table.get?, e, ih]

/-! ### Windows of words -/

/-- A word written reads as written, and every other word as before. -/
theorem Words.read_write (t : Table Word) (n m : Nat) (v : Word) :
    Words.read (Words.write t n v) m = if m = n then v else Words.read t m := by
  unfold Words.read Words.write
  split
  · rw [Table.get?_erase]
    split <;> simp_all
  · rw [Table.get?_set]
    split <;> simp

/-- A write keeps the canonical form of a window. -/
theorem Words.wf_write (t : Table Word) (n : Nat) (v : Word) (h : Words.wf t = true) :
    Words.wf (Words.write t n v) = true := by
  unfold Words.wf at *
  rw [Bool.and_eq_true, List.all_eq_true] at *
  unfold Words.write
  split
  · exact ⟨Table.wf_erase t n h.1, fun q hq => h.2 q (List.mem_filter.mp hq).1⟩
  · refine ⟨Table.wf_set t n v h.1, fun q hq => ?_⟩
    rcases Table.mem_set t n v q hq with rfl | hq
    · simpa using by assumption
    · exact h.2 q hq

/-- Dropping words keeps the canonical form of a window. -/
theorem Words.wf_filter (t : Table Word) (p : Nat × Word → Bool) (h : Words.wf t = true) : Words.wf (t.filter p) = true := by
  unfold Words.wf at *
  rw [Bool.and_eq_true, List.all_eq_true] at *
  exact ⟨Table.wf_filter t p h.1, fun q hq => h.2 q (List.mem_filter.mp hq).1⟩

/-- The reset state's windows have the canonical form. -/
theorem reset_words_wf :
    Words.wf Machine.State.reset.settings.staging = true ∧ Words.wf Machine.State.reset.settings.active = true := by decide

end Sys2Proof
end

