-- ==== Sys2Proof/Laws/Outcomes.lean ====
section
/-!
SUPPORT. What the shared operations do: errors and events when the holding queue has room, lookups, releases, and the
reading of one context after another has been written.
-/

namespace Sys2Proof.Machine

/-! ### Events and errors while the holding queue has room (R169, R170, R175) -/

/-- An event offered finds a place while the holding queue has room. -/
theorem State.offerEvent_kept (s : State) (e : EventRecord) (h : s.events.holding.length < Config.holdingPlaces) :
    (s.offerEvent e).2 = false := by
  unfold State.offerEvent
  (repeat' split) <;> simp_all

/-- An event offered fills at most one more place. -/
theorem State.offerEvent_holding (s : State) (e : EventRecord) :
    (s.offerEvent e).1.events.holding.length ≤ s.events.holding.length + 1 := by
  unfold State.offerEvent
  (repeat' split) <;> simp

/-- Handing an event on with room to spare is the offer, and sets no error. -/
theorem State.handOn_kept (s : State) (f : EventFields) (time : Time)
    (h : s.events.holding.length < Config.holdingPlaces) :
    s.handOn f time = (s.offerEvent (s.formRecord f time)).1 := by
  have e := s.offerEvent_kept (s.formRecord f time) h
  unfold State.handOn
  cases h1 : s.offerEvent (s.formRecord f time) with
  | mk s1 b =>
    rw [h1] at e
    cases e
    rfl

theorem State.handOn_calm (s : State) (f : EventFields) (time : Time)
    (h : s.events.holding.length < Config.holdingPlaces) :
    (s.handOn f time).now = s.now ∧ (s.handOn f time).events.errors = s.events.errors ∧
      (s.handOn f time).events.firstPointer = s.events.firstPointer ∧
      (s.handOn f time).events.holding.length ≤ s.events.holding.length + 1 := by
  rw [s.handOn_kept f time h]
  simp [State.offerEvent_holding]

/-- An event handed on with room to spare is dropped, or on its way. -/
theorem State.handOn_reports (s : State) (f : EventFields) (time : Time)
    (h : s.events.holding.length < Config.holdingPlaces) :
    (s.handOn f time).reports f time s.now.cause = true := by
  rw [s.handOn_kept f time h]
  unfold State.reports
  simp only [State.offerEvent_frame]
  by_cases he : eventEnabled s.settings.active f.kind = true
  · simp only [he, Bool.not_true, Bool.false_or]
    unfold State.offerEvent State.formRecord
    simp only [he, Bool.not_true, Bool.false_eq_true, if_false]
    split
    · simp [State.hasEvent, State.writeRecord, State.issueStatusFor, OwnWrite.isStatus, EventFields.encode]
    · simp [State.hasEvent, h]
  · simp [he]

/-- Marking an error sets its status bit. -/
theorem State.markError_errors (s : State) (k : ErrorKind) :
    (s.markError k).1.events.errors = s.events.errors ||| (1#10 <<< k.code) := by
  simp only [State.markError]
  (repeat' split) <;> simp [State.issueStatus, State.issueStatusFor]

/-- A tolerated error stops nothing. -/
theorem State.markError_now (s : State) (k : ErrorKind) (h : s.tolerates k = true) : (s.markError k).1.now = s.now := by
  unfold State.tolerates at h
  simp only [State.markError]
  (repeat' split) <;> simp_all [State.issueStatus, State.issueStatusFor]

/-- A tolerated error with room to spare sets its status bit and stops nothing. -/
theorem State.setError_calm (s : State) (k : ErrorKind) (time : Time) (h : s.tolerates k = true)
    (hr : s.events.holding.length < Config.holdingPlaces) :
    (s.setError k time).now = s.now ∧ (s.setError k time).events.errors = s.events.errors ||| (1#10 <<< k.code) ∧
      (s.setError k time).events.holding.length ≤ s.events.holding.length + 1 := by
  have e1 := s.markError_errors k
  have e2 := s.markError_now k h
  have e3 : (s.markError k).1.events.holding = s.events.holding := by simp
  unfold State.setError
  cases hm : s.markError k with
  | mk s1 b =>
    rw [hm] at e1 e2 e3
    dsimp only at e1 e2 e3
    cases b with
    | false =>
      refine ⟨e2, e1, ?_⟩
      rw [e3]
      omega
    | true =>
      have c := s1.handOn_calm (s1.errorEvent k) time (by rw [e3]; exact hr)
      exact ⟨c.1.trans e2, c.2.1.trans e1, by have := c.2.2.2; rw [e3] at this; exact this⟩

/-- The level of ATTN is read from the events and the active settings alone. -/
theorem State.attentionLevel_congr (s t : State) (h : t.events = s.events)
    (ha : t.settings.active = s.settings.active) : t.attentionLevel = s.attentionLevel := by
  unfold State.attentionLevel State.markedUnread State.unmaskedError
  rw [h, ha]

/-! ### Contexts -/

@[simp] theorem State.writeContext_get (s : State) (index m : Nat) (c : Context) :
    (s.writeContext index c).context? m = if m = index then some { c with intact := true } else s.context? m := by
  simp [State.writeContext, State.context?, Table.get?_set]

/-- A known key is found, and its lookup changes nothing. -/
theorem State.lookup_known (s : State) (key : Key) (time : Time) (index : Nat) (c : Context)
    (h : s.known key index c = true) : s.lookup key time = (s, some index) := by
  simp only [State.known, Bool.and_eq_true, beq_iff_eq] at h
  obtain ⟨⟨h1, h2⟩, h3⟩ := h
  simp [State.lookup, h1, h2, h3]

/-- An unknown key is not found, and its lookup changes nothing. -/
theorem State.lookup_unknown (s : State) (key : Key) (time : Time) (h : s.unknown key = true) :
    s.lookup key time = (s, none) := by
  simp only [State.unknown, Option.isNone_iff_eq_none] at h
  simp [State.lookup, h]

/-- With nothing held, there is nothing to release. -/
theorem State.settleHeld_empty (s : State) (h : s.flight = none → s.forwarder.held = []) : s.settleHeld = s := by
  unfold State.settleHeld
  split
  · rename_i hf
    have hh := h (by simpa using hf)
    unfold State.releaseHeld
    rw [hh]
    obtain ⟨pending, pins, part, forwarder, own, settings, intake, flight, table, slotMap, time, events, now⟩ := s
    obtain ⟨held, waiting, stalled, inFlight, nextSerial, toMemory, toInitiator⟩ := forwarder
    cases hh
    rfl
  · rfl

/-- A context vacated is found no more; no other context changes, but for busy where its correction was in flight. -/
theorem State.vacate_get (s : State) (index : Nat) (reason : ReleaseReason) (m : Nat) (h : s.flight = none) :
    (s.vacate index reason).context? m = if m = index then none else s.context? m := by
  simp [State.vacate, State.abandonFor, h, State.context?, Table.get?_erase]

/-! ### Events on their way stay on their way (R148, R169) -/

/-- A status-area word issued displaces no event. -/
theorem State.issueStatusFor_keeps (s : State) (cause : Option Nat) (word : Nat) (e : EventRecord) (h : s.hasEvent e = true) :
    (s.issueStatusFor cause word).hasEvent e = true := by
  simp only [State.hasEvent, State.issueStatusFor, Bool.or_eq_true, List.any_eq_true] at *
  rcases h with h | ⟨w, hw, he⟩
  · exact .inl h
  · refine .inr ⟨w, ?_, he⟩
    rw [List.mem_append, List.mem_filter]
    refine .inl ⟨hw, ?_⟩
    cases hb : w.body with
    | record a ws => simp [OwnWrite.isStatus, hb]
    | status n v => simp [hb] at he

/-- A status-area word issued with the step's own cause displaces no event. -/
theorem State.issueStatus_keeps (s : State) (word : Nat) (e : EventRecord) (h : s.hasEvent e = true) :
    (s.issueStatus word).hasEvent e = true := s.issueStatusFor_keeps _ _ e h

/-- A record written to the ring leaves every other event on its way. -/
theorem State.writeRecord_keeps (s : State) (e f : EventRecord) (h : s.hasEvent e = true) :
    (s.writeRecord f).hasEvent e = true := by
  unfold State.writeRecord
  dsimp only
  apply State.issueStatusFor_keeps
  simp only [State.hasEvent, Bool.or_eq_true, List.any_append] at *
  rcases h with h | h
  · exact .inl h
  · exact .inr (.inl h)

/-- An event offered leaves every other event on its way. -/
theorem State.offerEvent_keeps (s : State) (f e : EventRecord) (h : s.hasEvent e = true) :
    (s.offerEvent f).1.hasEvent e = true := by
  unfold State.offerEvent
  split
  · exact h
  split
  · exact s.writeRecord_keeps e f h
  split
  · simp only [State.hasEvent, Bool.or_eq_true] at *
    rcases h with h | h
    · left; simp at h ⊢; exact .inl h
    · exact .inr h
  · simpa [State.hasEvent] using h

/-- An error marked leaves every event on its way. -/
theorem State.markError_keeps (s : State) (k : ErrorKind) (e : EventRecord) (h : s.hasEvent e = true) :
    (s.markError k).1.hasEvent e = true := by
  unfold State.markError
  dsimp only
  have h1 : ({ s with events := { s.events with errors := s.events.errors ||| (1#10 <<< k.code) } } : State).hasEvent e = true := h
  generalize ({ s with events := { s.events with errors := s.events.errors ||| (1#10 <<< k.code) } } : State) = s1 at *
  have h2 : (if s.events.errors.getLsbD k.code then s1 else s1.issueStatus Config.errorStatusWord).hasEvent e = true := by
    split
    · exact h1
    · exact s1.issueStatus_keeps _ e h1
  generalize (if s.events.errors.getLsbD k.code then s1 else s1.issueStatus Config.errorStatusWord) = s2 at *
  split
  · exact h2
  have h3 : (if s2.events.firstPointer.isNone then
      ({ s2 with events := { s2.events with firstPointer := some k } } : State).issueStatus Config.firstPointerWord
    else s2).hasEvent e = true := by
    split
    · exact State.issueStatus_keeps _ _ e h2
    · exact h2
  dsimp only
  split
  · exact h3
  · exact h3

/-- An event handed on leaves every other event on its way. -/
theorem State.handOn_keeps (s : State) (f : EventFields) (time : Time) (e : EventRecord) (h : s.hasEvent e = true) :
    (s.handOn f time).hasEvent e = true := by
  unfold State.handOn
  have h1 := s.offerEvent_keeps (s.formRecord f time) e h
  cases ho : s.offerEvent (s.formRecord f time) with
  | mk s1 b =>
    rw [ho] at h1
    cases b with
    | false => exact h1
    | true =>
      have h2 := s1.markError_keeps .eventLoss e h1
      cases hm : s1.markError .eventLoss with
      | mk s2 c =>
        simp only [hm] at h2 ⊢
        cases c with
        | false => exact h2
        | true => exact State.offerEvent_keeps _ _ e h2

/-- An error set leaves every event on its way. -/
theorem State.setError_keeps (s : State) (k : ErrorKind) (time : Time) (e : EventRecord) (h : s.hasEvent e = true) :
    (s.setError k time).hasEvent e = true := by
  unfold State.setError
  have h1 := s.markError_keeps k e h
  cases hm : s.markError k with
  | mk s1 b =>
    rw [hm] at h1
    cases b with
    | false => exact h1
    | true => exact State.handOn_keeps _ _ _ e h1

/-- What keeps an event on its way keeps its report. -/
theorem State.reports_of_keeps (s t : State) (h : ∀ e, s.hasEvent e = true → t.hasEvent e = true)
    (ha : t.settings.active = s.settings.active) (f : EventFields) (time : Time) (cause : Option Nat)
    (hr : s.reports f time cause = true) : t.reports f time cause = true := by
  unfold State.reports at *
  rw [ha]
  rw [Bool.or_eq_true] at *
  exact hr.imp id (h _)

/-! ### Steps between steps (R139, R173, R180) -/

/-- What standing between two steps means. -/
theorem State.between_iff (s : State) : s.between = true ↔
    s.pins.resetLow = false ∧ s.now = { cause := none, stopDue := false } ∧ s.pins.attention = s.attentionLevel := by
  simp [State.between, and_assoc]

/-- What a request at its turn is. -/
theorem State.presents_iff (s : State) (o : Origin) (r : Request) :
    s.presents o r = true ↔ s.requestAt o = some r ∧ s.atTurn o r = true := by simp [State.presents]

/-- What a request is that no own write goes before. -/
theorem State.offers_iff (s : State) (o : Origin) (r : Request) :
    s.offers o r = true ↔ s.presents o r = true ∧ s.ownReady = false := by simp [State.offers]

/-- Whether an own write may be sent is read from the own writes, the requests in flight and the step's cause alone
(R149, R150). -/
theorem State.ownReady_congr (s t : State) (h : t.own = s.own) (hf : t.forwarder.inFlight = s.forwarder.inFlight)
    (hn : t.now.cause = s.now.cause) : t.ownReady = s.ownReady := by
  have e : t.maySend = s.maySend := by
    funext w
    simp [State.maySend, State.causeMet, h, hf, hn]
  simp [State.ownReady, e, h]

/-- A request that no own write goes before takes its number, and nothing else happens. -/
theorem State.beginForward_waiting (s : State) (h : s.ownReady = false) :
    s.beginForward =
      { s with
        forwarder := { s.forwarder with nextSerial := s.forwarder.nextSerial + 1 }
        now := { s.now with cause := some s.forwarder.nextSerial } } := by
  simp [State.beginForward, s.sendReady_waiting h]

/-- A state between two steps is its own end of a step. -/
theorem State.finish_same (s : State) (h : s.now = { cause := none, stopDue := false })
    (ha : s.pins.attention = s.attentionLevel) : s.finish = s := by
  rw [s.finish_calm (by rw [h])]
  rw [← ha]
  obtain ⟨pending, pins, part, forwarder, own, settings, intake, flight, table, slotMap, time, events, now⟩ := s
  simp at h
  simp [h]

/-- A step whose effect touches neither events, nor pins, nor the active settings answers its effect. -/
theorem State.act_quiet (s : State) (f : State → State) (hb : s.between = true) (t : State) (ht : f s = t)
    (hp : t.pins = s.pins) (hn : t.now = s.now) (he : t.events = s.events) (ha : t.settings.active = s.settings.active) :
    s.act f = .next t := by
  obtain ⟨h1, h2, h3⟩ := (s.between_iff).mp hb
  rw [s.act_next f h1, ht, t.finish_same (by rw [hn, h2]) (by rw [hp, h3, State.attentionLevel_congr s t he ha])]

/-- A step that sets no fatal error answers its effect, with the cause dropped and ATTN judged. -/
theorem State.act_calm (s : State) (f : State → State) (hb : s.between = true) (hn : (f s).now.stopDue = false) :
    s.act f = .next
      { f s with now := { cause := none, stopDue := false }
                 pins := { (f s).pins with attention := (f s).attentionLevel } } := by
  obtain ⟨h1, h2, h3⟩ := (s.between_iff).mp hb
  rw [s.act_next f h1, State.finish_calm _ hn]

end Sys2Proof.Machine
end

