-- ==== Sys2Proof/Laws/Attention.lean ====
section
/-!
SUPPORT. ATTN is an output: it is judged when a step ends, and no operation within a step reads it (R173). Each operation
on a state with another level of ATTN gives the same result, at that level.
-/

namespace Sys2Proof.Machine

/-- The state with ATTN at this level. -/
def State.withAttention (s : State) (a : Bool) : State := { s with pins := { s.pins with attention := a } }

/-! ### What is read -/

@[simp] theorem State.withAttention_fields (s : State) (a : Bool) :
    (s.withAttention a).pending = s.pending ∧ (s.withAttention a).pins.straps = s.pins.straps ∧
      (s.withAttention a).pins.resetLow = s.pins.resetLow ∧ (s.withAttention a).part = s.part ∧
      (s.withAttention a).forwarder = s.forwarder ∧ (s.withAttention a).own = s.own ∧
      (s.withAttention a).settings = s.settings ∧ (s.withAttention a).intake = s.intake ∧
      (s.withAttention a).flight = s.flight ∧ (s.withAttention a).table = s.table ∧
      (s.withAttention a).slotMap = s.slotMap ∧ (s.withAttention a).time = s.time ∧
      (s.withAttention a).events = s.events ∧ (s.withAttention a).now = s.now := by
  and_intros <;> rfl

@[simp] theorem State.withAttention_context? (s : State) (a : Bool) (index : Nat) :
    (s.withAttention a).context? index = s.context? index := rfl
@[simp] theorem State.withAttention_canWriteRecord (s : State) (a : Bool) :
    (s.withAttention a).canWriteRecord = s.canWriteRecord := rfl
@[simp] theorem State.withAttention_ownReady (s : State) (a : Bool) : (s.withAttention a).ownReady = s.ownReady := rfl
@[simp] theorem State.withAttention_maySend (s : State) (a : Bool) : (s.withAttention a).maySend = s.maySend := rfl
@[simp] theorem State.withAttention_lowestFree (s : State) (a : Bool) :
    (s.withAttention a).lowestFree = s.lowestFree := rfl
@[simp] theorem State.withAttention_twice (s : State) (a b : Bool) :
    (s.withAttention a).withAttention b = s.withAttention b := rfl

/-! ### The event writer -/

@[simp] theorem State.withAttention_issueStatusFor (s : State) (a : Bool) (cause : Option Nat) (word : Nat) :
    (s.withAttention a).issueStatusFor cause word = (s.issueStatusFor cause word).withAttention a := rfl
@[simp] theorem State.withAttention_issueStatus (s : State) (a : Bool) (word : Nat) :
    (s.withAttention a).issueStatus word = (s.issueStatus word).withAttention a := rfl
@[simp] theorem State.withAttention_writeRecord (s : State) (a : Bool) (e : EventRecord) :
    (s.withAttention a).writeRecord e = (s.writeRecord e).withAttention a := rfl
@[simp] theorem State.withAttention_issueCounts (s : State) (a : Bool) (channel : Nat) (free : Bool) :
    (s.withAttention a).issueCounts channel free = (s.issueCounts channel free).withAttention a := by
  cases free <;> rfl
@[simp] theorem State.withAttention_commandAnswer (s : State) (a : Bool) (sequence : BitVec 16) (code flags : Nat)
    (result : CommandResult) :
    (s.withAttention a).commandAnswer sequence code flags result =
      (s.commandAnswer sequence code flags result).withAttention a := rfl
@[simp] theorem State.withAttention_applyAnswer (s : State) (a : Bool) (sequence : BitVec 16) (result : ApplyResult) :
    (s.withAttention a).applyAnswer sequence result = (s.applyAnswer sequence result).withAttention a := rfl

@[simp] theorem State.withAttention_offerEvent (s : State) (a : Bool) (e : EventRecord) :
    (s.withAttention a).offerEvent e = ((s.offerEvent e).1.withAttention a, (s.offerEvent e).2) := by
  unfold State.offerEvent
  simp only [State.withAttention_fields, State.withAttention_canWriteRecord, State.withAttention_writeRecord]
  (repeat' split) <;> rfl

@[simp] theorem State.withAttention_writeOut (s : State) (a : Bool) (l : List EventRecord) :
    (s.withAttention a).writeOut l = (s.writeOut l).withAttention a := by
  induction l generalizing s with
  | nil => rfl
  | cons e l ih =>
    unfold State.writeOut
    rw [State.withAttention_canWriteRecord]
    by_cases h : s.canWriteRecord = true
    · rw [if_pos h, if_pos h]
      exact ih (({ s with events := { s.events with holding := l } } : State).writeRecord e)
    · rw [if_neg h, if_neg h]

@[simp] theorem State.withAttention_writeOutHeld (s : State) (a : Bool) :
    (s.withAttention a).writeOutHeld = s.writeOutHeld.withAttention a := s.withAttention_writeOut a _

@[simp] theorem State.withAttention_markError (s : State) (a : Bool) (k : ErrorKind) :
    (s.withAttention a).markError k = ((s.markError k).1.withAttention a, (s.markError k).2) := by
  unfold State.markError
  by_cases h1 : s.events.errors.getLsbD k.code = true <;> by_cases h2 : errorMasked s.settings.active k.code = true <;>
    cases h3 : s.events.firstPointer <;>
    by_cases h4 : (errorFatal s.settings.active k.code && s.part != .stopped) = true <;>
    simp [h1, h2, h3, h4] <;> rfl

@[simp] theorem State.withAttention_handOn (s : State) (a : Bool) (f : EventFields) (time : Time) :
    (s.withAttention a).handOn f time = (s.handOn f time).withAttention a := by
  unfold State.handOn
  have e : (s.withAttention a).formRecord f time = s.formRecord f time := rfl
  rw [e, State.withAttention_offerEvent]
  cases s.offerEvent (s.formRecord f time) with
  | mk t b =>
    cases b with
    | false => rfl
    | true =>
      simp only [State.withAttention_markError]
      cases t.markError .eventLoss with
      | mk u b =>
        cases b with
        | false => rfl
        | true =>
          have e : (u.withAttention a).formRecord ((u.withAttention a).errorEvent .eventLoss) time =
            u.formRecord (u.errorEvent .eventLoss) time := rfl
          simp only [e, State.withAttention_offerEvent]

@[simp] theorem State.withAttention_setError (s : State) (a : Bool) (k : ErrorKind) (time : Time) :
    (s.withAttention a).setError k time = (s.setError k time).withAttention a := by
  unfold State.setError
  rw [State.withAttention_markError]
  cases s.markError k with
  | mk t b =>
    cases b with
    | false => rfl
    | true => exact t.withAttention_handOn a (t.errorEvent k) time

/-! ### Own writes sent, and forwarding -/

@[simp] theorem State.withAttention_sendOwn (s : State) (a : Bool) :
    (s.withAttention a).sendOwn = s.sendOwn.withAttention a := by
  unfold State.sendOwn
  simp only [State.withAttention_fields, State.withAttention_maySend]
  cases s.own.queue with
  | nil => rfl
  | cons w rest =>
    dsimp only
    split
    · exact State.withAttention_writeOutHeld { s with
        forwarder := { s.forwarder with toMemory := s.forwarder.toMemory ++ [s.ownRequest w] }
        own :=
          { queue := rest
            outstanding := s.own.outstanding ++ [{ tag := s.own.nextTag, beforeReset := false }]
            nextTag := s.own.nextTag + 1 } } a
    · rfl

@[simp] theorem State.withAttention_sendUpTo (n : Nat) (s : State) (a : Bool) :
    State.sendUpTo n (s.withAttention a) = (State.sendUpTo n s).withAttention a := by
  induction n generalizing s with
  | zero => rfl
  | succ n ih =>
    unfold State.sendUpTo
    simp only [State.withAttention_ownReady, State.withAttention_sendOwn, ih]
    split <;> rfl

@[simp] theorem State.withAttention_sendReady (s : State) (a : Bool) :
    (s.withAttention a).sendReady = s.sendReady.withAttention a := State.withAttention_sendUpTo _ s a

@[simp] theorem State.withAttention_beginForward (s : State) (a : Bool) :
    (s.withAttention a).beginForward = s.beginForward.withAttention a := by
  unfold State.beginForward
  rw [State.withAttention_sendReady]
  rfl

@[simp] theorem State.withAttention_forwardAs (s : State) (a : Bool) (serial : Nat) (r : Request) :
    (s.withAttention a).forwardAs serial r = (s.forwardAs serial r).withAttention a := rfl
@[simp] theorem State.withAttention_withCause (s : State) (a : Bool) (cause : Option Nat) :
    (s.withAttention a).withCause cause = (s.withCause cause).withAttention a := rfl

/-! ### The context table -/

@[simp] theorem State.withAttention_writeContext (s : State) (a : Bool) (index : Nat) (c : Context) :
    (s.withAttention a).writeContext index c = (s.writeContext index c).withAttention a := rfl
@[simp] theorem State.withAttention_arm (s : State) (a : Bool) (index : Nat) (kind : DeadlineKind) (expiry : Time) :
    (s.withAttention a).arm index kind expiry = (s.arm index kind expiry).withAttention a := rfl
@[simp] theorem State.withAttention_removeDeadline (s : State) (a : Bool) (index : Nat) (kind : DeadlineKind) :
    (s.withAttention a).removeDeadline index kind = (s.removeDeadline index kind).withAttention a := rfl
@[simp] theorem State.withAttention_clearSlotsOf (s : State) (a : Bool) (index : Nat) :
    (s.withAttention a).clearSlotsOf index = (s.clearSlotsOf index).withAttention a := rfl

@[simp] theorem State.withAttention_endFlight (s : State) (a : Bool) :
    (s.withAttention a).endFlight = s.endFlight.withAttention a := by
  unfold State.endFlight
  simp only [State.withAttention_fields, State.withAttention_context?]
  cases s.flight with
  | none => rfl
  | some f =>
    dsimp only
    cases s.context? f.index <;> rfl

@[simp] theorem State.withAttention_abandonFor (s : State) (a : Bool) (index : Nat) :
    (s.withAttention a).abandonFor index = (s.abandonFor index).withAttention a := by
  unfold State.abandonFor
  simp only [State.withAttention_fields, State.withAttention_endFlight]
  cases s.flight with
  | none => rfl
  | some f =>
    dsimp only
    split <;> rfl

@[simp] theorem State.withAttention_vacate (s : State) (a : Bool) (index : Nat) (reason : ReleaseReason) :
    (s.withAttention a).vacate index reason = (s.vacate index reason).withAttention a := by
  unfold State.vacate
  rw [State.withAttention_abandonFor]
  rfl

@[simp] theorem State.withAttention_release (s : State) (a : Bool) (index : Nat) (reason : ReleaseReason) (time : Time)
    (stage : Nat) :
    (s.withAttention a).release index reason time stage = (s.release index reason time stage).withAttention a := by
  unfold State.release
  simp only [State.withAttention_context?, State.withAttention_vacate, State.withAttention_issueCounts]
  cases s.context? index with
  | none => rfl
  | some c => exact State.withAttention_handOn _ a _ time

@[simp] theorem State.withAttention_integrityRelease (s : State) (a : Bool) (index : Nat) (time : Time) :
    (s.withAttention a).integrityRelease index time = (s.integrityRelease index time).withAttention a := by
  simp [State.integrityRelease]

@[simp] theorem State.withAttention_lookup (s : State) (a : Bool) (key : Key) (time : Time) :
    (s.withAttention a).lookup key time = ((s.lookup key time).1.withAttention a, (s.lookup key time).2) := by
  unfold State.lookup
  simp only [State.withAttention_fields, State.withAttention_context?, State.withAttention_integrityRelease]
  cases Table.get? s.table.directory key.number with
  | none => rfl
  | some index =>
    dsimp only
    cases s.context? index with
    | none => rfl
    | some c =>
      dsimp only
      split <;> rfl

@[simp] theorem State.withAttention_unmapSlot (s : State) (a : Bool) (slot : Nat) :
    (s.withAttention a).unmapSlot slot = (s.unmapSlot slot).withAttention a := by
  unfold State.unmapSlot
  have e : (s.withAttention a).slotMap = s.slotMap := rfl
  rw [e]
  cases Table.get? s.slotMap slot with
  | none => rfl
  | some index =>
    dsimp only
    have e1 : ({ s.withAttention a with slotMap := Table.erase s.slotMap slot } : State).context? index =
      s.context? index := rfl
    have e2 : ({ s with slotMap := Table.erase s.slotMap slot } : State).context? index = s.context? index := rfl
    rw [e1, e2]
    cases s.context? index with
    | none => rfl
    | some c =>
      dsimp only
      cases c.correction <;> rfl

@[simp] theorem State.withAttention_restart (s : State) (a : Bool) (index : Nat) (words : Table Word) (time : Time)
    (reason : Nat) :
    (s.withAttention a).restart index words time reason = (s.restart index words time reason).withAttention a := by
  unfold State.restart
  simp only [State.withAttention_context?, State.withAttention_clearSlotsOf, State.withAttention_removeDeadline,
    State.withAttention_writeContext, State.withAttention_arm]
  cases s.context? index with
  | none => rfl
  | some c => exact State.withAttention_handOn _ a _ time

@[simp] theorem State.withAttention_occupy (s : State) (a : Bool) (index : Nat) (key : Key) (station : StationState)
    (origin : Birth) (committed : Committed) (time : Time) (stage : Stage) (interval : Nat) :
    (s.withAttention a).occupy index key station origin committed time stage interval =
      (s.occupy index key station origin committed time stage interval).withAttention a := rfl

/-! ### The fill unit -/

@[simp] theorem State.withAttention_settleOwner (s : State) (a : Bool) (slot : Nat) (found : Option Nat) :
    (s.withAttention a).settleOwner slot found = (s.settleOwner slot found).withAttention a := by
  unfold State.settleOwner
  simp only [State.withAttention_fields, State.withAttention_unmapSlot]
  cases Table.get? s.slotMap slot with
  | none => rfl
  | some index =>
    dsimp only
    split <;> rfl

@[simp] theorem State.withAttention_fillAndForward (s : State) (a : Bool) (serial : Nat) (r : Request) (key : Key)
    (slot : Nat) (found : Option Nat) :
    (s.withAttention a).fillAndForward serial r key slot found =
      (s.fillAndForward serial r key slot found).withAttention a := by
  unfold State.fillAndForward
  simp only [State.withAttention_settleOwner]
  generalize s.settleOwner slot found = t
  cases found with
  | none => rfl
  | some index =>
    simp only [Option.bind_some, State.withAttention_context?]
    cases t.context? index with
    | none => rfl
    | some c =>
      dsimp only
      cases c.correction <;> rfl

theorem List.foldl_withAttention {α : Type} (f : State → α → State) (a : Bool)
    (h : ∀ s x, f (s.withAttention a) x = (f s x).withAttention a) (l : List α) (s : State) :
    l.foldl f (s.withAttention a) = (l.foldl f s).withAttention a := by
  induction l generalizing s with
  | nil => rfl
  | cons x l ih => rw [List.foldl_cons, List.foldl_cons, h, ih]

@[simp] theorem State.withAttention_unmapOverlapped (s : State) (a : Bool) (r : Request) :
    (s.withAttention a).unmapOverlapped r = (s.unmapOverlapped r).withAttention a :=
  List.foldl_withAttention _ a (fun s x => s.withAttention_unmapSlot a x) _ s

@[simp] theorem State.withAttention_notTaken (s : State) (a : Bool) (r : Request) :
    (s.withAttention a).notTaken r = (s.notTaken r).withAttention a := by
  unfold State.notTaken
  have e1 : (s.withAttention a).responseNotTaken r = s.responseNotTaken r := rfl
  have e2 : (s.withAttention a).looksLikeResponse r = s.looksLikeResponse r := rfl
  simp only [e1, e2, State.withAttention_unmapOverlapped, State.withAttention_setError, State.withAttention_fields]
  (repeat' split) <;> rfl

@[simp] theorem State.withAttention_fillHeldWrite (s : State) (a : Bool) (h : HeldWrite) :
    (s.withAttention a).fillHeldWrite h = (s.fillHeldWrite h).withAttention a := by
  unfold State.fillHeldWrite
  simp only [State.withAttention_fields, State.withAttention_beginForward]
  cases h.slot with
  | none => simp
  | some slot =>
    simp only [State.withAttention_lookup]
    cases s.beginForward.lookup h.key s.beginForward.time.counter with
    | mk v found => simp

@[simp] theorem State.withAttention_releaseHeld (s : State) (a : Bool) :
    (s.withAttention a).releaseHeld = s.releaseHeld.withAttention a :=
  List.foldl_withAttention _ a (fun s x => s.withAttention_fillHeldWrite a x) _
    { s with forwarder := { s.forwarder with held := [] } }

@[simp] theorem State.withAttention_settleHeld (s : State) (a : Bool) :
    (s.withAttention a).settleHeld = s.settleHeld.withAttention a := by
  unfold State.settleHeld
  rw [State.withAttention_releaseHeld]
  cases h : s.flight <;> simp [h]

@[simp] theorem State.withAttention_forwardHeldUnfilled (s : State) (a : Bool) :
    (s.withAttention a).forwardHeldUnfilled = s.forwardHeldUnfilled.withAttention a :=
  List.foldl_withAttention _ a (fun s x => by simp [State.forwardUnfilled]) _
    { s with forwarder := { s.forwarder with held := [] } }

@[simp] theorem State.withAttention_releaseStation (s : State) (a : Bool) (index : Nat) (reason : ReleaseReason)
    (time : Time) (stage : Nat) :
    (s.withAttention a).releaseStation index reason time stage =
      (s.releaseStation index reason time stage).withAttention a := by
  simp [State.releaseStation]

@[simp] theorem State.withAttention_failIntegrity (s : State) (a : Bool) (index : Nat) (time : Time) :
    (s.withAttention a).failIntegrity index time = (s.failIntegrity index time).withAttention a := by
  simp [State.failIntegrity]

/-! ### Entry to STOPPED, and the end of a step -/

@[simp] theorem State.withAttention_enterStopped (s : State) (a : Bool) :
    (s.withAttention a).enterStopped = s.enterStopped.withAttention a := by
  have e : (s.withAttention a).abandonDrain = s.abandonDrain.withAttention a := by
    unfold State.abandonDrain
    simp only [State.withAttention_fields]
    cases s.settings.draining <;> rfl
  unfold State.enterStopped
  rw [e, State.withAttention_endFlight, State.withAttention_forwardHeldUnfilled]
  rfl

@[simp] theorem State.withAttention_stopIfDue (s : State) (a : Bool) :
    (s.withAttention a).stopIfDue = s.stopIfDue.withAttention a := by
  unfold State.stopIfDue
  by_cases h : (s.now.stopDue && s.part != .stopped) = true
  · refine (if_pos h).trans (Eq.trans ?_ (congrArg (State.withAttention · a) (if_pos h).symm))
    exact State.withAttention_enterStopped { s with now := { s.now with stopDue := false } } a
  · refine (if_neg h).trans (Eq.trans ?_ (congrArg (State.withAttention · a) (if_neg h).symm))
    rfl

/-- A step that ends judges ATTN afresh, whatever it was. -/
@[simp] theorem State.withAttention_finish (s : State) (a : Bool) : (s.withAttention a).finish = s.finish := by
  unfold State.finish
  rw [State.withAttention_stopIfDue]
  rfl

/-- A step whose effect does not read ATTN answers the same whatever it was. -/
theorem State.withAttention_act (s : State) (a : Bool) (f : State → State) (h : s.pins.resetLow = false)
    (hf : f (s.withAttention a) = (f s).withAttention a) : (s.withAttention a).act f = s.act f := by
  unfold State.act
  simp [h, hf]

/-! ### The report intake -/

@[simp] theorem State.withAttention_enqueue (s : State) (a : Bool) (h : Header) (e : Report) :
    (s.withAttention a).enqueue h e = (s.enqueue h e).withAttention a := by
  unfold State.enqueue
  by_cases room : s.intake.queue.length < Config.intakePlaces
  · rw [if_pos room]
    exact (if_pos room).trans rfl
  · refine (if_neg room).trans (Eq.trans ?_ (congrArg (State.withAttention · a) (if_neg room).symm))
    dsimp only
    rw [show (s.withAttention a).intake = s.intake from rfl, show (s.withAttention a).time = s.time from rfl]
    cases e.kind with
    | data => exact s.withAttention_handOn a _ _
    | _ =>
      cases takeNewestData s.intake.queue with
      | none => simp
      | some p =>
        obtain ⟨displaced, kept⟩ := p
        let t : State := { s with intake := { s.intake with queue := kept } }
        show ((t.withAttention a).handOn (t.displacedFields displaced) s.time.counter).joinIntake e = _
        rw [State.withAttention_handOn]
        rfl

@[simp] theorem State.withAttention_intakeWrite (s : State) (a : Bool) (r : Request) :
    (s.withAttention a).intakeWrite r = (s.intakeWrite r).withAttention a := by
  unfold State.intakeWrite
  rw [show (s.withAttention a).reportSlot? r = s.reportSlot? r from rfl,
    show (s.withAttention a).tornWrite r = s.tornWrite r from rfl]
  cases s.reportSlot? r with
  | none => by_cases h : s.tornWrite r = true <;> simp [h]
  | some slot =>
    show (s.withAttention a).takeReport r slot = (s.takeReport r slot).withAttention a
    unfold State.takeReport
    rw [show (s.withAttention a).checkReport r slot = s.checkReport r slot from rfl]
    cases s.checkReport r slot with
    | ignored => rfl
    | rejected reason channel => by_cases h : reason = .malformed <;> simp [h]
    | accepted e => exact s.withAttention_enqueue a _ e

/-! ### Applies and commands -/

@[simp] theorem State.withAttention_releaseSilently (s : State) (a : Bool) (index : Nat) :
    (s.withAttention a).releaseSilently index = (s.releaseSilently index).withAttention a := by
  unfold State.releaseSilently
  rw [State.withAttention_context?]
  cases s.context? index with
  | none => rfl
  | some c =>
    dsimp only
    by_cases h : c.intact = true <;> simp [h]

@[simp] theorem State.withAttention_closeChannel (s : State) (a : Bool) (channel cause : Nat) :
    (s.withAttention a).closeChannel channel cause = (s.closeChannel channel cause).withAttention a := by
  unfold State.closeChannel
  have e0 : (s.withAttention a).contextsOf channel = s.contextsOf channel := rfl
  have e1 : (s.withAttention a).freeCount = s.freeCount := rfl
  dsimp only
  rw [e0, e1, List.foldl_withAttention State.releaseSilently a (fun s x => s.withAttention_releaseSilently a x)]
  generalize (s.contextsOf channel).foldl State.releaseSilently s = t
  have e2 : (t.withAttention a).discardReports channel = (t.discardReports channel).withAttention a := rfl
  rw [e2, State.withAttention_settleHeld]
  generalize (t.discardReports channel).settleHeld = u
  let v : State := { u with settings := { u.settings with active := withChannelOff u.settings.active channel } }
  let f : EventFields :=
    { kind := 11, channel := some channel, reason := cause
      w4 := BitVec.ofNat 32 (s.contextsOf channel).length }
  have e3 : (v.withAttention a).handOn f v.time.counter = (v.handOn f v.time.counter).withAttention a :=
    v.withAttention_handOn a f _
  show (let t := (v.withAttention a).handOn f v.time.counter
    let t := if t.freeCount = s.freeCount then t else t.issueStatus Config.freeCountWord
    if (s.contextsOf channel).length = 0 then t else t.issueStatus (Config.occupiedCountWord + channel)) =
      State.withAttention (let t := v.handOn f v.time.counter
        let t := if t.freeCount = s.freeCount then t else t.issueStatus Config.freeCountWord
        if (s.contextsOf channel).length = 0 then t else t.issueStatus (Config.occupiedCountWord + channel)) a
  rw [e3]
  generalize v.handOn f v.time.counter = w
  dsimp only
  have e4 : (w.withAttention a).freeCount = w.freeCount := rfl
  rw [e4]
  by_cases h1 : w.freeCount = s.freeCount <;> by_cases h2 : (s.contextsOf channel).length = 0 <;> simp [h1, h2]

@[simp] theorem State.withAttention_returnToReady (s : State) (a : Bool) (index : Nat) :
    (s.withAttention a).returnToReady index = (s.returnToReady index).withAttention a := by
  unfold State.returnToReady
  rw [State.withAttention_context?]
  cases s.context? index with
  | none => rfl
  | some c =>
    dsimp only
    cases h : c.intact with
    | false => exact s.withAttention_failIntegrity a _ _
    | true => cases c.correction <;> rfl

@[simp] theorem State.withAttention_clearSlotMap (s : State) (a : Bool) :
    (s.withAttention a).clearSlotMap = s.clearSlotMap.withAttention a := by
  unfold State.clearSlotMap
  rw [show (s.withAttention a).slotMap = s.slotMap from rfl,
    List.foldl_withAttention State.returnToReady a (fun s x => s.withAttention_returnToReady a x)]
  rfl

theorem State.withAttention_ite {p : Prop} [Decidable p] (s t : State) (a : Bool) :
    (if p then s.withAttention a else t.withAttention a) = (if p then s else t).withAttention a := by
  split <;> rfl

@[simp] theorem State.withAttention_adoptSettings (s : State) (a : Bool) :
    (s.withAttention a).adoptSettings = s.adoptSettings.withAttention a := by
  let old := s.settings.active
  let new := adoptedWords s.settings.staging
  let s1 : State := { s with settings := { s.settings with active := new } }
  let s2 : State := if stagingMoved old new then s1.rejudgeHeld else s1
  let closing := (List.range Config.channelCount).filter fun c => channelOpen old c && !channelOpen new c
  let opening := (List.range Config.channelCount).filter fun c => !channelOpen old c && channelOpen new c
  let s3 := closing.foldl (fun u c => u.closeChannel c 2) s2
  let s4 := opening.foldl State.openChannel s3
  let s5 : State := if stagingMoved old new then s4.clearSlotMap else s4
  have h2 : (if stagingMoved old new then (s1.withAttention a).rejudgeHeld else s1.withAttention a) =
      s2.withAttention a := State.withAttention_ite s1.rejudgeHeld s1 a
  have h3 : closing.foldl (fun u c => u.closeChannel c 2) (s2.withAttention a) = s3.withAttention a :=
    List.foldl_withAttention _ a (fun s x => s.withAttention_closeChannel a x 2) _ _
  have h4 : opening.foldl State.openChannel (s3.withAttention a) = s4.withAttention a :=
    List.foldl_withAttention _ a (fun _ _ => rfl) _ _
  have h5 : (if stagingMoved old new then (s4.withAttention a).clearSlotMap else s4.withAttention a) =
      s5.withAttention a := by
    rw [State.withAttention_clearSlotMap]
    exact State.withAttention_ite _ _ a
  have h6 : (if eventRingMoved old new then (s5.withAttention a).restartRing else s5.withAttention a) =
      (if eventRingMoved old new then s5.restartRing else s5).withAttention a :=
    State.withAttention_ite s5.restartRing s5 a
  unfold State.adoptSettings
  show (let t := if stagingMoved old new then (s1.withAttention a).rejudgeHeld else s1.withAttention a
    let t := closing.foldl (fun u c => u.closeChannel c 2) t
    let t := opening.foldl State.openChannel t
    let t := if stagingMoved old new then t.clearSlotMap else t
    let t := if eventRingMoved old new then t.restartRing else t
    ({ t with
      table := { t.table with ageing := 0 }
      time := { t.time with ageingTimer := 0 }
      part := t.part.afterApply } : State)) = _
  rw [h2]
  dsimp only
  rw [h3, h4, h5, h6]
  rfl

@[simp] theorem State.withAttention_takeApply (s : State) (a : Bool) :
    (s.withAttention a).takeApply = s.takeApply.withAttention a := by
  unfold State.takeApply State.applySettings
  rw [show (s.withAttention a).validate = s.validate from rfl, State.withAttention_adoptSettings]
  simp only [State.withAttention_fields, State.withAttention_applyAnswer]
  by_cases h : s.part = .stopped
  · simp [h]
  · simp only [h, if_false]
    cases s.validate <;> rfl

/-- The same of an operation that answers a result with its state. -/
def Answered.withAttention {α : Type} (p : State × α) (a : Bool) : State × α := (p.1.withAttention a, p.2)

@[simp] theorem State.withAttention_findStation (s : State) (a : Bool) (n : StationName) :
    (s.withAttention a).findStation n = Answered.withAttention (s.findStation n) a := by
  unfold State.findStation
  simp only [State.withAttention_fields, State.withAttention_lookup]
  cases claimant s.settings.active n.number with
  | none => rfl
  | some channel => simp [Answered.withAttention]

@[simp] theorem State.withAttention_stationDrop (s : State) (a : Bool) (n : StationName) :
    (s.withAttention a).stationDrop n = Answered.withAttention (s.stationDrop n) a := by
  unfold State.stationDrop
  rw [State.withAttention_findStation]
  by_cases h : n.inRange = true
  · simp only [h]
    cases s.findStation n with
    | mk t found => cases found <;> simp [Answered.withAttention]
  · simp [h, Answered.withAttention]

@[simp] theorem State.withAttention_stationRestart (s : State) (a : Bool) (n : StationName) :
    (s.withAttention a).stationRestart n = Answered.withAttention (s.stationRestart n) a := by
  unfold State.stationRestart
  rw [State.withAttention_findStation]
  by_cases h : n.inRange = true
  · simp only [h]
    cases s.findStation n with
    | mk t found => cases found <;> simp [Answered.withAttention]
  · simp [h, Answered.withAttention]

@[simp] theorem State.withAttention_moveStation (s : State) (a : Bool) (source : Nat) (c : Context) (target : Key) :
    (s.withAttention a).moveStation source c target = (s.moveStation source c target).withAttention a := by
  unfold State.moveStation
  simp only [State.withAttention_fields, State.withAttention_releaseStation, State.withAttention_lowestFree]
  generalize s.releaseStation source .moved s.time.counter 0 = t
  cases t.lowestFree with
  | none => rfl
  | some index =>
    simp only [State.withAttention_occupy]
    exact State.withAttention_handOn _ a _ _

@[simp] theorem State.withAttention_stationMove (s : State) (a : Bool) (origin target : StationName) :
    (s.withAttention a).stationMove origin target = Answered.withAttention (s.stationMove origin target) a := by
  unfold State.stationMove
  rw [State.withAttention_findStation]
  by_cases h : (origin.inRange && target.inRange) = true
  · simp only [h]
    cases s.findStation origin with
    | mk t found =>
      cases found with
      | none => rfl
      | some source =>
        simp only [Answered.withAttention, State.withAttention_findStation]
        cases t.findStation target with
        | mk u other =>
          cases other with
          | some index => rfl
          | none =>
            simp only [State.withAttention_fields, State.withAttention_context?]
            cases claimant u.settings.active target.number with
            | none => rfl
            | some channel =>
              cases u.context? source with
              | none => rfl
              | some c =>
                dsimp only
                rw [show (u.withAttention a).occupiedCount channel = u.occupiedCount channel from rfl]
                by_cases room : u.occupiedCount channel < quota u.settings.active channel ∨ channel = c.key.channel <;>
                  simp [room]
  · simp [h, Answered.withAttention]

@[simp] theorem State.withAttention_errorClear (s : State) (a : Bool) (argument : Word) :
    (s.withAttention a).errorClear argument = (s.errorClear argument).withAttention a := by
  let named : BitVec 10 := argument.setWidth 10
  let errors := s.events.errors &&& ~~~named
  let s1 : State := { s with events := { s.events with errors := errors } }
  let s2 : State :=
    if named.getLsbD ErrorKind.contextIntegrity.code then
      { s1 with table := { s1.table with quarantined := [] } }.issueStatus Config.freeCountWord
    else s1
  let s3 : State := if errors = s.events.errors then s2 else s2.issueStatus Config.errorStatusWord
  have h2 : (if named.getLsbD ErrorKind.contextIntegrity.code then
      { s1.withAttention a with table := { s1.table with quarantined := [] } }.issueStatus Config.freeCountWord
      else s1.withAttention a) = s2.withAttention a :=
    State.withAttention_ite ({ s1 with table := { s1.table with quarantined := [] } }.issueStatus Config.freeCountWord)
      s1 a
  have h3 : (if errors = s.events.errors then s2.withAttention a
      else (s2.withAttention a).issueStatus Config.errorStatusWord) = s3.withAttention a :=
    State.withAttention_ite s2 (s2.issueStatus Config.errorStatusWord) a
  unfold State.errorClear
  show (let t := if named.getLsbD ErrorKind.contextIntegrity.code then
      { s1.withAttention a with table := { s1.table with quarantined := [] } }.issueStatus Config.freeCountWord
      else s1.withAttention a
    let t := if errors = s.events.errors then t else t.issueStatus Config.errorStatusWord
    if (s.events.firstPointer.any fun k => named.getLsbD k.code) = true then
      { t with events := { t.events with firstPointer := none } }.issueStatus Config.firstPointerWord
    else t) = _
  rw [h2]
  dsimp only
  rw [h3]
  exact State.withAttention_ite (p := (s.events.firstPointer.any fun k => named.getLsbD k.code) = true)
    ({ s3 with events := { s3.events with firstPointer := none } }.issueStatus Config.firstPointerWord) s3 a

@[simp] theorem State.withAttention_softReset (s : State) (a : Bool) (sequence : BitVec 16) :
    (s.withAttention a).softReset sequence = (s.softReset sequence).withAttention a := by
  unfold State.softReset
  generalize wordsAfterReset = words
  rw [State.withAttention_endFlight, State.withAttention_forwardHeldUnfilled]
  generalize s.endFlight.forwardHeldUnfilled = t
  rw [show (t.withAttention a).clearForSetup = t.clearForSetup.withAttention a from rfl,
    show (s.withAttention a).settings = s.settings from rfl]
  generalize t.clearForSetup = u
  cases s.settings.draining <;>
    simp only [State.withAttention_commandAnswer] <;>
    exact List.foldl_withAttention State.issueStatus a (fun t x => t.withAttention_issueStatus a x) _ _

@[simp] theorem State.withAttention_answerCommand (s : State) (a : Bool) (code : Nat) (first second : Word) :
    (s.withAttention a).answerCommand code first second = Answered.withAttention (s.answerCommand code first second) a := by
  have running : (s.withAttention a).running = s.running := rfl
  unfold State.answerCommand State.whenRunning State.channelClose
  simp only [running, State.withAttention_fields, State.withAttention_stationDrop, State.withAttention_stationRestart,
    State.withAttention_stationMove, State.withAttention_errorClear, State.withAttention_closeChannel]
  (repeat' split) <;> rfl

@[simp] theorem State.withAttention_takeCommand (s : State) (a : Bool) :
    (s.withAttention a).takeCommand = s.takeCommand.withAttention a := by
  have drain : ∀ sequence, (s.withAttention a).startDrain sequence = (s.startDrain sequence).withAttention a := by
    intro sequence
    unfold State.startDrain
    rw [show (s.withAttention a).drained = s.drained from rfl]
    by_cases h : s.drained = true
    · rw [if_pos h, if_pos h]
      rfl
    · rw [if_neg h, if_neg h]
      rfl
  unfold State.takeCommand
  simp only [State.withAttention_fields, State.withAttention_commandAnswer, State.withAttention_softReset, drain,
    State.withAttention_answerCommand, Answered.withAttention]
  (repeat' split) <;> rfl

@[simp] theorem State.withAttention_offerConsumer (s : State) (a : Bool) :
    (s.withAttention a).offerConsumer = s.offerConsumer.withAttention a := by
  unfold State.offerConsumer
  simp only [State.withAttention_fields]
  let v := setting s.settings.staging Config.consumerWord 11 0
  let t : State := { s with events := { s.events with consumer := v } }
  let u : State := if t.markedUnread then t else { t with events := { t.events with mark := v } }
  have h : (if (t.withAttention a).markedUnread then t.withAttention a
      else { t.withAttention a with events := { t.events with mark := v } }) = u.withAttention a :=
    State.withAttention_ite t { t with events := { t.events with mark := v } } a
  split
  · exact (congrArg State.writeOutHeld h).trans (u.withAttention_writeOutHeld a)
  · rfl

/-! ### Requests passed -/

@[simp] theorem State.withAttention_settingsWrite (s : State) (a : Bool) (r : Request) :
    (s.withAttention a).settingsWrite r = (s.settingsWrite r).withAttention a := by
  have on : ∀ (t : State) (word : Nat) (f : State → State), f (t.withAttention a) = (f t).withAttention a →
      (t.withAttention a).onControl r word f = (t.onControl r word f).withAttention a := by
    intro t word f hf
    unfold State.onControl
    rw [hf, State.withAttention_stopIfDue]
    exact State.withAttention_ite _ _ a
  unfold State.settingsWrite
  rw [show (s.withAttention a).settingsRequest r = s.settingsRequest r from rfl,
    show (s.withAttention a).copySettings r = (s.copySettings r).withAttention a from rfl,
    on _ _ _ (State.withAttention_takeApply _ a), on _ _ _ (State.withAttention_takeCommand _ a),
    on _ _ _ (State.withAttention_offerConsumer _ a)]
  exact State.withAttention_ite _ _ a

@[simp] theorem State.withAttention_passWrite (s : State) (a : Bool) (r : Request) :
    (s.withAttention a).passWrite r = (s.passWrite r).withAttention a := by
  simp [State.passWrite]

@[simp] theorem State.withAttention_passResponse (s : State) (a : Bool) (r : Request) (slot : Nat) :
    (s.withAttention a).passResponse r slot = (s.passResponse r slot).withAttention a := by
  unfold State.passResponse
  rw [show (s.withAttention a).responseKey? r = s.responseKey? r from rfl, State.withAttention_beginForward]
  cases fillRequested r with
  | false => simp
  | true =>
    cases s.responseKey? r with
    | none => simp
    | some key =>
      dsimp only
      by_cases h : tagInRange key.tag = true
      · simp only [h, if_true, State.withAttention_lookup, State.withAttention_fields]
        simp
      · simp [h]

@[simp] theorem State.withAttention_deliver (s : State) (a : Bool) (slot : Nat) :
    (s.withAttention a).deliver slot = (s.deliver slot).withAttention a := by
  unfold State.deliver
  simp only [State.withAttention_fields, State.withAttention_context?]
  cases Table.get? s.slotMap slot with
  | none => rfl
  | some index =>
    dsimp only
    cases s.context? index with
    | none => rfl
    | some c =>
      dsimp only
      cases c.intact with
      | false => exact s.withAttention_failIntegrity a _ _
      | true =>
        cases c.correction with
        | issued issued k =>
          dsimp only
          by_cases h : issued.status = .abort
          · simp [h]
          · simp [h]
            rfl
        | _ => rfl

@[simp] theorem State.withAttention_passRead (s : State) (a : Bool) (r : Request) :
    (s.withAttention a).passRead r = (s.passRead r).withAttention a := by
  unfold State.passRead
  rw [show (s.withAttention a).deliverySlot? r = s.deliverySlot? r from rfl]
  cases s.deliverySlot? r <;> simp

end Sys2Proof.Machine
end

