-- ==== Sys2Proof/Laws/Held.lean ====
section
/-!
SUPPORT. What a release does, and what happens to held writes: the own writes that go before them, the requests they are
forwarded as, and the records they change, whether they are forwarded unfilled, find their station, or find it gone.
-/

namespace Sys2Proof.Machine

/-! ### Requests forwarded, own writes going first (R137, R149) -/

/-- Between these states these requests have been forwarded, in order, with own writes that may be sent going first. -/
structure Forwards (u t : State) (out : List Request) : Prop where
  waiting : t.forwarder.waiting = u.forwarder.waiting
  stalled : t.forwarder.stalled = u.forwarder.stalled
  toInitiator : t.forwarder.toInitiator = u.forwarder.toInitiator
  nextSerial : t.forwarder.nextSerial = u.forwarder.nextSerial + out.length
  inFlight : t.forwarder.inFlight = u.forwarder.inFlight ++
    (out.zipIdx u.forwarder.nextSerial).map fun p => { serial := p.2, source := p.1.source, tag := p.1.tag }
  toMemory : ∃ sent, t.forwarder.toMemory = u.forwarder.toMemory ++ sent ∧ out.Sublist sent ∧
    (∀ q ∈ sent, q ∈ out ∨ q.source = u.pins.straps.ownSource) ∧
    sent.length + u.own.outstanding.length = out.length + t.own.outstanding.length
  alone : out = [] → t.forwarder.toMemory = u.forwarder.toMemory
  straps : t.pins.straps = u.pins.straps

/-- With nothing left held, it is what the statements call the forwarding of held writes. -/
theorem Forwards.held {u t : State} {out : List Request} (h : Forwards u t out) (hh : t.forwarder.held = []) :
    ForwardsHeld u t out :=
  ⟨hh, h.waiting, h.stalled, h.toInitiator, h.nextSerial, h.inFlight, h.toMemory, h.alone⟩

/-- It reads the forwarder, the outstanding own writes and the straps alone. -/
theorem Forwards.congr {u t u' t' : State} {out : List Request} (h : Forwards u t out)
    (h1 : u'.forwarder = u.forwarder) (h2 : u'.own.outstanding = u.own.outstanding)
    (h3 : u'.pins.straps = u.pins.straps) (g1 : t'.forwarder = t.forwarder)
    (g2 : t'.own.outstanding = t.own.outstanding) (g3 : t'.pins.straps = t.pins.straps) : Forwards u' t' out := by
  obtain ⟨a, b, c, d, e, f, g, i⟩ := h
  constructor <;> simp_all

/-- Nothing forwarded; the held writes may have left the buffer. -/
theorem Forwards.none (u : State) (held : List HeldWrite) :
    Forwards u { u with forwarder := { u.forwarder with held := held } } [] :=
  ⟨rfl, rfl, rfl, rfl, by simp, ⟨[], by simp⟩, fun _ => rfl, rfl⟩

theorem Forwards.trans {u t v : State} {a b : List Request} (h : Forwards u t a) (g : Forwards t v b) :
    Forwards u v (a ++ b) := by
  obtain ⟨x, hx1, hx2, hx3, hx4⟩ := h.toMemory
  obtain ⟨y, hy1, hy2, hy3, hy4⟩ := g.toMemory
  refine ⟨g.waiting.trans h.waiting, g.stalled.trans h.stalled, g.toInitiator.trans h.toInitiator, ?_, ?_,
    ⟨x ++ y, by rw [hy1, hx1, List.append_assoc], hx2.append hy2, ?_, ?_⟩, ?_, g.straps.trans h.straps⟩
  · rw [g.nextSerial, h.nextSerial, List.length_append, Nat.add_assoc]
  · rw [g.inFlight, h.inFlight, h.nextSerial]
    simp [List.zipIdx_append]
  · intro q hq
    rw [h.straps] at hy3
    simp only [List.mem_append] at *
    rcases hq with hq | hq
    · exact (hx3 q hq).imp .inl id
    · exact (hy3 q hq).imp .inr id
  · simp only [List.length_append]
    omega
  · intro e
    rw [g.alone (List.append_eq_nil_iff.mp e).2, h.alone (List.append_eq_nil_iff.mp e).1]

theorem Forwards.grow {u t : State} {out : List Request} (h : Forwards u t out) :
    u.forwarder.toMemory.length ≤ t.forwarder.toMemory.length := by
  obtain ⟨x, h1, _⟩ := h.toMemory
  simp [h1]

/-- Sending the head of the own-write queue puts own writes, outstanding from then on, on the memory port. -/
theorem State.sendOwn_sends (s : State) :
    ∃ sent : List Request, s.sendOwn.forwarder.toMemory = s.forwarder.toMemory ++ sent ∧
      (∀ q ∈ sent, q.source = s.pins.straps.ownSource) ∧
      sent.length + s.own.outstanding.length = s.sendOwn.own.outstanding.length := by
  unfold State.sendOwn
  split
  · exact ⟨[], by simp⟩
  · rename_i w rest h
    split
    · exact ⟨[s.ownRequest w], by simp [State.ownRequest, Nat.add_comm]⟩
    · exact ⟨[], by simp⟩

theorem State.sendUpTo_sends (n : Nat) (s : State) :
    ∃ sent : List Request, (State.sendUpTo n s).forwarder.toMemory = s.forwarder.toMemory ++ sent ∧
      (∀ q ∈ sent, q.source = s.pins.straps.ownSource) ∧
      sent.length + s.own.outstanding.length = (State.sendUpTo n s).own.outstanding.length := by
  induction n generalizing s with
  | zero => exact ⟨[], by simp [State.sendUpTo]⟩
  | succ n ih =>
    unfold State.sendUpTo
    split
    · obtain ⟨x, h1, h2, h3⟩ := s.sendOwn_sends
      obtain ⟨y, g1, g2, g3⟩ := ih s.sendOwn
      simp only [State.sendOwn_frame] at g2
      refine ⟨x ++ y, by rw [g1, h1, List.append_assoc], ?_, by rw [List.length_append]; omega⟩
      intro q hq
      exact (List.mem_append.mp hq).elim (h2 q) (g2 q)
    · exact ⟨[], by simp⟩

/-- One request, numbered and forwarded. -/
theorem Forwards.one (s t : State) (q : Request) (hf : t.forwarder = s.beginForward.forwarder)
    (ho : t.own.outstanding = s.beginForward.own.outstanding) (hp : t.pins.straps = s.pins.straps) :
    Forwards s (t.forwardAs s.forwarder.nextSerial q) [q] := by
  obtain ⟨x, h1, h2, h3⟩ := State.sendUpTo_sends Config.ownOutstanding s
  refine ⟨by simp [State.forwardAs, hf], by simp [State.forwardAs, hf], by simp [State.forwardAs, hf],
    by simp [State.forwardAs, hf], by simp [State.forwardAs, hf], ⟨x ++ [q], ?_, by simp, ?_, ?_⟩, by simp,
    by simp [State.forwardAs, hp]⟩
  · simp [State.forwardAs, hf, State.beginForward, State.sendReady, h1]
  · intro p hp'
    exact (List.mem_append.mp hp').elim (fun e => .inr (h2 p e)) .inl
  · simp [State.forwardAs, ho, State.beginForward, State.sendReady]
    omega

/-- What forwarding the held writes unfilled does (R108, R146). -/
theorem State.forwardHeldUnfilled_forwards (s : State) :
    Forwards s s.forwardHeldUnfilled (s.forwarder.held.map HeldWrite.request) := by
  have all : ∀ (l : List HeldWrite) (u : State),
      Forwards u (l.foldl State.forwardUnfilled u) (l.map HeldWrite.request) := by
    intro l
    induction l with
    | nil => exact fun u => Forwards.none u _
    | cons h l ih =>
      intro u
      have a := Forwards.one u u.beginForward h.request rfl rfl (by simp)
      exact (a.congr rfl rfl rfl (t' := State.forwardUnfilled u h) rfl rfl rfl).trans (ih _)
  exact (Forwards.none s []).trans (all s.forwarder.held _)

/-! ### Events on their way while own writes are sent (R149, R169) -/

/-- The event stands in the holding queue or the own-write queue, or its record has gone to memory since the state `u`. -/
def OnItsWay (u t : State) (e : EventRecord) : Prop :=
  t.hasEvent e = true ∨
    ∃ q ∈ t.forwarder.toMemory.drop u.forwarder.toMemory.length,
      q.source = t.pins.straps.ownSource ∧ ((Request.laneWords q).map LaneWord.data).tail = e.words.tail

theorem List.mem_drop_of_prefix {α : Type} {a b : List α} (n : Nat) (h : a <+: b) (q : α) (hq : q ∈ a.drop n) :
    q ∈ b.drop n := by
  obtain ⟨c, rfl⟩ := h
  simp [List.drop_append, hq]

theorem State.writeRecord_has (s : State) (e : EventRecord) : (s.writeRecord e).hasEvent e = true := by
  simp [State.hasEvent, State.writeRecord, State.issueStatusFor, OwnWrite.isStatus]

/-- Held events written out stay on their way. -/
theorem State.writeOut_keeps (l : List EventRecord) (s : State) (hl : s.events.holding = l) (e : EventRecord)
    (h : s.hasEvent e = true) : (s.writeOut l).hasEvent e = true := by
  induction l generalizing s with
  | nil => exact h
  | cons a l ih =>
    unfold State.writeOut
    split
    · apply ih
      · simp [State.writeRecord]
      · by_cases he : e = a
        · subst he
          exact State.writeRecord_has _ _
        · apply State.writeRecord_keeps
          simp only [State.hasEvent, Bool.or_eq_true] at *
          exact h.imp (fun h => by rw [hl] at h; simpa [he] using h) id
    · exact h

theorem OnItsWay.mono {u s t : State} {e : EventRecord} (h : OnItsWay u s e)
    (h1 : s.hasEvent e = true → t.hasEvent e = true) (h2 : s.forwarder.toMemory <+: t.forwarder.toMemory)
    (h3 : t.pins.straps = s.pins.straps) : OnItsWay u t e := by
  rcases h with h | ⟨q, hq, a, b⟩
  · exact .inl (h1 h)
  · exact .inr ⟨q, List.mem_drop_of_prefix _ h2 _ hq, by rw [h3]; exact a, b⟩

/-- Sending the head of the own-write queue keeps an event on its way: its own record goes to memory, any other stays. -/
theorem OnItsWay.sendOwn {u s : State} {e : EventRecord} (h : OnItsWay u s e)
    (hl : u.forwarder.toMemory.length ≤ s.forwarder.toMemory.length) : OnItsWay u s.sendOwn e := by
  obtain ⟨x, x1, _⟩ := s.sendOwn_sends
  rcases h with h | ⟨q, hq, h1, h2⟩
  · unfold State.sendOwn
    split
    · exact .inl h
    · rename_i w rest hw
      split
      · simp only [State.hasEvent, Bool.or_eq_true, hw, List.any_cons] at h
        by_cases hm : (match w.body with
            | .record _ words => words.tail == e.words.tail && w.cause == e.cause
            | .status _ _ => false) = true
        · refine .inr ⟨s.ownRequest w, ?_, by simp [State.ownRequest], ?_⟩
          · simp only [State.writeOutHeld_frame, List.drop_append, List.mem_append]
            right
            rw [Nat.sub_eq_zero_of_le hl]
            simp
          · cases hb : w.body with
            | record a ws =>
              rw [hb] at hm
              simp only [Bool.and_eq_true, beq_iff_eq] at hm
              simp [State.ownRequest, hb, Request.laneWords, Function.comp_def, hm.1]
            | status a v =>
              rw [hb] at hm
              cases hm
        · left
          apply State.writeOut_keeps _ _ rfl
          simp only [State.hasEvent, Bool.or_eq_true]
          rcases h with h | h | h
          · exact .inl h
          · exact absurd h hm
          · exact .inr h
      · exact .inl h
  · exact .inr ⟨q, List.mem_drop_of_prefix _ (by rw [x1]; exact List.prefix_append _ _) _ hq, by simpa using h1, h2⟩

theorem OnItsWay.sendReady {u s : State} {e : EventRecord} (h : OnItsWay u s e)
    (hl : u.forwarder.toMemory.length ≤ s.forwarder.toMemory.length) : OnItsWay u s.sendReady e := by
  have all : ∀ n s, OnItsWay u s e → u.forwarder.toMemory.length ≤ s.forwarder.toMemory.length →
      OnItsWay u (State.sendUpTo n s) e := by
    intro n
    induction n with
    | zero => exact fun _ h _ => h
    | succ n ih =>
      intro s h hl
      unfold State.sendUpTo
      split
      · obtain ⟨x, x1, _⟩ := s.sendOwn_sends
        exact ih _ (h.sendOwn hl) (by rw [x1, List.length_append]; omega)
      · exact h
  exact all _ s h hl

/-- An event reported in one state is reported since `u` in every later one that keeps it on its way. -/
theorem State.reportsSince_of {u v w : State} {f : EventFields} {time : Time} {cause : Option Nat}
    (h : v.reports f time cause = true) (hw : ∀ e, OnItsWay u v e → OnItsWay u w e)
    (ha : w.settings.active = v.settings.active) : w.reportsSince u f time cause = true := by
  unfold State.reportsSince State.reports at *
  rw [ha]
  rw [Bool.or_eq_true] at h
  rcases h with h | h
  · simp [h]
  · rcases hw _ (.inl h) with g | ⟨q, hq, a, b⟩
    · simp [g]
    · rw [Bool.or_eq_true, List.any_eq_true]
      exact .inr ⟨q, hq, by simp [a]; simpa using b⟩

/-- Sending own writes fills no place of the holding queue. -/
theorem State.writeOut_holding (l : List EventRecord) (s : State) (h : s.events.holding = l) :
    (s.writeOut l).events.holding.length ≤ l.length := by
  induction l generalizing s with
  | nil => simp [State.writeOut, h]
  | cons a l ih =>
    unfold State.writeOut
    split
    · have := ih (({ s with events := { s.events with holding := l } } : State).writeRecord a)
        (by simp [State.writeRecord])
      exact this.trans (by simp)
    · simp [h]

theorem State.sendOwn_holding (s : State) : s.sendOwn.events.holding.length ≤ s.events.holding.length := by
  unfold State.sendOwn
  split
  · exact Nat.le_refl _
  · split
    · exact State.writeOut_holding _ _ rfl
    · exact Nat.le_refl _

theorem State.sendReady_holding (s : State) : s.sendReady.events.holding.length ≤ s.events.holding.length := by
  have all : ∀ n s, (State.sendUpTo n s).events.holding.length ≤ s.events.holding.length := by
    intro n
    induction n with
    | zero => exact fun s => Nat.le_refl _
    | succ n ih =>
      intro s
      unfold State.sendUpTo
      split
      · exact (ih _).trans s.sendOwn_holding
      · exact Nat.le_refl _
  exact all _ s

/-! ### Filling (R102, R104) -/

/-- A station found READY: filled from its issued correction, ISSUED in the slot, which names it. -/
theorem State.fillAndForward_ready {s t : State} {slot index : Nat} {c : Context} {issued : Issued}
    (h : s.settleOwner slot (some index) = t) (hc : t.context? index = some c) (hr : c.correction = .ready issued)
    (serial : Nat) (r : Request) (key : Key) :
    s.fillAndForward serial r key slot (some index) =
      ({ t.writeContext index { c with correction := .issued issued slot } with
        slotMap := Table.set t.slotMap slot index } : State).forwardAs serial
        (issued.fill.request (mainPosition t.settings.active key.channel) r) := by
  unfold State.fillAndForward
  dsimp only
  rw [h]
  simp [hc, hr, fillFor]

/-- Any other response: forwarded with the fill the station's correction gives, and no record changes. -/
theorem State.fillAndForward_other {s t : State} {slot : Nat} {found : Option Nat} (h : s.settleOwner slot found = t)
    (hr : ∀ c issued, found.bind t.context? = some c → c.correction ≠ .ready issued) (serial : Nat) (r : Request)
    (key : Key) :
    s.fillAndForward serial r key slot found =
      t.forwardAs serial ((fillFor slot (found.bind t.context?)).request (mainPosition t.settings.active key.channel) r) := by
  unfold State.fillAndForward
  dsimp only
  rw [h]
  cases found with
  | none => rfl
  | some index =>
    simp only [Option.bind_some] at hr ⊢
    cases hc : t.context? index with
    | none => rfl
    | some c =>
      dsimp only
      split
      · rfl
      · rename_i e
        exact absurd e (hr c _ hc)
      · rfl
      · rfl

/-- Between these states held writes have been forwarded as these requests; the contexts and the slot map aside, nothing
else has changed but own writes sent and held events written. -/
structure Fills (u t : State) (out : List Request) : Prop where
  forwards : Forwards u t out
  held : t.forwarder.held = u.forwarder.held
  pending : t.pending = u.pending
  pins : t.pins = u.pins
  part : t.part = u.part
  settings : t.settings = u.settings
  intake : t.intake = u.intake
  flight : t.flight = u.flight
  time : t.time = u.time
  now : t.now = u.now
  errors : t.events.errors = u.events.errors
  results : t.events.applyResult = u.events.applyResult ∧ t.events.commandResult = u.events.commandResult
  onItsWay : ∀ w e, w.forwarder.toMemory.length ≤ u.forwarder.toMemory.length → OnItsWay w u e → OnItsWay w t e
  holding : t.events.holding.length ≤ u.events.holding.length

theorem Fills.trans {u t v : State} {a b : List Request} (h : Fills u t a) (g : Fills t v b) : Fills u v (a ++ b) :=
  ⟨h.forwards.trans g.forwards, g.held.trans h.held, g.pending.trans h.pending, g.pins.trans h.pins,
    g.part.trans h.part, g.settings.trans h.settings, g.intake.trans h.intake, g.flight.trans h.flight,
    g.time.trans h.time, g.now.trans h.now, g.errors.trans h.errors,
    ⟨g.results.1.trans h.results.1, g.results.2.trans h.results.2⟩,
    fun w e hl hg => g.onItsWay w e (hl.trans h.forwards.grow) (h.onItsWay w e hl hg), g.holding.trans h.holding⟩

theorem Fills.none (u : State) : Fills u u [] :=
  ⟨Forwards.none u _, rfl, rfl, rfl, rfl, rfl, rfl, rfl, rfl, rfl, rfl, ⟨rfl, rfl⟩, fun _ _ _ h => h, Nat.le_refl _⟩

/-- One held write, forwarded as this request with the contexts and the slot map as given. -/
theorem Fills.one (u : State) (q : Request) (table : ContextTable) (slotMap : Table Nat) :
    Fills u
      ((({ u.beginForward with table := table, slotMap := slotMap } : State).forwardAs u.forwarder.nextSerial q).withCause
        u.now.cause) [q] := by
  have hf := Forwards.one u { u.beginForward with table := table, slotMap := slotMap } q rfl rfl (by simp)
  have out : ∀ w e, w.forwarder.toMemory.length ≤ u.forwarder.toMemory.length → OnItsWay w u e → OnItsWay w
      ((({ u.beginForward with table := table, slotMap := slotMap } : State).forwardAs u.forwarder.nextSerial q).withCause
        u.now.cause) e := fun w e hl hg => (hg.sendReady hl).mono (fun h => h)
    (by simp [State.beginForward, State.forwardAs, State.withCause])
    (by simp [State.beginForward, State.forwardAs, State.withCause])
  refine ⟨hf.congr rfl rfl rfl rfl rfl rfl, ?_, ?_, ?_, ?_, ?_, ?_, ?_, ?_, ?_, ?_, ?_, out, u.sendReady_holding⟩ <;>
    simp [State.forwardAs, State.withCause]

/-- Once all are forwarded and none is left, the parts of `Fills` from the state in which they were held. -/
theorem Fills.emptied {u t : State} {out : List Request}
    (h : Fills { u with forwarder := { u.forwarder with held := [] } } t out) :
    ForwardsHeld u t out ∧ t.pending = u.pending ∧ t.pins = u.pins ∧ t.part = u.part ∧ t.settings = u.settings ∧
      t.intake = u.intake ∧ t.flight = u.flight ∧ t.time = u.time ∧ t.now = u.now ∧
      t.events.errors = u.events.errors ∧ t.events.applyResult = u.events.applyResult ∧
      t.events.commandResult = u.events.commandResult ∧
      (∀ w e, w.forwarder.toMemory.length ≤ u.forwarder.toMemory.length → OnItsWay w u e → OnItsWay w t e) ∧
      t.events.holding.length ≤ u.events.holding.length :=
  ⟨((Forwards.none u []).trans h.forwards).held h.held, h.pending, h.pins, h.part, h.settings, h.intake, h.flight,
    h.time, h.now, h.errors, h.results.1, h.results.2,
    fun w e hl hg => h.onItsWay w e hl (hg.mono (fun h => h) List.prefix_rfl rfl), h.holding⟩

/-! ### Held writes released (R103, R143, R146) -/

/-- A held write whose station is gone finds UNKNOWN_STATION. -/
theorem State.fillHeldWrite_unknown (u : State) (h : HeldWrite) (slot : Nat) (hs : h.slot = some slot)
    (h1 : Table.get? u.table.directory h.key.number = none) (h2 : Table.get? u.slotMap slot = none) :
    Fills u (u.fillHeldWrite h)
        [(emptyFill none 3).request (mainPosition u.settings.active h.key.channel) h.request] ∧
      (u.fillHeldWrite h).table = u.table ∧ (u.fillHeldWrite h).slotMap = u.slotMap := by
  have e : u.fillHeldWrite h =
      (({ u.beginForward with table := u.table, slotMap := u.slotMap } : State).forwardAs u.forwarder.nextSerial
        ((emptyFill none 3).request (mainPosition u.settings.active h.key.channel) h.request)).withCause u.now.cause := by
    have e0 : ({ u.beginForward with table := u.table, slotMap := u.slotMap } : State) = u.beginForward := by
      rw [show u.table = u.beginForward.table by simp, show u.slotMap = u.beginForward.slotMap by simp]
    have hl : u.beginForward.lookup h.key u.beginForward.time.counter = (u.beginForward, none) := by
      simp [State.lookup, h1]
    have hso : u.beginForward.settleOwner slot none = u.beginForward := by simp [State.settleOwner, h2]
    unfold State.fillHeldWrite
    rw [hs]
    simp only [hl]
    rw [State.fillAndForward_other hso (by intro c issued h; cases h), e0]
    simp [fillFor]
  rw [e]
  exact ⟨Fills.one _ _ _ _, rfl, rfl⟩

/-- What the release of held writes does once their station is gone. -/
theorem State.releaseHeld_unknown (s : State) (key : Key) (h1 : Table.get? s.table.directory key.number = none)
    (hh : ∀ h ∈ s.forwarder.held, h.key = key ∧ ∃ slot, h.slot = some slot ∧ Table.get? s.slotMap slot = none) :
    Fills { s with forwarder := { s.forwarder with held := [] } } s.releaseHeld
        (s.heldFilled key (emptyFill none 3)) ∧
      s.releaseHeld.table = s.table ∧ s.releaseHeld.slotMap = s.slotMap := by
  have all : ∀ (l : List HeldWrite) (u : State), u.table = s.table → u.slotMap = s.slotMap →
      u.settings = s.settings →
      (∀ h ∈ l, h.key = key ∧ ∃ slot, h.slot = some slot ∧ Table.get? s.slotMap slot = none) →
      Fills u (l.foldl State.fillHeldWrite u)
          (l.map fun h => (emptyFill none 3).request (mainPosition s.settings.active key.channel) h.request) ∧
        (l.foldl State.fillHeldWrite u).table = s.table ∧ (l.foldl State.fillHeldWrite u).slotMap = s.slotMap := by
    intro l
    induction l with
    | nil => exact fun u a b _ _ => ⟨Fills.none u, a, b⟩
    | cons h l ih =>
      intro u a b c d
      obtain ⟨k, slot, k1, k2⟩ := d h (by simp)
      obtain ⟨g1, g2, g3⟩ := u.fillHeldWrite_unknown h slot k1 (by rw [k, a]; exact h1) (by rw [b]; exact k2)
      obtain ⟨f1, f2, f3⟩ := ih (u.fillHeldWrite h) (g2.trans a) (g3.trans b) (by rw [g1.settings, c])
        (fun x hx => d x (by simp [hx]))
      rw [k, c] at g1
      exact ⟨g1.trans f1, f2, f3⟩
  exact all s.forwarder.held { s with forwarder := { s.forwarder with held := [] } } rfl rfl rfl hh

/-- A held write whose station is there is filled against the correction as it stands. -/
theorem State.fillHeldWrite_known (u : State) (h : HeldWrite) (slot index : Nat) (c : Context)
    (hs : h.slot = some slot) (h1 : Table.get? u.table.directory h.key.number = some index)
    (hc : u.context? index = some c) (hi : c.intact = true)
    (h2 : ∀ o, Table.get? u.slotMap slot = some o → o = index) :
    let (fill, next) := fillOnce c.station slot c.correction
    let t := u.fillHeldWrite h
    Fills u t [fill.request (mainPosition u.settings.active h.key.channel) h.request] ∧
      t.context? index = some { c with correction := next } ∧ (∀ m, m ≠ index → t.context? m = u.context? m) ∧
      t.table.directory = u.table.directory ∧ t.table.quarantined = u.table.quarantined ∧
      t.table.ageing = u.table.ageing ∧
      t.slotMap = (if c.correction matches .ready _ then Table.set u.slotMap slot index else u.slotMap) := by
  have b1 : u.beginForward.table = u.table := by simp
  have b2 : u.beginForward.slotMap = u.slotMap := by simp
  have e0 : ({ u.beginForward with table := u.table, slotMap := u.slotMap } : State) = u.beginForward := by
    rw [← b1, ← b2]
  have hb : u.beginForward.context? index = some c := by simpa [State.context?] using hc
  have hso : u.beginForward.settleOwner slot (some index) = u.beginForward := by
    unfold State.settleOwner
    rw [b2]
    cases ho : Table.get? u.slotMap slot with
    | none => rfl
    | some o => simp [h2 o ho]
  have hl : u.beginForward.lookup h.key u.beginForward.time.counter = (u.beginForward, some index) := by
    simp [State.lookup, h1, hb, hi]
  have ht : u.fillHeldWrite h = (u.beginForward.fillAndForward u.forwarder.nextSerial h.request h.key slot
      (some index)).withCause u.now.cause := by
    unfold State.fillHeldWrite
    rw [hs]
    simp only [hl]
  dsimp only
  cases hcc : c.correction with
  | ready issued =>
    rw [State.fillAndForward_ready hso hb hcc] at ht
    have e : u.fillHeldWrite h = (({ u.beginForward with
        table := { u.table with
          contexts := Table.set u.table.contexts index { c with correction := .issued issued slot, intact := true } }
        slotMap := Table.set u.slotMap slot index } : State).forwardAs u.forwarder.nextSerial
          (issued.fill.request (mainPosition u.settings.active h.key.channel) h.request)).withCause u.now.cause := by
      rw [ht]
      simp [State.writeContext]
    rw [e]
    refine ⟨Fills.one _ _ _ _, ?_, ?_, rfl, rfl, rfl, rfl⟩
    · simp [State.withCause, State.forwardAs, State.context?, fillOnce, hi]
    · intro m hm
      simp [State.withCause, State.forwardAs, State.context?, Table.get?_set, hm]
  | _ =>
    rw [State.fillAndForward_other hso (by intro c' i h; simp [hb] at h; subst h; simp [hcc])] at ht
    have e : u.fillHeldWrite h =
        (({ u.beginForward with table := u.table, slotMap := u.slotMap } : State).forwardAs u.forwarder.nextSerial
          ((fillOnce c.station slot c.correction).1.request (mainPosition u.settings.active h.key.channel)
            h.request)).withCause u.now.cause := by
      rw [ht, e0]
      simp [fillOnce, hcc, hb, fillFor]
    rw [hcc] at e
    rw [e]
    refine ⟨Fills.one _ _ _ _, ?_, fun m _ => rfl, rfl, rfl, rfl, rfl⟩
    show u.context? index = _
    simp [hc, fillOnce, ← hcc]

/-- What the release of held writes does while their station is there: each is filled against the correction the one before
it left. -/
theorem State.releaseHeld_known (s : State) (key : Key) (index : Nat) (c : Context)
    (h1 : Table.get? s.table.directory key.number = some index) (hc : s.context? index = some c)
    (hi : c.intact = true)
    (hh : ∀ h ∈ s.forwarder.held,
      h.key = key ∧ ∃ slot, h.slot = some slot ∧ ∀ o, Table.get? s.slotMap slot = some o → o = index) :
    let (out, last) := fillsInTurn c.station (mainPosition s.settings.active key.channel) s.forwarder.held c.correction
    let t := s.releaseHeld
    Fills { s with forwarder := { s.forwarder with held := [] } } t out ∧
      t.context? index = some { c with correction := last } ∧ (∀ m, m ≠ index → t.context? m = s.context? m) ∧
      t.table.directory = s.table.directory ∧ t.table.quarantined = s.table.quarantined ∧
      t.table.ageing = s.table.ageing ∧ t.slotMap = s.slotsFilled index c.correction := by
  have all : ∀ (l : List HeldWrite) (u : State) (c : Context),
      Table.get? u.table.directory key.number = some index → u.context? index = some c → c.intact = true →
      u.settings = s.settings →
      (∀ h ∈ l, h.key = key ∧ ∃ slot, h.slot = some slot ∧ ∀ o, Table.get? u.slotMap slot = some o → o = index) →
      let fl := fillsInTurn c.station (mainPosition s.settings.active key.channel) l c.correction
      let t := l.foldl State.fillHeldWrite u
      Fills u t fl.1 ∧ t.context? index = some { c with correction := fl.2 } ∧
        (∀ m, m ≠ index → t.context? m = u.context? m) ∧ t.table.directory = u.table.directory ∧
        t.table.quarantined = u.table.quarantined ∧ t.table.ageing = u.table.ageing ∧
        t.slotMap =
          (match c.correction, l with
          | .ready _, h :: _ => Table.set u.slotMap (h.slot.getD 0) index
          | _, _ => u.slotMap) := by
    intro l
    induction l with
    | nil =>
      intro u c a b d e f
      refine ⟨Fills.none u, b, fun m _ => rfl, rfl, rfl, rfl, ?_⟩
      cases c.correction <;> rfl
    | cons h l ih =>
      intro u c a b d e f
      obtain ⟨k, slot, k1, k2⟩ := f h (by simp)
      obtain ⟨g1, g2, g3, g4, g5, g6, g7⟩ := u.fillHeldWrite_known h slot index c k1 (by rw [k]; exact a) b d k2
      obtain ⟨f1, f2, f3, f4, f5, f6, f7⟩ := ih (u.fillHeldWrite h) _ (by rw [g4]; exact a) g2 d
        (by rw [g1.settings, e]) (by
          intro x hx
          obtain ⟨x1, sl, x2, x3⟩ := f x (by simp [hx])
          refine ⟨x1, sl, x2, fun o ho => ?_⟩
          rw [g7] at ho
          by_cases hb : (match c.correction with | .ready _ => true | _ => false) = true
          · rw [if_pos hb, Table.get?_set] at ho
            split at ho
            · injection ho with ho
              exact ho.symm
            · exact x3 o ho
          · rw [if_neg hb] at ho
            exact x3 o ho)
      rw [k, e] at g1
      have turn : ∀ st m, fillsInTurn st m (h :: l) c.correction =
          ((fillOnce st slot c.correction).1.request m h.request ::
              (fillsInTurn st m l (fillOnce st slot c.correction).2).1,
            (fillsInTurn st m l (fillOnce st slot c.correction).2).2) := by
        intro st m
        simp [fillsInTurn, k1]
      refine ⟨?_, ?_, fun m hm => (f3 m hm).trans (g3 m hm), f4.trans g4, f5.trans g5, f6.trans g6, ?_⟩
      · rw [turn]
        exact g1.trans f1
      · rw [turn]
        exact f2
      · refine f7.trans ?_
        rw [g7]
        cases hcc : c.correction <;> simp [k1]
  exact all s.forwarder.held { s with forwarder := { s.forwarder with held := [] } } c h1 hc hi rfl hh

/-- What the statements suppose of the writes held for a station: there are none, or another station is in flight, or they
are all of this one, which is in flight, into slots that name it or nothing. -/
theorem State.heldFor_cases (s : State) (index : Nat) (key : Key) (hh : s.heldFor index key = true) :
    s.forwarder.held = [] ∨ (∃ f, s.flight = some f ∧ f.index ≠ index) ∨
      ((∃ f, s.flight = some f ∧ f.index = index) ∧ Table.wf s.table.directory = true ∧ Table.wf s.slotMap = true ∧
        Table.get? s.table.directory key.number = some index ∧
        ∀ h ∈ s.forwarder.held,
          h.key = key ∧ ∃ slot, h.slot = some slot ∧ ∀ o, Table.get? s.slotMap slot = some o → o = index) := by
  unfold State.heldFor at hh
  rw [Bool.or_eq_true, Bool.or_eq_true] at hh
  rcases hh with (hh | hh) | hh
  · exact .inl (by simpa using hh)
  · refine .inr (.inl ?_)
    cases hf : s.flight with
    | none => simp [hf] at hh
    | some f => exact ⟨f, rfl, by simpa [hf] using hh⟩
  · simp only [Bool.and_eq_true, List.all_eq_true, beq_iff_eq] at hh
    obtain ⟨⟨⟨⟨h1, h2⟩, h3⟩, h4⟩, h5⟩ := hh
    refine .inr (.inr ⟨?_, h2, h3, h4, fun h hm => ⟨(h5 h hm).1, ?_⟩⟩)
    · cases hf : s.flight with
      | none => simp [hf] at h1
      | some f => exact ⟨f, rfl, by simpa [hf] using h1⟩
    · have b := (h5 h hm).2
      cases hs : h.slot with
      | none => simp [hs] at b
      | some slot => exact ⟨slot, rfl, fun o ho => by simpa [hs, ho] using b⟩

/-! ### Releases (R18, R27) -/

theorem State.abandonFor_get (s : State) (index m : Nat) (h : m ≠ index) :
    (s.abandonFor index).context? m = s.context? m := by
  unfold State.abandonFor State.endFlight
  cases hf : s.flight with
  | none => rfl
  | some f =>
    dsimp only
    by_cases hi : f.index = index
    · simp only [hi, if_true]
      cases hc : s.context? index with
      | none => rfl
      | some c =>
        show (s.writeContext _ _).context? m = _
        simp
        omega
    · simp [hi]

theorem State.abandonFor_flight (s : State) (index : Nat) :
    (s.abandonFor index).flight = s.flight.filter fun f => f.index != index := by
  unfold State.abandonFor State.endFlight
  cases hf : s.flight with
  | none => simp [hf]
  | some f =>
    dsimp only
    by_cases hi : f.index = index
    · simp only [hi, if_true, Option.filter]
      cases s.context? index <;> simp
    · simp [hf, hi, Option.filter]

theorem State.vacate_released (s : State) (index : Nat) (reason : ReleaseReason) :
    Released s (s.vacate index reason) index := by
  constructor
  · simp [State.vacate, State.context?, Table.get?_erase]
  · intro m hm
    have := s.abandonFor_get index m hm
    simp [State.vacate, State.context?, Table.get?_erase, hm] at *
    exact this
  · simp [State.vacate]
  · simp [State.vacate, State.clearSlotsOf, State.removeDeadlines]
  · simp [State.vacate, State.clearSlotsOf, State.removeDeadlines]
  · simpa [State.vacate, State.clearSlotsOf, State.removeDeadlines] using s.abandonFor_flight index

/-- A release is read from the contexts, the directory, the slot map, the time unit and the flight alone. -/
theorem Released.congr {s t u : State} {index : Nat} (h : Released s t index)
    (h1 : u.table.contexts = t.table.contexts) (h2 : u.table.directory = t.table.directory)
    (h3 : u.slotMap = t.slotMap) (h4 : u.time = t.time) (h5 : u.flight = t.flight) : Released s u index := by
  have hc : ∀ m, u.context? m = t.context? m := fun m => by simp [State.context?, h1]
  exact ⟨by rw [hc]; exact h.gone, fun m hm => by rw [hc]; exact h.others m hm, by rw [h2]; exact h.directory,
    by rw [h3]; exact h.slotMap, by rw [h4]; exact h.deadlines, by rw [h5]; exact h.flight⟩

/-- What every release leaves as it was. -/
structure ReleaseKeeps (s t : State) : Prop where
  now : t.now = s.now
  forwarder : t.forwarder = s.forwarder
  outstanding : t.own.outstanding = s.own.outstanding
  part : t.part = s.part
  settings : t.settings = s.settings
  intake : t.intake = s.intake
  pins : t.pins = s.pins
  counter : t.time.counter = s.time.counter
  ageing : t.table.ageing = s.table.ageing

/-- What a release does, with room for its event. -/
theorem State.release_does (s : State) (index : Nat) (c : Context) (reason : ReleaseReason) (time : Time) (stage : Nat)
    (hc : s.context? index = some c) (hr : s.eventRoom 1 = true) :
    let t := s.release index reason time stage
    Released s t index ∧ t.reports (s.releasedFields c index reason stage) time s.now.cause = true ∧
      t.events.errors = s.events.errors ∧
      t.table.quarantined = (if reason = .integrity then s.table.quarantined ++ [index] else s.table.quarantined) ∧
      t.events.holding.length ≤ s.events.holding.length + 1 ∧ ReleaseKeeps s t := by
  have room : s.events.holding.length < Config.holdingPlaces := by
    simp [State.eventRoom] at hr
    omega
  unfold State.release
  rw [hc]
  dsimp only
  generalize hu : (s.vacate index reason).issueCounts c.key.channel (reason != .integrity) = u
  have e : u.events = s.events ∧ u.now = s.now ∧ u.settings = s.settings ∧ u.table = (s.vacate index reason).table := by
    subst hu
    simp
  obtain ⟨e1, e2, e3, e4⟩ := e
  have hf : ({ u.stationFields 4 c.key index with reason := reason.code, stage := stage } : EventFields).withHistory c =
      s.releasedFields c index reason stage := by
    simp [State.releasedFields, State.stationFields, e3]
  rw [hf]
  have calm := u.handOn_calm (s.releasedFields c index reason stage) time (by rw [e1]; exact room)
  have said := u.handOn_reports (s.releasedFields c index reason stage) time (by rw [e1]; exact room)
  refine ⟨?_, by rw [← e2]; exact said, calm.2.1.trans (by rw [e1]), by simp [e4, State.vacate],
    by rw [← e1]; exact calm.2.2.2, ?_⟩
  · refine (s.vacate_released index reason).congr ?_ ?_ ?_ ?_ ?_ <;> subst hu <;> simp
  · refine ⟨calm.1.trans e2, ?_, ?_, ?_, ?_, ?_, ?_, ?_, ?_⟩ <;> subst hu <;> simp [State.vacate]

/-- What the release of a damaged record does, with room for its events and CONTEXT_INTEGRITY not fatal. -/
theorem State.integrityRelease_does (s : State) (index : Nat) (c : Context) (time : Time)
    (hc : s.context? index = some c) (hr : s.damageRoom = true) :
    let t := s.integrityRelease index time
    Released s t index ∧ t.reports (s.releasedFields c index .integrity 0) time s.now.cause = true ∧
      t.events.errors = s.events.errors ||| 512#10 ∧ t.table.quarantined = s.table.quarantined ++ [index] ∧
      t.events.holding.length ≤ s.events.holding.length + 2 ∧ ReleaseKeeps s t := by
  obtain ⟨r1, r2⟩ := (Bool.and_eq_true _ _).mp hr
  have room : s.events.holding.length + 2 ≤ Config.holdingPlaces := by simpa [State.eventRoom] using r1
  have does := s.release_does index c .integrity time 0 hc (by
    simp [State.eventRoom]
    omega)
  unfold State.integrityRelease
  dsimp only at does ⊢
  generalize s.release index .integrity time 0 = u at does ⊢
  obtain ⟨b1, b2, b3, b4, b5, k⟩ := does
  have calm := u.setError_calm .contextIntegrity time (by simpa [State.tolerates, k.settings] using r2)
    (by omega)
  refine ⟨?_, ?_, calm.2.1.trans (by rw [b3]; rfl), by simpa using b4, by have := calm.2.2; omega, ?_⟩
  · refine b1.congr ?_ ?_ ?_ ?_ ?_ <;> simp
  · exact State.reports_of_keeps u _ (fun e => u.setError_keeps .contextIntegrity time e) (by simp) _ _ _ b2
  · exact ⟨calm.1.trans k.now, by simp [k.forwarder], by simp [k.outstanding], by simp [k.part], by simp [k.settings],
      by simp [k.intake], by simp [k.pins], by simp [k.counter], by simp [k.ageing]⟩

/-- The writes held for a station that a release has just taken away. -/
theorem State.settleHeld_gone {s v : State} {index : Nat} {key : Key} (hh : s.heldFor index key = true)
    (hr : Released s v index) (hk : ReleaseKeeps s v) :
    let t := v.settleHeld
    SettlesHeld s t index (s.heldFilled key (emptyFill none 3)) ∧ t.table = v.table ∧ t.slotMap = v.slotMap ∧
      t.pins = v.pins ∧ t.part = v.part ∧ t.settings = v.settings ∧ t.intake = v.intake ∧ t.flight = v.flight ∧
      t.time = v.time ∧ t.now = v.now ∧ t.events.errors = v.events.errors ∧
      (∀ e, OnItsWay s v e → OnItsWay s t e) ∧ t.events.holding.length ≤ v.events.holding.length := by
  have since : ∀ {t out}, ForwardsHeld v t out → ForwardsHeld s t out := by
    rintro t out ⟨a1, a2, a3, a4, a5, a6, a7, a8⟩
    rw [hk.forwarder] at a2 a3 a4 a5 a6 a7 a8
    rw [hk.outstanding, hk.pins] at a7
    exact ⟨a1, a2, a3, a4, a5, a6, a7, a8⟩
  have settles : ∀ {t out}, (∀ f, s.flight = some f → f.index = index) → ForwardsHeld s t out →
      SettlesHeld s t index out := by
    intro t out hf h
    unfold SettlesHeld
    rw [if_neg]
    · exact h
    · cases he : s.flight with
      | none => simp
      | some f => simp [hf f he]
  by_cases elsewhere : ∃ f, s.flight = some f ∧ f.index ≠ index
  · obtain ⟨f, h1, h2⟩ := elsewhere
    have hf : v.flight = some f := by simp [hr.flight, h1, Option.filter, h2]
    have e : v.settleHeld = v := v.settleHeld_empty fun h => by simp [hf] at h
    dsimp only
    rw [e]
    refine ⟨?_, rfl, rfl, rfl, rfl, rfl, rfl, rfl, rfl, rfl, rfl, fun _ h => h, Nat.le_refl _⟩
    unfold SettlesHeld
    rw [if_pos (by simp [h1, h2])]
    exact hk.forwarder
  have own : ∀ f, s.flight = some f → f.index = index := fun f h => by
    by_contra hne
    exact elsewhere ⟨f, h, hne⟩
  rcases s.heldFor_cases index key hh with h | h | ⟨⟨f, h1, h2⟩, h3, h4, h5, h6⟩
  · have hv : v.forwarder.held = [] := by rw [hk.forwarder, h]
    have e : s.heldFilled key (emptyFill none 3) = [] := by simp [State.heldFilled, h]
    rw [v.settleHeld_empty fun _ => hv, e]
    exact ⟨settles own (since (((Forwards.none v _).congr rfl rfl rfl rfl rfl rfl).held hv)), rfl, rfl, rfl, rfl, rfl,
      rfl, rfl, rfl, rfl, rfl, fun _ h => h, Nat.le_refl _⟩
  · exact absurd h elsewhere
  · have ht : v.settleHeld = v.releaseHeld := by simp [State.settleHeld, hr.flight, h1, Option.filter, h2]
    obtain ⟨s1, s2, s3⟩ := v.releaseHeld_unknown key
      (by rw [hr.directory, Table.get?_filter _ _ _ h3, h5]; simp [Option.filter]) (by
        intro h hm
        rw [hk.forwarder] at hm
        obtain ⟨a, slot, b, c⟩ := h6 h hm
        refine ⟨a, slot, b, ?_⟩
        rw [hr.slotMap, Table.get?_filter _ _ _ h4]
        cases ho : Table.get? s.slotMap slot with
        | none => rfl
        | some o => simp [Option.filter, c o ho])
    have e : v.heldFilled key (emptyFill none 3) = s.heldFilled key (emptyFill none 3) := by
      simp [State.heldFilled, hk.forwarder, hk.settings]
    rw [e] at s1
    obtain ⟨a1, _, a3, a4, a5, a6, a7, a8, a9, a10, _, _, a13, a14⟩ := s1.emptied
    dsimp only
    rw [ht]
    exact ⟨settles own (since a1), s2, s3, a3, a4, a5, a6, a7, a8, a9, a10, fun e => a13 s e (by rw [hk.forwarder]), a14⟩

/-- What a release does with the writes held for the station. -/
theorem State.releaseStation_does (s : State) (index : Nat) (c : Context) (reason : ReleaseReason) (time : Time)
    (stage : Nat) (hc : s.context? index = some c) (hr : s.eventRoom 1 = true) (hi : reason ≠ .integrity)
    (hh : s.heldFor index c.key = true) :
    let t := s.releaseStation index reason time stage
    Released s t index ∧ t.reportsSince s (s.releasedFields c index reason stage) time s.now.cause = true ∧
      SettlesHeld s t index (s.heldFilled c.key (emptyFill none 3)) ∧ t.events.errors = s.events.errors ∧
      t.table.quarantined = s.table.quarantined ∧ t.table.ageing = s.table.ageing ∧ t.now = s.now ∧
      t.part = s.part ∧ t.settings = s.settings ∧ t.intake = s.intake ∧ t.pins = s.pins ∧
      t.time.counter = s.time.counter ∧ t.events.holding.length ≤ s.events.holding.length + 1 := by
  unfold State.releaseStation
  obtain ⟨b1, b2, b3, b4, b5, k⟩ := s.release_does index c reason time stage hc hr
  obtain ⟨g1, g2, g3, g4, g5, g6, g7, g8, g9, g10, g11, g12, g13⟩ := State.settleHeld_gone hh b1 k
  exact ⟨b1.congr (by rw [g2]) (by rw [g2]) g3 g9 g8, State.reportsSince_of b2 g12 (by rw [g6]), g1, g11.trans b3,
    by rw [g2, b4, if_neg hi], by rw [g2, k.ageing], g10.trans k.now, g5.trans k.part, g6.trans k.settings,
    g7.trans k.intake, g4.trans k.pins, by rw [g9, k.counter], Nat.le_trans g13 b5⟩

/-- What a failed check does with the writes held for the station. -/
theorem State.failIntegrity_does (s : State) (index : Nat) (c : Context) (time : Time)
    (hc : s.context? index = some c) (hr : s.damageRoom = true) (hh : s.heldFor index c.key = true) :
    let t := s.failIntegrity index time
    FailedCheck s t index c time s.now.cause ∧ SettlesHeld s t index (s.heldFilled c.key (emptyFill none 3)) ∧
      t.table.ageing = s.table.ageing ∧ t.now = s.now ∧ t.part = s.part ∧ t.settings = s.settings ∧
      t.intake = s.intake ∧ t.pins = s.pins ∧ t.time.counter = s.time.counter ∧
      t.events.holding.length ≤ s.events.holding.length + 2 := by
  unfold State.failIntegrity
  obtain ⟨b1, b2, b3, b4, b5, k⟩ := s.integrityRelease_does index c time hc hr
  obtain ⟨g1, g2, g3, g4, g5, g6, g7, g8, g9, g10, g11, g12, g13⟩ := State.settleHeld_gone hh b1 k
  exact ⟨⟨b1.congr (by rw [g2]) (by rw [g2]) g3 g9 g8, by rw [g2, b4], g11.trans b3,
      State.reportsSince_of b2 g12 (by rw [g6])⟩, g1, by rw [g2, k.ageing], g10.trans k.now, g5.trans k.part,
    g6.trans k.settings, g7.trans k.intake, g4.trans k.pins, by rw [g9, k.counter], Nat.le_trans g13 b5⟩

end Sys2Proof.Machine
end

