-- ==== Sys2Proof/Tests/Slice0.lean ====
section
/-!
SUPPORT. Small tests: ill-formed commands refused by WellFormed, the manual's worked cases and examples, one step of each
command on a small part, and for each statement with hypotheses a state and operands that meet them.
-/

namespace Sys2Proof.Tests

open Sys2Proof.Machine

set_option Elab.async false

/-! ### Requests -/

/-- A write with every lane on. -/
def wr (address : Nat) (source : BitVec 4) (words : List Word) : Request :=
  { address := BitVec.ofNat 32 address, source := source, tag := 3, body := .write (words.map fun w => ⟨0xF, w⟩) }

/-- A read of some words. -/
def rd (address : Nat) (source : BitVec 4) (words : Nat) : Request :=
  { address := BitVec.ofNat 32 address, source := source, tag := 3, body := .read words }

/-! ### WellFormed refuses an ill-formed term for each check (R136, R138, R144) -/

theorem test_unaligned_refused : (Instr.forwardWrite (.port (wr 2 1 [0]))).wellFormed = false := by decide
theorem test_no_words_refused : (Instr.forwardWrite (.port (wr 4 1 []))).wellFormed = false := by decide
theorem test_empty_read_refused : (Instr.forwardRead (.port (rd 4 1 0))).wellFormed = false := by decide
theorem test_long_read_refused : (Instr.deliveryRead (.port (rd 4 1 65))).wellFormed = false := by decide
theorem test_longest_read_taken : (Instr.deliveryRead (.port (rd 4 1 64))).wellFormed = true := by decide
theorem test_waiting_cannot_wait_again : (Instr.requestWait (.waiting 1)).wellFormed = false := by decide
theorem test_unaligned_cannot_wait : (Instr.requestWait (.port (rd 6 1 1))).wellFormed = false := by decide
theorem test_long_completion_refused :
    (Instr.memoryCompletion ⟨1, 3, .okay, List.replicate 65 0⟩).wellFormed = false := by decide

/-- Each command that carries a request refuses an unaligned one. -/
theorem test_every_request_is_checked :
    ([.blockedWrite, .reportWrite, .tornWrite, .responseWrite, .responseNotTaken, .settingsWrite, .applyWrite,
      .consumerIndexWrite, .softReset, .channelClose, .stationDrop, .stationRestart, .stationMove, .drain,
      .errorClear] : List (Origin → Instr)).all (fun f => !(f (.port (wr 2 1 [0]))).wellFormed) = true := by decide

/-! ### Worked cases of chapter 03 -/

/-- Sixteen taps, (0, 0) but for those listed. -/
def tapsWith (l : List (Nat × Tap)) : List Tap :=
  (List.range 16).map fun k => ((l.find? fun p => p.1 == k).map fun p => p.2).getD ⟨0, 0⟩

/-- Case 1: N_4 is (1,593, −899) and SP 3,267. -/
theorem test_case_1 :
    coefficientsOf (identityCoefficients 3) (tapsWith [(3, ⟨8000, 400⟩), (4, ⟨1600, -800⟩)]) 3 12345 1 =
      { coefficients := some (tapsWith [(3, ⟨8192, 0⟩), (4, ⟨1593, -899⟩)]), spread := some 3267, offset := some 0,
        shift := 0, offCentre := false, nullMain := false, saturatedTap := false, tapsAbsent := false } := by
  decide +kernel

/-- Case 2: N_4 is (76, 11), N_5 (−195, 344) and SP 158. -/
theorem test_case_2 :
    coefficientsOf (tapsWith [(3, ⟨8192, 0⟩), (4, ⟨1593, -899⟩)]) (tapsWith [(3, ⟨8100, 0⟩), (4, ⟨-1500, 900⟩)]) 3 12345 1 =
      { coefficients := some (tapsWith [(3, ⟨8192, 0⟩), (4, ⟨76, 11⟩), (5, ⟨-195, 344⟩)]), spread := some 158,
        offset := some 0, shift := 0, offCentre := false, nullMain := false, saturatedTap := false,
        tapsAbsent := false } := by
  decide +kernel

/-- The channel of cases 3 to 7: P 12,345, m 3, ceiling 60,000, power −96..48, limit 2,000, dead zones 16, 2 and 50. -/
def caseChannel (recentre : Word) : Table Word :=
  [(66, 12345), (67, 3), (68, 60000), (69, 0x30A0), (70, 2000), (71, 16), (72, 2), (73, 50), (74, recentre)]

def measuresOf (e f g : Int) : Measures :=
  { timingError := e, frequencyError := f, powerError := g, mer := 30, collision := false }

def committedOf (timing power frequency : Int) : Committed :=
  { timing := timing, residue := 37, power := power, frequency := frequency, coefficients := identityCoefficients 3 }

/-- Case 3: A is 14,466 with residue 241 for a late burst, −14,467 with 89 for an early one, 0 with 37 in the dead zone. -/
theorem test_case_3 :
    ([300, -300, 12].map fun e =>
      let r := arithmetic (caseChannel 1) 0 (measuresOf e 0 0) none (committedOf 0 0 0)
      (r.timing, r.residue)) = [(14466, 241), (-14467, 89), (0, 37)] := by decide +kernel

def recentredTaps : List Tap := tapsWith [(3, ⟨2000, 0⟩), (4, ⟨8000, 0⟩), (5, ⟨1000, 0⟩)]

/-- Case 4: recentred by one tap and clamped to 20,000 with residue 0; SP 5,120. -/
theorem test_case_4 :
    let r := arithmetic (caseChannel 1) 0 (measuresOf 300 0 0) (some recentredTaps) (committedOf 40000 0 0)
    r.timing = 20000 ∧ r.residue = 0 ∧ r.timingClamped = true ∧
      r.stage2 =
        { coefficients := some (tapsWith [(2, ⟨2048, 0⟩), (3, ⟨8192, 0⟩), (4, ⟨1024, 0⟩)]), spread := some 5120,
          offset := some 1, shift := 12345, offCentre := false, nullMain := false, saturatedTap := false,
          tapsAbsent := false } := by
  decide +kernel

/-- Case 4 with recentre limit 0: conditions 12 and 16, N_4 (32,767, 0), A 14,466 within the ceiling. -/
theorem test_case_4_off_centre :
    (let r := arithmetic (caseChannel 0) 0 (measuresOf 300 0 0) (some recentredTaps) (committedOf 40000 0 0)
    (r.timing, r.residue, r.timingClamped, r.stage2.offCentre, r.stage2.saturatedTap,
      r.stage2.coefficients.map fun n => tapAt n 4)) = (14466, 241, false, true, true, some ⟨32767, 0⟩) := by
  decide +kernel

/-- Case 5: power against its window and dead zone. -/
theorem test_case_5 :
    ([9, -30, 2].map fun g =>
      let r := arithmetic (caseChannel 1) 0 (measuresOf 0 0 g) none (committedOf 0 40 0)
      (r.power, r.powerClamped)) = [(-9, false), (8, true), (0, false)] := by decide +kernel

/-- Case 6: frequency at its limits. -/
theorem test_case_6 :
    ([-400, 30, -32768, 5000].map fun f =>
      let r := arithmetic (caseChannel 1) 0 (measuresOf 0 f 0) none (committedOf 0 0 1900)
      (r.frequency, r.frequencyClamped)) = [(100, true), (0, false), (100, true), (-3900, true)] := by decide +kernel

/-- A verdict FINAL CONTINUE with a mask of power and frequency, as the word of chapter 08's layout. -/
def maskedVerdict : Verdict := readFinal 0x20000060

/-- Case 7: timing and coefficients masked out; on confirmation the offset and the residue stay. -/
theorem test_case_7 :
    let v := committedOf 500 0 0
    let r := arithmetic (caseChannel 1) 0 (measuresOf 300 0 9) none v
    let i := buildIssued maskedVerdict 0 r v
    r.timing = 14466 ∧ r.stage2.tapsAbsent = true ∧ i.timing = 0 ∧ i.residue = 37 ∧ i.power = -9 ∧
      i.coefficients = none ∧ (v.confirm i).timing = 500 ∧ (v.confirm i).residue = 37 ∧ (v.confirm i).power = -9 := by
  decide +kernel

/-! ### Worked cases of chapters 04 and 06 -/

/-- The keys of R79's table. -/
theorem test_selector_keys :
    selectorKey (1#18 <<< 17) [8, 17] = 1 ∧ selectorKey 15 [0, 1, 2, 3] = 15 ∧
      selectorKey (1#18 <<< 15 ||| 1) [15, 14, 0] = 5 ∧ selectorKey 7 [] = 0 := by decide

/-- The program of chapter 04's example, as far as its chains reach: start pairs, selectors, table, default verdict. -/
def exampleProgram : Table Word :=
  [(78, 0x10C), (79, 0x20002003), (336, 0x00110802), (338, 0x02010004), (339, 3),
    (1024, 0x10000A01), (1026, 0x20002032), (1119, 0x200022F1), (1135, 0x20000203)]

/-- A KEEPALIVE with conditions 0 to 3 set ends at row 11, entry 7, in two lookups, with SUCCESS. -/
theorem test_example_keepalive :
    (let j := judge exampleProgram 0 .keepalive 15
    (j.verdict.status, j.verdict.next, j.lookups, j.ended, j.fallback)) =
      (.success, .tracking, 2, some (11, 7), .none) := by decide +kernel

/-- A DATA report with conditions 0 to 3 set ends at row 13, entry 7, with SILENT and next TRACKING. -/
theorem test_example_data :
    (let j := judge exampleProgram 0 .data 15
    (j.verdict.status, j.verdict.next, j.lookups, j.ended)) = (.silent, .tracking, 1, some (13, 7)) := by decide +kernel

/-- The mistaken start row 250 with a six-condition selector: key 51 overruns, and the default verdict applies. -/
theorem test_example_overrun :
    (let p : Table Word := [(78, 0x1FA), (79, 0x20002003), (338, 0x02010006), (339, 0x00050403)]
    let j := judge p 0 .data 0b110011
    (j.verdict.status, j.verdict.event, j.lookups, j.ended, j.fallback)) =
      (.silent, true, 0, none, .rowOverrun) := by decide +kernel

/-- The cycle: row 30, entry 0 steps to itself, and the chain is too long after four lookups. -/
theorem test_example_cycle :
    (let p : Table Word := [(78, 0x71E), (79, 0x20000003), (1264, 0x10001E07)]
    let j := judge p 0 .data 0
    (j.lookups, j.fallback)) = (4, .chainLong) := by decide +kernel

/-- Arming across the wrap (chapter 06): expiry 32,704 with remaining time 100,000. -/
theorem test_example_wrap :
    later 4294900000#32 100000 = 32704#32 ∧ remaining 32704#32 4294900000#32 = 100000 ∧
      atOrAfter 20000#32 (later 4294900000#32 10000) = true := by decide

/-- The forward sync load (chapter 06): every entry is past, and context 3's fires first. -/
theorem test_example_sync_load :
    (({ State.reset with time := { State.reset.time with
        counter := 1800000
        deadlines := [⟨20, .silence .dueWait, 1550000⟩, ⟨7, .silence .dueWait, 1400000⟩,
          ⟨12, .silence .lostWait, 1400000⟩, ⟨3, .silence .contact, 1150000⟩] } } : State).deadlineList.map
      Deadline.index) = [3, 7, 12, 20] := by decide +kernel

/-! ### A small part -/

/-- What the command leaves; every command completes. -/
def out (c : Instr) (s : State) : State :=
  match exec c s with
  | .next t => t
  | .fault _ => s
  | .refused _ => s

def straps : Straps := { settingsBase := 0x800, settingsSource := 5, ownSource := 9 }

/-- Words 0 to 20 of a channel block, open with adopt on, by the layout of chapter 08. -/
def channelWords (c number : Nat) : Table Word :=
  [(0, BitVec.ofNat 32 (3 + 256 * number)), (1, 2), (2, 12345), (3, 3), (4, 60000), (5, 0x30A0), (6, 2000), (7, 16),
    (8, 2), (9, 50), (10, 1), (11, 3), (15, 0x20000003), (16, 50), (17, 40), (18, 60), (19, 30), (20, 5)].map
    fun p => (64 + 32 * c + p.1, p.2)

/-- Receiver 1, transmit 6, MAC source 2; a report ring, a staging area of 4 slots and an event ring; a guard range at
0x500000; two channels, of numbers 1 and 2; row 0, entry 0 of the verdict table FINAL SUCCESS with both flags. -/
def settings : Table Word :=
  [(0, 0x61), (1, 0x12), (2, 0x100000), (3, 16), (4, 0x200000), (5, 4), (6, 0x300000), (7, 16), (8, 0x1FFE),
    (10, 0x500), (11, 1), (12, 1048576), (13, 1), (14, 1), (15, 1000)] ++
    channelWords 0 1 ++ channelWords 1 2 ++ [(1024, 0x200030F1)]

/-- A part in SETUP at counter 1,000, with the settings staged and its status words sent. -/
def fresh : State :=
  let s := State.powerOn straps []
  { s with
    settings := { s.settings with staging := settings }
    own := { s.own with queue := [] }
    time := { s.time with counter := 1000 } }

/-- The same part RUNNING under the settings. -/
def part : State :=
  { fresh with part := .running, settings := { staging := settings, active := settings, draining := none } }

/-- Station (channel 0, tag 7), in CONTACT with no correction. -/
def station : Context :=
  { key := ⟨0, 7⟩, station := .contact, correction := .none, busy := false, committed := initialCommitted 3,
    attempts := 1, age := 2, lastHeard := 900, metrics := none, origin := .contact, intact := true }

/-- The part with this record at index 0 and its SILENCE deadline. -/
def withStation (c : Context) : State :=
  { part with
    table := { contexts := [(0, c)], directory := [(7, 0)], quarantined := [], ageing := 3 }
    time := { part.time with deadlines := [⟨0, .silence .contact, 1050⟩] } }

theorem only_station (c d : Context) (index : Nat) (h : (withStation c).context? index = some d) : index = 0 ∧ d = c := by
  have h : Table.get? [(0, c)] index = some d := h
  unfold Table.get? at h
  split at h
  · simp_all
  · simp [Table.get?] at h

def issuedOf (status : Status) : Issued :=
  { timing := 5, residue := 9, power := -1, frequency := 2, coefficients := none, status := status, next := .tracking,
    conditions := 0 }

/-- The station ISSUED in slot 2. -/
def issuedPart (status : Status) : State :=
  { withStation { station with correction := .issued (issuedOf status) 2 } with slotMap := [(2, 0)] }

/-- The station SENT at 980, with its CONFIRM deadline. -/
def sentPart : State :=
  let s := withStation { station with correction := .sent (issuedOf .success) 980 }
  { s with time := { s.time with deadlines := s.time.deadlines ++ [⟨0, .confirm, 1010⟩] } }

def reportOf (kind : BurstKind) (arrival : Time) : Report :=
  { channel := 0, kind := kind, tag := 7, sequence := 5, arrival := arrival, measures := measuresOf 300 30 9, taps := none,
    slot := 1 }

/-- The station busy with a correction in flight. -/
def flightPart (full : Bool) : State :=
  { withStation { station with busy := true } with
    flight := some
      { report := reportOf .keepalive 990, snapshot := settings, takeTime := 995, index := 0, ageBefore := 2,
        full := full } }

/-- A response for this station into a slot, as the held-write buffer holds it. -/
def heldAt (slot : Nat) : HeldWrite :=
  { request := { wr (0x200000 + 256 * slot) 2 (packed [(0x5C01, 16), (1, 8), (22, 0)] :: packed [(7, 16), (1, 0)] ::
      List.replicate 20 0xABCD) with tag := slot }, key := ⟨0, 7⟩, slot := some slot }

/-- The station with a correction in flight, and writes held for it in these slots. -/
def busyPart (c : Context) (full : Bool) (slots : List Nat) : State :=
  { withStation { c with busy := true } with
    flight := some
      { report := reportOf .keepalive 990, snapshot := settings, takeTime := 995, index := 0, ageBefore := 2,
        full := full }
    forwarder := { part.forwarder with held := slots.map heldAt } }

/-- The station's record with a check code that does not match. -/
def broken : Context := { station with intact := false }

/-- The part with this entry at the head of its own-write queue. -/
def sending (s : State) (w : OwnWrite) : State := { s with own := { s.own with queue := [w] } }

/-- The part with this active setting in place of its own. -/
def under (s : State) (word : Nat) (v : Word) : State :=
  { s with settings := { s.settings with active := Words.write s.settings.active word v } }

/-- The part with its holding queue full. -/
def crowded (s : State) : State :=
  { s with events := { s.events with holding := List.replicate 16 ⟨1, List.replicate 8 0, none⟩ } }

/-- A report of kind code, channel number 1, sequence, tag and arrival, with MEASURES E 300, F 30, G 9, MER 30. -/
def reportWrite (kind sequence tag : Nat) (arrival : Word) : Request :=
  wr 0x100100 1 [0xB7010003, packed [(sequence, 16), (1, 12), (kind, 8)], BitVec.ofNat 32 tag, arrival, 0x01000003,
    0x012C001E, 0x091E0000]

/-- A response for channel number 1 and tag, into a slot, with or without the fill request. -/
def response (tag slot : Nat) (fill : Bool) : Request :=
  wr (0x200000 + 256 * slot) 2 (packed [(0x5C01, 16), (flagField fill, 8), (22, 0)] :: packed [(tag, 16), (1, 0)] ::
    List.replicate 20 0xABCD)

/-- A write of the settings source from a window word on. -/
def control (word : Nat) (words : List Word) : Request := wr (0x08000000 + 4 * word) 5 words

/-- A command with sequence 6. -/
def command (code : Nat) (first second : Word) : Request := control 3969 [packed [(6, 16), (code, 0)], first, second]

/-! ### One step of each command -/

/-- R118: from 4,294,967,295 the counter rises to 0. -/
theorem test_tick_wraps :
    (out .pclkTick { part with time := { part.time with counter := 4294967295 } }).time.counter = 0 := by decide +kernel
/-- R119: a waiting edge loads the sync value of the staging copy. -/
theorem test_tick_loads :
    (out .pclkTick (out .syncLoad { part with settings := { part.settings with staging := [(16, 77)] } })).time.counter =
      77 := by decide +kernel
theorem test_reset_samples_straps : (out (.powerOnReset straps) part).pins.straps = straps := by decide +kernel
theorem test_rstn_low_forgets_held :
    (out .rstnLow { part with own := { part.own with outstanding := [⟨3, false⟩] } }).own.outstanding = [] := by
  decide +kernel
theorem test_forward_write :
    (out (.forwardWrite (.port (wr 0x600000 7 [1]))) part).forwarder.toMemory = [wr 0x600000 7 [1]] := by decide +kernel
theorem test_forward_read :
    (out (.forwardRead (.port (rd 0x200004 6 1))) part).forwarder.toMemory = [rd 0x200004 6 1] := by decide +kernel
/-- R142: an ERROR acknowledgement with the tag, and GUARD_BLOCK is bit 3. -/
theorem test_blocked_write :
    let t := out (.blockedWrite (.port (wr 0x500000 1 [1]))) part
    t.forwarder.toMemory = [] ∧ t.forwarder.toInitiator = [⟨1, 3, .error, []⟩] ∧ t.events.errors = 8 := by decide +kernel
/-- R149: an own write that is ready goes before the forwarded request. -/
theorem test_own_write_goes_first :
    (out (.forwardWrite (.port (wr 0x600000 7 [1]))) (sending part ⟨.status 4066 5, none⟩)).forwarder.toMemory =
      [{ control 4066 [5] with source := 9, tag := 0 }, wr 0x600000 7 [1]] := by decide +kernel
/-- R36, R39: a report at the age limit of 1,000 joins. -/
theorem test_report_at_age_limit :
    let t := out (.reportWrite (.port (reportWrite 1 5 7 0))) part
    t.intake.queue.map Report.tag = [7] ∧ t.intake.lastSequence = [(0, 5)] := by decide +kernel
/-- R37: an arrival equal to the intake time is SKEW. -/
theorem test_report_skew :
    let t := out (.reportWrite (.port (reportWrite 1 5 7 1000))) part
    t.intake.queue = [] ∧ t.events.sequence = 1 := by decide +kernel
theorem test_torn_write :
    (out (.tornWrite (.port (wr 0x100104 1 [1]))) part).events.errors = 1 := by decide +kernel
/-- R102: a READY response carries result 1 in w5 and the status in w2. -/
theorem test_response_filled :
    let t := out (.responseWrite (.port (response 7 2 true)))
      (withStation { station with correction := .ready (issuedOf .success) })
    (t.forwarder.toMemory.map fun r => [Request.word r 2, Request.word r 3, Request.word r 4, Request.word r 5]) =
      [[1, 5, 0xFFFF0002, 0x00000301]] ∧ t.slotMap = [(2, 0)] := by decide +kernel
/-- R99: an untaken write into slot 2 unmaps it. -/
theorem test_response_not_taken :
    (out (.responseNotTaken (.port (wr 0x2002FC 7 [1]))) (issuedPart .cont)).slotMap = [] := by decide +kernel
/-- R111: delivery arms CONFIRM at 1,000 + 30. -/
theorem test_delivery :
    (out (.deliveryRead (.port (rd 0x200200 6 1))) (issuedPart .cont)).time.deadlines =
      [⟨0, .silence .contact, 1050⟩, ⟨0, .confirm, 1030⟩] := by decide +kernel
/-- R112: an ABORT delivered releases the context. -/
theorem test_abort_delivery :
    (out (.deliveryRead (.port (rd 0x200200 6 1))) (issuedPart .abort)).table.contexts = [] := by decide +kernel
/-- R155: only the lanes that are on are copied. -/
theorem test_settings_lanes :
    let r := { control 16 [] with body := .write [⟨0b0101, 0xAABBCCDD⟩] }
    Words.read (out (.settingsWrite (.port r)) part).settings.staging 16 = 0x00BB00DD := by decide +kernel
/-- R161: the first apply takes SETUP to RUNNING, with result APPLIED for apply sequence 7. -/
theorem test_apply :
    let t := out (.applyWrite (.port (control 3968 [7]))) fresh
    t.part = .running ∧ t.events.applyResult = 0x00071000 := by decide +kernel
/-- R160: symbol period 0 of an enabled channel is refused at word 66. -/
theorem test_apply_refused :
    (out (.applyWrite (.port (control 3968 [7]))) { fresh with settings := { fresh.settings with
      staging := Words.write settings 66 0 } }).events.applyResult = 0x00072042 := by decide +kernel
/-- R171: a value that passes the producer is not taken. -/
theorem test_consumer_index :
    (out (.consumerIndexWrite (.port (control 3972 [3]))) { part with events := { part.events with producer := 3 } }
      ).events.consumer = 3 ∧
    (out (.consumerIndexWrite (.port (control 3972 [4]))) { part with events := { part.events with producer := 3 } }
      ).events.consumer = 0 := by decide +kernel
theorem test_soft_reset :
    let t := out (.softReset (.port (command 1 0 0))) (withStation station)
    t.part = .setup ∧ t.time.counter = 1000 ∧ t.table.contexts = [] ∧ t.own.queue.length = 14 := by decide +kernel
/-- R165: result 1 (DONE) of code 2 with sequence 6, and the enable is off. -/
theorem test_channel_close :
    let t := out (.channelClose (.port (command 2 0 0))) (withStation station)
    t.table.contexts = [] ∧ channelOpen t.settings.active 0 = false ∧ t.events.commandResult = 0x00060201 := by
  decide +kernel
/-- R20, R21: the station is named by channel number 1 and tag 7; tag 8 is NOT_FOUND. -/
theorem test_station_drop :
    (out (.stationDrop (.port (command 3 0x00010007 0))) (withStation station)).table.contexts = [] ∧
    (out (.stationDrop (.port (command 3 0x00010008 0))) (withStation station)).events.commandResult = 0x00060304 := by
  decide +kernel
theorem test_station_restart :
    ((out (.stationRestart (.port (command 4 0x00010007 0))) (withStation station)).context? 0).map Context.attempts =
      some 0 := by decide +kernel
/-- R23: the vacated index 0 is the lowest free one, and the target is on local channel 1. -/
theorem test_station_move :
    ((out (.stationMove (.port (command 5 0x00010007 0x00020014))) (withStation station)).context? 0).map Context.key =
      some ⟨1, 20⟩ := by decide +kernel
/-- R153: all four idle flags, bits 7..4. -/
theorem test_drain :
    (out (.drain (.port (command 6 0 0))) part).events.commandResult = 0x000606F1 ∧
    (out (.drain (.port (command 6 0 0))) (flightPart true)).settings.draining = some 6 := by decide +kernel
theorem test_drain_done :
    (out .drainDone { part with settings := { part.settings with draining := some 9 } }).events.commandResult =
      0x000906F1 := by decide +kernel
theorem test_error_clear :
    let t := out (.errorClear (.port (command 7 1 0))) { part with events := { part.events with
      errors := 3, firstPointer := some .tornReport } }
    t.events.errors = 2 ∧ t.events.firstPointer = none := by decide +kernel
theorem test_completion_returned :
    (out (.memoryCompletion ⟨7, 3, .error, []⟩) { part with forwarder := { part.forwarder with
      inFlight := [⟨0, 7, 3⟩] } }).forwarder.toInitiator = [⟨7, 3, .error, []⟩] := by decide +kernel
/-- R148: the producer index word is window word 4,066, with the own source number. -/
theorem test_own_write_send :
    (out .ownWriteSend { part with own := { part.own with queue := [⟨.status 4066 5, none⟩] } }).forwarder.toMemory =
      [{ control 4066 [5] with source := 9, tag := 0 }] := by decide +kernel
theorem test_own_write_ack :
    (out (.ownWriteAck 3 .error) { part with own := { part.own with outstanding := [⟨3, false⟩] } }).events.errors =
      256 := by decide +kernel
theorem test_event_write_out :
    (out .eventWriteOut { part with events := { part.events with
      holding := [⟨1, [0x01000000, 0, 0, 0, 0, 0, 0, 0], none⟩] } }).events.producer = 1 := by decide +kernel
/-- R170: with 16 events held, the next sets the lost flag and EVENT_LOSS, bit 7. -/
theorem test_event_lost :
    let t := out (.reportWrite (.port (reportWrite 1 5 7 1000))) (crowded part)
    t.events.lost = true ∧ t.events.errors = 128 ∧ t.events.holding.length = 16 := by decide +kernel
/-- R12, R45: a FIRST_CONTACT of an unknown key is allocated at index 0. -/
theorem test_take_head :
    ((out .takeHead { part with intake := { part.intake with queue := [reportOf .firstContact 990] } }).context? 0).map
      Context.key = some ⟨0, 7⟩ := by decide +kernel
/-- R24: at 16 x 1 the counter returns to 0 and ages rise. -/
theorem test_ageing_count :
    let s := withStation station
    let t := out .ageingCount { s with table := { s.table with ageing := 16 } }
    t.table.ageing = 0 ∧ (t.context? 0).map Context.age = some 3 := by decide +kernel
/-- R27, R28: a record that fails its check is released, its index quarantined and CONTEXT_INTEGRITY, bit 9, set. -/
theorem test_failed_check :
    let t := out .notedCompletion (busyPart broken false [])
    t.table.contexts = [] ∧ t.table.quarantined = [0] ∧ t.events.errors = 512 := by decide +kernel
/-- R103: of two held writes the first takes the READY correction, and the second finds ALREADY_ISSUED, result 4. -/
theorem test_held_in_turn :
    let t := out .notedCompletion (busyPart { station with correction := .ready (issuedOf .success) } false [2, 3])
    (t.forwarder.toMemory.map fun r => (Request.word r 5).setWidth 8) = [1, 4] ∧ t.slotMap = [(2, 0)] := by
  decide +kernel
theorem test_noted_completion :
    ((out .notedCompletion (flightPart false)).context? 0).map (fun c => (c.busy, c.metrics.map Metrics.mer)) =
      some (false, some 30) := by decide +kernel
/-- R91, R92: attempts rise by the count flag, and VERDICT is written. -/
theorem test_full_completion :
    let t := out .fullCompletion (flightPart true)
    (t.context? 0).map Context.attempts = some 2 ∧ t.events.sequence = 1 := by decide +kernel
/-- R131: a TRACKING station becomes DUE, and LOST-WAIT is armed at 1,050 + 60. -/
theorem test_silence_expiry :
    let s := withStation { station with station := .tracking }
    (out .silenceExpiry { s with time := { s.time with counter := 1050 } }).time.deadlines =
      [⟨0, .silence .lostWait, 1110⟩] := by decide +kernel
/-- R114: attempts rise by one and the correction is gone. -/
theorem test_confirm_expiry :
    ((out .confirmExpiry { sentPart with time := { sentPart.time with counter := 1010 } }).context? 0).map
      (fun c => (c.correction == .none, c.attempts)) = some (true, 2) := by decide +kernel
theorem test_ageing_timer :
    let s := withStation station
    (out .ageingTimer { s with
      settings := { s.settings with active := Words.write settings 14 0x101 }
      time := { s.time with ageingTimer := 65536 } }).time.ageingTimer = 0 := by decide +kernel
/-- R144: a read behind a held write waits. -/
theorem test_request_wait :
    (out (.requestWait (.port (rd 0x200200 6 1))) { flightPart true with forwarder := { part.forwarder with
      held := [⟨response 7 2 true, ⟨0, 7⟩, some 2⟩] } }).forwarder.waiting = [rd 0x200200 6 1] := by decide +kernel

/-! ### States and operands that meet the hypotheses of the statements -/

theorem test_w_counter :
    part.now = { cause := none, stopDue := false } ∧ exec .pclkTick part = .next (out .pclkTick part) ∧
      exec .rstnLow part = .next (out .rstnLow part) ∧ exec (.powerOnReset straps) part = .next (State.powerOn straps []) ∧
      exec .pclkTick (out .syncLoad part) = .next (out .pclkTick (out .syncLoad part)) ∧
      exec .pclkTick (out .rstnLow part) = .next (out .pclkTick (out .rstnLow part)) :=
  ⟨rfl, rfl, rfl, rfl, rfl, rfl⟩

theorem test_w_tick : part.between = true ∧ (out .syncLoad part).between = true := by decide +kernel

/-- Both ways out of STOPPED, the second also by the apply row. -/
theorem test_w_leaves_stopped :
    let s := { part with part := .stopped }
    let r := control 3968 [7, packed [(6, 16), (1, 0)], 0, 0]
    (s.part = .stopped ∧ (out (.softReset (.port (command 1 0 0))) s).part ≠ .stopped) ∧
      ((out (.applyWrite (.port r)) s).part ≠ .stopped ∧ s.presents (.port r) r = true ∧ s.commands r 1 = true) ∧
      (out (.powerOnReset straps) s).part ≠ .stopped := by decide +kernel

/-- A waiting request that stays, one that is forwarded, and one that is blocked. -/
theorem test_w_requests :
    let s := fun r : Request => { part with forwarder := { part.forwarder with waiting := [r] } }
    (wr 0x600000 7 [1] ∈ (s (wr 0x600000 7 [1])).inPart ∧
      wr 0x600000 7 [1] ∈ (out .pclkTick (s (wr 0x600000 7 [1]))).inPart ∧
      wr 0x600000 7 [1] ∉ (out (.forwardWrite (.waiting 7)) (s (wr 0x600000 7 [1]))).inPart) ∧
      wr 0x500000 1 [1] ∉ (out (.blockedWrite (.waiting 1)) (s (wr 0x500000 1 [1]))).inPart := by decide +kernel

theorem test_w_no_reset :
    (∀ straps, (Instr.forwardWrite (.waiting 7)) ≠ .powerOnReset straps) ∧ Instr.forwardWrite (.waiting 7) ≠ .rstnLow :=
  ⟨nofun, nofun⟩

theorem test_w_bounded : Bounded (issuedPart .cont) where
  held := by decide +kernel
  waiting := by decide +kernel
  intake := by decide +kernel
  holding := by decide +kernel
  outstanding := by decide +kernel
  ownRoom := by decide +kernel
  reports := by decide +kernel
  contexts := by
    intro index c h
    obtain ⟨h1, h2⟩ := only_station _ c index h
    subst h1 h2
    decide
  idle := by decide +kernel
  attention := by decide +kernel

theorem test_w_canonical : Canonical (issuedPart .cont) where
  staging := by decide +kernel
  active := by decide +kernel
  contexts := by decide +kernel
  directory := by decide +kernel
  slotMap := by decide +kernel
  lastSequence := by decide +kernel

theorem test_w_agrees : Agrees (issuedPart .cont) where
  keys := by
    intro index c h
    obtain ⟨h1, h2⟩ := only_station _ c index h
    subst h1 h2
    decide
  reports := by decide +kernel
  directory := by
    intro number index
    have e : Table.get? (issuedPart .cont).table.directory number = if number = 7 then some 0 else none := rfl
    rw [e]
    constructor
    · intro h
      split at h
      · next hn =>
        cases h
        subst hn
        exact ⟨{ station with correction := .issued (issuedOf .cont) 2 }, rfl, by decide⟩
      · cases h
    · rintro ⟨c, h, hn⟩
      obtain ⟨h1, h2⟩ := only_station _ c index h
      subst h1 h2
      have e7 : number = 7 := hn.symm.trans (by decide)
      rw [if_pos e7]
  slotMap := by
    intro slot index
    have e : Table.get? (issuedPart .cont).slotMap slot = if slot = 2 then some 0 else none := rfl
    rw [e]
    constructor
    · intro h
      split at h
      · next hn =>
        cases h
        subst hn
        exact ⟨_, _, rfl, rfl⟩
      · cases h
    · rintro ⟨c, issued, h, hn⟩
      obtain ⟨h1, h2⟩ := only_station _ c index h
      subst h1 h2
      cases hn
      rfl
  silence := by
    intro index stage
    by_cases h : index = 0
    · subst h
      rfl
    · have e : (issuedPart .cont).context? index = none := by
        show Table.get? [(0, _)] index = none
        simp [Table.get?, h]
      rw [e]
      have h' : ¬0 = index := fun x => h x.symm
      simp [State.deadlinesFor, issuedPart, withStation, Deadline.isFor, h']
  confirm := by
    intro index
    have e : (issuedPart .cont).deadlinesFor index .confirm = 0 := by
      simp [State.deadlinesFor, issuedPart, withStation, Deadline.isFor, DeadlineKind.sameAs]
    rw [e]
    cases h : (issuedPart .cont).context? index with
    | none => rfl
    | some c =>
      obtain ⟨h1, h2⟩ := only_station _ c index h
      subst h1 h2
      rfl
  busy := by
    intro index c h
    obtain ⟨h1, h2⟩ := only_station _ c index h
    subst h1 h2
    constructor
    · intro x
      cases x
    · rintro ⟨f, x, _⟩
      cases x
  flight := by
    intro f h
    cases h
  full := by
    intro f c h
    cases h
  held := by
    intro h hh
    cases hh
  quarantine := by
    intro index h
    cases h
  outside := by
    intro h
    exact absurd rfl h
  setup := by
    intro h
    cases h

/-- Every writer that the statement names: RSTN_LOW, SYNC_LOAD, a forwarding step and OWN_WRITE_SEND, OWN_WRITE_ACK, a
settings write, DRAIN_DONE, an entry to STOPPED that ends a DRAIN, TAKE_HEAD and AGEING_COUNT. -/
theorem test_w_writers :
    let o : Origin := .port (control 16 [5])
    let w := sending part ⟨.status 4066 5, none⟩
    let stopping := { under part 18 8 with settings := { (under part 18 8).settings with draining := some 4 } }
    let s := withStation station
    ((∀ straps, Instr.ownWriteSend ≠ .powerOnReset straps) ∧ exec .ownWriteSend w = .next (out .ownWriteSend w) ∧
        (out .ownWriteSend w).own.nextTag ≠ w.own.nextTag) ∧
      (out .rstnLow part).pins.resetLow ≠ part.pins.resetLow ∧ (out .syncLoad part).time.syncEdge ≠ part.time.syncEdge ∧
      ((out (.forwardWrite (.port (wr 0x600000 7 [1]))) w).own.nextTag ≠ w.own.nextTag ∧
        (out (.forwardWrite (.port (wr 0x600000 7 [1]))) w).forwarder.nextSerial ≠ w.forwarder.nextSerial) ∧
      (out (.ownWriteAck 3 .okay) { part with own := { part.own with outstanding := [⟨3, false⟩] } }).own.outstanding = [] ∧
      ((out (.settingsWrite o) part).settings.staging ≠ part.settings.staging ∧
        settingsOriginOf (.settingsWrite o) = some o ∧ part.presents o (control 16 [5]) = true ∧
        part.settingsRequest (control 16 [5]) = true) ∧
      (out .drainDone { part with settings := { part.settings with draining := some 9 } }).events.commandResult ≠ 0 ∧
      ((out (.blockedWrite (.port (wr 0x500000 1 [1]))) stopping).events.commandResult ≠ 0 ∧
        (out (.blockedWrite (.port (wr 0x500000 1 [1]))) stopping).part = .stopped) ∧
      (out .takeHead { s with intake := { s.intake with queue := [reportOf .keepalive 990] } }).table.ageing = 4 ∧
      (out .ageingCount { s with table := { s.table with ageing := 16 } }).table.ageing = 0 := by
  refine ⟨⟨nofun, rfl, by decide +kernel⟩, by decide +kernel, by decide +kernel, by decide +kernel, by decide +kernel,
    by decide +kernel, by decide +kernel, by decide +kernel, by decide +kernel, by decide +kernel⟩

theorem test_w_in_reset :
    (out .rstnLow part).pins.resetLow = true ∧ (∀ straps, Instr.syncLoad ≠ .powerOnReset straps) ∧
      Instr.syncLoad ≠ .rstnLow := ⟨rfl, nofun, nofun⟩

/-- A read that overlaps a held write is early: with 15 waiting requests it takes the last place, with 16 it stands. -/
theorem test_w_early :
    let s := fun n => { flightPart true with forwarder := { part.forwarder with
      held := [⟨response 7 2 true, ⟨0, 7⟩, some 2⟩], waiting := List.replicate n (rd 0x200200 3 1) } }
    let o : Origin := .port (rd 0x200200 6 1)
    o.fromPort = true ∧
      ((s 15).between = true ∧ (s 15).requestAt o = some (rd 0x200200 6 1) ∧ (s 15).atTurn o (rd 0x200200 6 1) = false ∧
        (s 15).forwarder.waiting.length < 16) ∧
      (s 16).between = true ∧ (s 16).requestAt o = some (rd 0x200200 6 1) ∧ (s 16).atTurn o (rd 0x200200 6 1) = false ∧
        16 ≤ (s 16).forwarder.waiting.length := by decide +kernel

/-- The last word below the window, and a read of a slot's second word. -/
theorem test_w_pass :
    let w := wr (0x08000000 - 4) 7 [1]
    let r := rd 0x200204 6 1
    part.between = true ∧
      (part.offers (.port w) w = true ∧ Request.isWrite w = true ∧ part.clearOfAreas w = true ∧
        part.settingsRequest w = false) ∧
      part.offers (.port r) r = true ∧ Request.isWrite r = false ∧ part.deliverySlot? r = none := by decide +kernel

/-- The first word of the guard range, tolerated, and fatal with a DRAIN, a correction in flight and a held write. -/
theorem test_w_guard :
    let r := wr 0x500000 1 [1]
    let s := { flightPart true with
      settings := { part.settings with active := Words.write settings 18 8, draining := some 4 }
      forwarder := { part.forwarder with held := [⟨response 7 2 true, ⟨0, 7⟩, some 2⟩] } }
    (part.between = true ∧ part.presents (.port r) r = true ∧ part.guardFails r = true ∧
        part.tolerates .guardBlock = true ∧ part.eventRoom 1 = true) ∧
      s.between = true ∧ s.presents (.port r) r = true ∧ s.guardFails r = true ∧ s.part ≠ .stopped ∧
        s.tolerates .guardBlock = false ∧ s.eventRoom 1 = true := by decide +kernel

theorem test_w_completion :
    let s := { part with forwarder := { part.forwarder with inFlight := [⟨0, 7, 3⟩] } }
    s.between = true ∧ (7 : BitVec 4) ≠ s.pins.straps.ownSource ∧
      (∃ q ∈ s.forwarder.inFlight, q.source = 7 ∧ q.tag = 3) ∧
      ∀ q ∈ s.forwarder.inFlight, ¬(q.source = 7 ∧ q.tag = 4) := by decide +kernel

/-- The part with `n` reports of a kind queued. -/
def queued (n : Nat) (kind : BurstKind) : State :=
  { part with intake := { part.intake with queue := List.replicate n (reportOf kind 900) } }

/-- What the checks make of the test report. -/
def accepted (kind : BurstKind) : Checked :=
  .accepted { reportOf kind 990 with measures := measuresOf 300 30 9 }

theorem test_w_report :
    let r := reportWrite 1 5 7 990
    let s := queued 31 .data
    s.between = true ∧ s.offers (.port r) r = true ∧ s.meetsOnlyRing r = true ∧ s.reportSlot? r = some 1 ∧
      s.checkReport r 1 = accepted .keepalive ∧ s.intake.queue.length < 32 := by decide +kernel

/-- Arrivals one tick before the intake time and at the age limit pass; the intake time itself and a tick more fail. Eight
sub-blocks pass, TAPS and one of length 20 among them, and nine do not; MEASURES of length 4 does not. -/
theorem test_w_report_times :
    let record := fun body : List Word =>
      wr 0x100100 1 (packed [(0xB701, 16), (body.length, 0)] :: packed [(5, 16), (1, 12), (1, 8)] :: 7 :: 999 :: body)
    let measures : List Word := [0x01000003, 0x012C001E, 0x091E0000]
    let taps : List Word := 0x02000011 :: List.replicate 16 0x0001FFFF
    let empty := fun n => List.replicate n (0x03000001 : Word)
    (part.checkReport (reportWrite 1 5 7 999) 1 = .accepted { reportOf .keepalive 999 with slot := 1 }) ∧
      part.checkReport (reportWrite 1 5 7 0) 1 = .accepted (reportOf .keepalive 0) ∧
      part.checkReport (reportWrite 1 5 7 1000) 1 = .rejected .skew (some 0) ∧
      part.checkReport (reportWrite 1 5 7 0xFFFFFFFF) 1 = .rejected .stale (some 0) ∧
      part.checkReport (reportWrite 1 5 16383 999) 1 =
        .accepted { reportOf .keepalive 999 with tag := 16383 } ∧
      part.checkReport (record (empty 5 ++ (0x03000014 :: List.replicate 19 0) ++ taps ++ measures)) 1 =
        .accepted { reportOf .keepalive 999 with taps := some (List.replicate 16 ⟨1, -1⟩) } ∧
      part.checkReport (record (empty 8 ++ measures)) 1 = .rejected .malformed (some 0) ∧
      part.checkReport (record ([0x01000004, 0, 0, 0] ++ measures)) 1 = .rejected .malformed (some 0) := by decide +kernel

/-- A report of channel number 3, which no channel claims, and one of tag 0. -/
theorem test_w_refused_report :
    let ignored := wr 0x100100 1 [0xB7010003, packed [(5, 16), (3, 12)], 7, 990, 0x01000003, 0, 0]
    let malformed := reportWrite 1 5 0 990
    part.between = true ∧
      (part.offers (.port ignored) ignored = true ∧ part.meetsOnlyRing ignored = true ∧
        part.reportSlot? ignored = some 1 ∧ part.checkReport ignored 1 = .ignored) ∧
      part.offers (.port malformed) malformed = true ∧ part.meetsOnlyRing malformed = true ∧
        part.reportSlot? malformed = some 1 ∧ part.checkReport malformed 1 = .rejected .malformed (some 0) ∧
        part.eventRoom 2 = true ∧ part.tolerates .malformedReport = true := by decide +kernel

theorem test_w_overflow :
    let r := reportWrite 2 5 7 990
    let s := queued 32 .keepalive
    s.between = true ∧ s.offers (.port r) r = true ∧ s.meetsOnlyRing r = true ∧ s.reportSlot? r = some 1 ∧
      s.checkReport r 1 = accepted .data ∧ s.intake.queue.length = 32 ∧ s.eventRoom 1 = true := by decide +kernel

/-- With a DATA entry at the head alone, and with none. -/
theorem test_w_displaced :
    let r := reportWrite 1 5 7 990
    let s := { queued 31 .keepalive with intake := { part.intake with
      queue := reportOf .data 900 :: List.replicate 31 (reportOf .keepalive 900) } }
    let n := queued 32 .keepalive
    (s.between = true ∧ s.offers (.port r) r = true ∧ s.meetsOnlyRing r = true ∧ s.reportSlot? r = some 1 ∧
        s.checkReport r 1 = accepted .keepalive ∧ s.intake.queue.length = 32 ∧ s.eventRoom 2 = true ∧
        s.tolerates .intakeOverflow = true ∧
        s.intake.queue = [] ++ reportOf .data 900 :: List.replicate 31 (reportOf .keepalive 900) ∧
        ∀ x ∈ List.replicate 31 (reportOf .keepalive 900), x.kind ≠ .data) ∧
      n.between = true ∧ n.offers (.port r) r = true ∧ n.checkReport r 1 = accepted .keepalive ∧
        n.intake.queue.length = 32 ∧ ∀ x ∈ n.intake.queue, x.kind ≠ .data := by decide +kernel

/-- The last word of the ring. -/
theorem test_w_torn :
    let r := wr (0x100000 + 4096 - 4) 1 [1]
    part.between = true ∧ part.offers (.port r) r = true ∧ part.meetsOnlyRing r = true ∧ part.tornWrite r = true ∧
      part.eventRoom 1 = true ∧ part.tolerates .tornReport = true := by decide +kernel

/-- The last slot of the staging area, naming nothing, and naming another station that was ISSUED in it. -/
theorem test_w_ready :
    let c := { station with correction := .ready (issuedOf .success) }
    let other := { station with key := ⟨0, 9⟩, correction := .issued (issuedOf .cont) 3 }
    let shared := { withStation c with
      table := { contexts := [(0, c), (1, other)], directory := [(7, 0), (9, 1)], quarantined := [], ageing := 3 }
      slotMap := [(3, 1)] }
    let r := response 7 3 true
    ([withStation c, shared].all fun s =>
      s.between && s.offers (.port r) r && !s.guardFails r && s.responseSlot? r == some 3 && fillRequested r &&
        s.responseKey? r == some ⟨0, 7⟩ && tagInRange 7 && s.known ⟨0, 7⟩ 0 c && !c.busy &&
        Table.get? s.slotMap 3 != some 0 && s.forwarder.held.isEmpty) = true ∧
      Table.get? (out (.responseWrite (.port r)) shared).slotMap 3 = some 0 ∧
      ((out (.responseWrite (.port r)) shared).context? 1).map Context.correction = some (.ready (issuedOf .cont)) := by
  decide +kernel

theorem test_w_fill : Request.isWrite (response 7 3 true) = true ∧ (response 7 3 true).words = 22 := by decide +kernel

/-- With 3 and with 4 of the held places used. -/
theorem test_w_hold :
    let h : HeldWrite := ⟨wr 0x200000 3 [1], ⟨0, 7⟩, some 0⟩
    let s := fun n => { flightPart true with forwarder := { part.forwarder with held := List.replicate n h } }
    let r := response 7 3 true
    let meets := fun n => (s n).between && (s n).presents (.port r) r && !(s n).guardFails r &&
      (s n).responseSlot? r == some 3 && fillRequested r && (s n).responseKey? r == some ⟨0, 7⟩ && tagInRange 7 &&
      (s n).known ⟨0, 7⟩ 0 { station with busy := true }
    (meets 3 = true ∧ (s 3).forwarder.held.length + (s 3).waitingHolds < 4) ∧
      meets 4 = true ∧ 4 ≤ (s 4).forwarder.held.length := by decide +kernel

/-- No fill requested, into an empty slot and into a mapped one; a channel number no channel claims, into a mapped slot; an
unknown tag, tag 0, NONE, a refill in slot 2, another slot, SENT, and a station whose record fails its check. -/
theorem test_w_other_fills :
    let p := part
    let i := issuedPart .cont
    let b := withStation broken
    let unclaimed := wr 0x200200 2 (0x5C010116 :: packed [(7, 16), (3, 0)] :: List.replicate 20 0)
    let meets := fun (s : State) (r : Request) (slot : Nat) => s.between && s.offers (.port r) r && !s.guardFails r &&
      s.responseSlot? r == some slot && s.forwarder.held.isEmpty
    (meets p (response 7 0 false) 0 = true ∧ fillRequested (response 7 0 false) = false) ∧
      (meets i (response 7 2 false) 2 = true ∧ fillRequested (response 7 2 false) = false ∧
        Table.get? i.slotMap 2 = some 0) ∧
      (meets i unclaimed 2 = true ∧ fillRequested unclaimed = true ∧ i.responseKey? unclaimed = none) ∧
      (meets p (response 8 0 true) 0 = true ∧ p.responseKey? (response 8 0 true) = some ⟨0, 8⟩ ∧
        p.unknown ⟨0, 8⟩ = true) ∧
      (meets p (response 0 0 true) 0 = true ∧ tagInRange 0 = false) ∧
      (meets (withStation station) (response 7 0 true) 0 = true ∧
        (withStation station).known ⟨0, 7⟩ 0 station = true ∧ station.correction = .none) ∧
      (meets i (response 7 2 true) 2 = true ∧ Table.get? i.slotMap 2 = some 0) ∧
      (meets i (response 7 3 true) 3 = true ∧ Table.get? i.slotMap 3 = none) ∧
      (meets sentPart (response 7 3 true) 3 = true ∧ Table.get? sentPart.slotMap 3 = none) ∧
      meets b (response 7 3 true) 3 = true ∧ Table.get? b.table.directory 7 = some 0 ∧ b.context? 0 = some broken ∧
        Table.wf b.slotMap = true ∧ Table.get? b.slotMap 3 = none ∧ b.damageRoom = true := by decide +kernel

/-- The last word of slot 2, written by a source outside the MAC set. -/
theorem test_w_not_taken :
    let s := issuedPart .cont
    let r := wr 0x2002FC 7 [1]
    s.between = true ∧ s.offers (.port r) r = true ∧ s.meetsOnlyStaging r = true ∧ s.responseNotTaken r = true ∧
      s.eventRoom 1 = true ∧ s.tolerates .shortResponse = true := by decide +kernel

/-- A read that reaches the slot's first word with its last; of a station whose record fails its check; and of an ABORT, with
nothing held and with a write held for the station. -/
theorem test_w_delivery :
    let r := rd (0x200200 - 4 * 63) 6 64
    let s := issuedPart .cont
    let b := { issuedPart .cont with table := { (issuedPart .cont).table with
      contexts := [(0, { broken with correction := .issued (issuedOf .cont) 2 })] } }
    let a := issuedPart .abort
    let h := { busyPart { station with correction := .issued (issuedOf .abort) 2 } false [3] with slotMap := [(2, 0)] }
    let read := rd 0x200200 6 1
    (s.between = true ∧ s.offers (.port r) r = true ∧ s.deliverySlot? r = some 2 ∧ Table.get? s.slotMap 2 = some 0 ∧
        (s.context? 0).map Context.correction = some (.issued (issuedOf .cont) 2)) ∧
      (part.between = true ∧ part.deliverySlot? r = some 2 ∧ Table.get? part.slotMap 2 = none) ∧
      (b.between = true ∧ b.offers (.port r) r = true ∧ b.deliverySlot? r = some 2 ∧ Table.get? b.slotMap 2 = some 0 ∧
        b.heldFor 0 ⟨0, 7⟩ = true ∧ b.damageRoom = true) ∧
      (a.between = true ∧ a.offers (.port r) r = true ∧ Table.get? a.slotMap 2 = some 0 ∧
        (a.context? 0).map Context.correction = some (.issued (issuedOf .abort) 2) ∧ a.heldFor 0 ⟨0, 7⟩ = true ∧
        a.eventRoom 1 = true) ∧
      h.between = true ∧ h.offers (.port read) read = true ∧ h.deliverySlot? read = some 2 ∧ h.heldFor 0 ⟨0, 7⟩ = true ∧
        h.forwarder.held ≠ [] ∧ h.eventRoom 1 = true := by decide +kernel

/-- The last word of the window, and one lane short of the apply word. -/
theorem test_w_settings :
    let r := control 4095 [5]
    let q := { control 3968 [] with body := .write [⟨0b0111, 7⟩] }
    part.between = true ∧ (part.offers (.port r) r = true ∧ part.noControl r = true) ∧
      part.offers (.port q) q = true ∧ part.noControl q = true := by decide +kernel

/-- A refused apply, one in STOPPED, and the first one. -/
theorem test_w_apply :
    let r := control 3968 [7]
    let bad := { fresh with settings := { fresh.settings with staging := Words.write settings 66 0 } }
    let s := { part with part := .stopped }
    (bad.between = true ∧ bad.offers (.port r) r = true ∧ bad.soleControl r Config.applyWord = true ∧
        bad.part ≠ .stopped ∧ (bad.withCopied (.port r) r).validate ≠ .applied) ∧
      (s.between = true ∧ s.offers (.port r) r = true ∧ s.soleControl r Config.applyWord = true) ∧
      fresh.between = true ∧ fresh.offers (.port r) r = true ∧ fresh.soleControl r Config.applyWord = true ∧
        fresh.part = .setup ∧ fresh.slotMap = [] ∧
        (∀ c, c < Config.channelCount → channelOpen fresh.settings.active c = false) ∧
        (fresh.withCopied (.port r) r).validate = .applied := by decide +kernel

/-- The station of channel 0 ISSUED in slot 2, and settings staged that move the staging area and the event ring: with channel
0 kept, and with it closed and channel 2 opened. -/
def restaged (closing : Bool) : State :=
  let moved := Words.write (Words.write settings 4 0x210000) 6 0x310000
  let opened := (channelWords 2 3).foldl (fun t p => Words.write t p.1 p.2) (Words.write moved 64 0x100)
  { issuedPart .cont with
    settings := { staging := if closing then opened else moved, active := settings, draining := none } }

theorem test_w_apply_running :
    let r := control 3968 [7]
    ([true, false].all fun closing =>
      let s := restaged closing
      s.between && s.offers (.port r) r && s.soleControl r Config.applyWord && s.part == .running &&
        s.forwarder.held.isEmpty && s.eventRoom Config.channelCount && Table.wf s.table.contexts && Table.wf s.slotMap &&
        (s.withCopied (.port r) r).validate == .applied) = true ∧
      ((out (.applyWrite (.port r)) (restaged true)).table.contexts = [] ∧
        channelOpen (out (.applyWrite (.port r)) (restaged true)).settings.active 2 = true) ∧
      (out (.applyWrite (.port r)) (restaged false)).slotMap = [] ∧
        ((out (.applyWrite (.port r)) (restaged false)).context? 0).map Context.correction =
          some (.ready (issuedOf .cont)) := by decide +kernel

theorem test_w_apply_running_intact (closing : Bool) (index : Nat) (c : Context)
    (h : (restaged closing).context? index = some c) : c.intact = true := by
  obtain ⟨_, rfl⟩ := only_station _ c index h
  rfl

/-- The producer's own value is taken, S is not. -/
theorem test_w_consumer :
    let s := { part with events := { part.events with producer := 3 } }
    (s.between = true ∧ s.offers (.port (control 3972 [3])) (control 3972 [3]) = true ∧
        s.soleControl (control 3972 [3]) Config.consumerWord = true ∧ s.events.holding = []) ∧
      s.offers (.port (control 3972 [16])) (control 3972 [16]) = true ∧
        s.soleControl (control 3972 [16]) Config.consumerWord = true := by decide +kernel

/-- A command presented to a part: the hypotheses all commands share. -/
def commanded (s : State) (code : Nat) (r : Request) : Bool :=
  s.between && s.offers (.port r) r && s.soleControl r Config.commandWord && (s.withCopied (.port r) r).hasCommand code

/-- The station at index 0 with another at index 1 in flight, for which a write is held. -/
def otherInFlight (c : Context) : State :=
  let s := busyPart station false [2]
  { s with
    table := { s.table with
      contexts := [(0, c), (1, { station with key := ⟨0, 9⟩, busy := true })], directory := [(7, 0), (9, 1)] }
    flight := s.flight.map fun f => { f with index := 1 }
    forwarder := { s.forwarder with held := s.forwarder.held.map fun h => { h with key := ⟨0, 9⟩ } } }

/-- The forwarder as it was but for this request, and the write held on. -/
def heldOn (s t : State) (r : Request) : Bool :=
  t.forwarder == (s.withCopied (.port r) r).forwarder && t.forwarder.held.length == 1

/-- Writes held for another station stay held when this one is dropped, restarted or moved, or fails its check. -/
theorem test_w_other_in_flight :
    let s := otherInFlight station
    let b := otherInFlight broken
    let drop := command 3 0x00010007 0
    let restart := command 4 0x00010007 0
    let move := command 5 0x00010007 0x00023FFF
    (s.heldFor 0 ⟨0, 7⟩ = true ∧ b.heldFor 0 ⟨0, 7⟩ = true ∧ commanded s 3 drop = true ∧ commanded s 4 restart = true ∧
        commanded s 5 move = true) ∧
      heldOn s (out (.stationDrop (.port drop)) s) drop = true ∧
      heldOn s (out (.stationRestart (.port restart)) s) restart = true ∧
      heldOn s (out (.stationMove (.port move)) s) move = true ∧
      heldOn b (out (.stationDrop (.port drop)) b) drop = true := by decide +kernel

/-- With a correction in flight and a held write, and in STOPPED. -/
theorem test_w_soft_reset :
    commanded (busyPart station true [2]) 1 (command 1 0 0) = true ∧
      commanded { part with part := .stopped } 1 (command 1 0 0) = true := by decide +kernel

/-- With the corrector idle, and with a write held for a station of the channel. -/
theorem test_w_channel_close :
    ([withStation station, busyPart station false [2]].all fun s =>
      commanded s 2 (command 2 0 0) && s.part == .running && s.settings.draining.isNone &&
        (s.flight.isSome || s.forwarder.held.isEmpty) && s.heldFor 0 ⟨0, 7⟩ && s.eventRoom 1 &&
        Table.wf s.table.contexts) = true ∧ channelOpen settings 0 = true := by decide +kernel

theorem test_w_channel_close_intact (index : Nat) (c : Context) (h : (withStation station).context? index = some c) :
    c.intact = true := by
  obtain ⟨_, rfl⟩ := only_station _ c index h
  rfl

/-- STATION_DROP, STATION_RESTART and STATION_MOVE of channel number 1, tag 7, the last to channel number 2, tag 16,383: with
nothing held, with two writes held for the station, and with a record that fails its check. -/
theorem test_w_station_commands :
    let move := command 5 0x00010007 0x00023FFF
    let meets := fun s : State =>
      commanded s 3 (command 3 0x00010007 0) && commanded s 4 (command 4 0x00010007 0) && commanded s 5 move &&
        s.part == .running && s.settings.draining.isNone && s.eventRoom 2 && s.heldFor 0 ⟨0, 7⟩ &&
        (s.withCopied (.port move) move).firstNamed == ⟨1, 7⟩ && (s.withCopied (.port move) move).secondNamed == ⟨2, 16383⟩
    let s := withStation station
    let h := busyPart station false [2, 3]
    let b := busyPart broken false [2]
    (meets s = true ∧ meets h = true ∧ meets b = true) ∧
      (StationName.inRange ⟨1, 7⟩ = true ∧ StationName.inRange ⟨2, 16383⟩ = true ∧ claimant settings 1 = some 0 ∧
        claimant settings 2 = some 1) ∧
      (s.known ⟨0, 7⟩ 0 station = true ∧ h.known ⟨0, 7⟩ 0 { station with busy := true } = true ∧
        s.unknown ⟨1, 16383⟩ = true ∧ s.occupiedCount 1 < quota settings 1 ∧ 0 ∉ s.table.quarantined) ∧
      Table.get? b.table.directory 7 = some 0 ∧ b.context? 0 = some { broken with busy := true } ∧ b.damageRoom = true := by
  decide +kernel

theorem test_w_drain :
    commanded part 6 (command 6 0 0) = true ∧ part.part ≠ .stopped ∧ part.settings.draining = none ∧
      commanded (flightPart false) 6 (command 6 0 0) = true ∧
      (let s := { part with settings := { part.settings with draining := some 9 } }
      s.between = true ∧ s.intake.queue = [] ∧ s.flight = none ∧ s.forwarder.held = []) := by decide +kernel

theorem test_w_error_clear :
    commanded { part with part := .stopped } 7 (command 7 0x200 0) = true ∧ part.settings.draining = none := by
  decide +kernel

/-- Codes 8 and 255; BUSY at codes 2 and 7; NOT_RUNNING at codes 2 and 5 in SETUP and at DRAIN in STOPPED. -/
theorem test_w_refused_commands :
    let busy := { part with settings := { part.settings with draining := some 9 } }
    (commanded part 8 (command 8 0 0) = true ∧ commanded part 255 (command 255 0 0) = true) ∧
      (commanded busy 2 (command 2 0 0) = true ∧ commanded busy 7 (command 7 0 0) = true ∧
        busy.settings.draining ≠ none) ∧
      (commanded fresh 2 (command 2 0 0) = true ∧ commanded fresh 5 (command 5 0 0) = true ∧
        fresh.settings.draining = none ∧ fresh.part ≠ .running) ∧
      commanded { part with part := .stopped } 6 (command 6 0 0) = true := by decide +kernel

/-- Channel fields 8 and 7; tag 0, tag 16,384 and channel number 16; a number no channel claims and a tag unknown; a target
that is known, one of an unclaimed number, and one of a channel at its quota of 0. Each answers as R20, R23 and R165 say. -/
theorem test_w_refused_arguments :
    let s := withStation station
    let full := under s 97 0
    let named := fun (s : State) (r : Request) =>
      ((s.withCopied (.port r) r).firstNamed, (s.withCopied (.port r) r).secondNamed)
    let result := fun (s : State) (code : Nat) (a b : Word) =>
      if commanded s code (command code a b) then
        bits (out (commandRow code (.port (command code a b))) s).events.commandResult 3 0
      else 0
    ((result s 2 0x00080000 0, result s 2 0x00070000 0) = (3, 8) ∧ channelOpen settings 7 = false) ∧
      (result s 3 0x00010000 0, result s 4 0x00014000 0, result s 3 0x00100007 0, result s 5 0x00010007 0x00020000) =
        (3, 3, 3, 3) ∧
      ((result s 3 0x00030007 0, result s 4 0x00010008 0, result s 5 0x00010008 0x00020014) = (4, 4, 4) ∧
        claimant settings 3 = none ∧ s.unknown ⟨0, 8⟩ = true) ∧
      (result s 5 0x00010007 0x00010007 = 7 ∧ s.known ⟨0, 7⟩ 0 station = true ∧
        named s (command 5 0x00010007 0x00010007) = (⟨1, 7⟩, ⟨1, 7⟩)) ∧
      result s 5 0x00010007 0x00030014 = 8 ∧
      (result full 5 0x00010007 0x00020014 = 9 ∧ quota full.settings.active 1 = 0 ∧ full.unknown ⟨1, 20⟩ = true) := by
  decide +kernel

/-- Ready, and not ready for its cause, which is still in flight; a request that a ready own write goes before. -/
theorem test_w_own_send :
    let s := { sending part ⟨.status 4066 5, some 4⟩ with forwarder := { part.forwarder with inFlight := [⟨4, 7, 3⟩] } }
    let ready := sending part ⟨.status 4066 5, none⟩
    let r := wr 0x600000 7 [1]
    (s.between = true ∧ s.own.queue = [⟨.status 4066 5, some 4⟩] ∧ s.events.holding = [] ∧
        (∃ q ∈ s.forwarder.inFlight, q.serial = 4) ∧ s.own.outstanding.length < 256 ∧ s.ownReady = false) ∧
      (ready.between = true ∧ ready.ownReady = true) ∧
      originOf (.forwardWrite (.port r)) = some (.port r) ∧ ready.presents (.port r) r = true ∧
        ready.guardFails r = false ∧ ready.wantsHold r = none ∧
        (out (.forwardWrite (.port r)) ready.ownSent).forwarder.toMemory ≠ ready.ownSent.forwarder.toMemory := by
  decide +kernel

theorem test_w_own_ack :
    let s := { part with own := { part.own with outstanding := [⟨3, false⟩, ⟨4, true⟩] } }
    s.between = true ∧ s.own.outstanding.find? (fun p => p.tag == 3) = some ⟨3, false⟩ ∧
      s.own.outstanding.find? (fun p => p.tag == 4) = some ⟨4, true⟩ ∧ s.eventRoom 1 = true ∧
      s.tolerates .injectFault = true := by decide +kernel

/-- A held event with one free slot in the ring, and with none; an own-write queue with one place for a record left, and with
none; the holding queue full, with the event's kind on and off. -/
theorem test_w_held_event :
    let s := fun c => { part with events := { part.events with
      consumer := c, mark := c, holding := [⟨1, List.replicate 8 0, none⟩] } }
    let full := fun n => { s 2 with own := { (s 2).own with queue := List.replicate n ⟨.record 0x300000 [], none⟩ } }
    ((s 2).between = true ∧ ((s 2).events.producer + 1) % eventSlots (s 2).settings.active ≠ (s 2).events.consumer ∧
        (s 2).recordRoom = true) ∧
      ((s 1).between = true ∧ ((s 1).events.producer + 1) % eventSlots (s 1).settings.active = (s 1).events.consumer) ∧
      ((full 18).between = true ∧ (full 18).recordRoom = false ∧ (full 17).recordRoom = true) ∧
      16 ≤ (crowded part).events.holding.length ∧ eventEnabled (crowded part).settings.active 6 = true ∧
        eventEnabled (under (crowded part) 8 0).settings.active 6 = false := by decide +kernel

/-- The part with this report alone in its queue, at a station or at none. -/
def toTake (s : State) (kind : BurstKind) (arrival : Time) : State :=
  { s with intake := { s.intake with queue := [reportOf kind arrival] } }

/-- A station in every state, with no correction, a READY one and an ISSUED one; a FIRST_CONTACT of a known station, with a
SENT correction. -/
theorem test_w_taking :
    ([.contact, .tracking, .due, .ending] : List StationState).all (fun st =>
      ([.none, .ready (issuedOf .cont), .issued (issuedOf .cont) 2] : List Correction).all fun k =>
        let c := { station with station := st, correction := k }
        let s := toTake (withStation c) .keepalive 990
        s.between && s.part == .running && s.flight.isNone && s.intake.queue == [reportOf .keepalive 990] &&
          s.known ⟨0, 7⟩ 0 c && s.ageingQuiet) = true ∧
      (let s := toTake sentPart .firstContact 990
      s.between = true ∧ s.part = .running ∧ s.flight = none ∧ s.intake.queue = [reportOf .firstContact 990] ∧
        s.known ⟨0, 7⟩ 0 { station with correction := .sent (issuedOf .success) 980 } = true ∧ s.ageingQuiet = true ∧
        s.eventRoom 1 = true) := by decide +kernel

/-- An arrival at delivery plus margin, 985, and one tick before it. -/
theorem test_w_confirming :
    ([985, 984] : List Time).all (fun arrival =>
      let s := toTake sentPart .keepalive arrival
      s.between && s.part == .running && s.flight.isNone && s.ageingQuiet && s.eventRoom 1 &&
        s.known ⟨0, 7⟩ 0 { station with correction := .sent (issuedOf .success) 980 }) = true ∧
      applyMargin settings 0 = 5 := by decide +kernel

/-- A FIRST_CONTACT and a KEEPALIVE of an unknown key; a FIRST_CONTACT of tag 7 whose channel is at its quota of 1, held by a
TRACKING station of tag 9 and age 3. -/
theorem test_w_admitting :
    let s := toTake part .firstContact 990
    let k := toTake part .keepalive 990
    let old : Context := { station with key := ⟨0, 9⟩, station := .tracking, age := 3 }
    let r := toTake (under { withStation old with table := { (withStation old).table with directory := [(9, 0)] } } 65 1)
      .firstContact 990
    (s.between = true ∧ s.part = .running ∧ s.flight = none ∧ s.unknown ⟨0, 7⟩ = true ∧ s.ageingQuiet = true ∧
        s.eventRoom 1 = true ∧ 0 < s.freeCount ∧ s.occupiedCount 0 < quota settings 0 ∧ s.context? 0 = none ∧
        0 ∉ s.table.quarantined) ∧
      (k.between = true ∧ k.unknown ⟨0, 7⟩ = true ∧ adoptEnabled settings 0 = true ∧
        firstContactReserve settings < k.freeCount ∧ k.occupiedCount 0 < quota settings 0) ∧
      r.between = true ∧ r.part = .running ∧ r.flight = none ∧ r.forwarder.held = [] ∧ r.unknown ⟨0, 7⟩ = true ∧
        r.ageingQuiet = true ∧ r.eventRoom 2 = true ∧ Table.wf r.table.contexts = true ∧
        quota r.settings.active 0 ≤ r.occupiedCount 0 ∧ r.context? 0 = some old ∧ old.reclaimable 0 = true := by
  decide +kernel

/-- The reclaimable station above, as the statement says it. -/
theorem test_w_reclaimable : Reclaimable { station with key := ⟨0, 9⟩, station := .tracking, age := 3 } 0 :=
  ⟨rfl, rfl, .inl rfl, rfl, rfl⟩

/-- DATA; KEEPALIVE with adopt off, with the free count at the reserve, and with the quota met; FIRST_CONTACT with a quota of
0, so NO_CONTEXT, with room in the holding queue and with none; DATA of a station whose record fails its check. -/
theorem test_w_turning_away :
    let away := fun (word : Nat) (v : Word) => toTake (under part word v) .keepalive 990
    let short := { toTake part .keepalive 990 with table := { part.table with quarantined := List.range 1023 } }
    let none_ := toTake (under part 65 0) .firstContact 990
    let lost := crowded none_
    let b := toTake (withStation broken) .data 990
    ((toTake part .data 990).between = true ∧ (toTake part .data 990).unknown ⟨0, 7⟩ = true) ∧
      ((away 64 0x101).between = true ∧ (away 64 0x101).unknown ⟨0, 7⟩ = true ∧
        adoptEnabled (away 64 0x101).settings.active 0 = false ∧ (away 64 0x101).eventRoom 1 = true) ∧
      (short.between = true ∧ adoptEnabled settings 0 = true ∧ short.freeCount = 1 ∧
        short.freeCount ≤ firstContactReserve settings) ∧
      ((away 65 0).between = true ∧ adoptEnabled (away 65 0).settings.active 0 = true ∧
        firstContactReserve (away 65 0).settings.active < (away 65 0).freeCount ∧
        quota (away 65 0).settings.active 0 ≤ (away 65 0).occupiedCount 0) ∧
      (none_.between = true ∧ none_.unknown ⟨0, 7⟩ = true ∧ quota none_.settings.active 0 ≤ none_.occupiedCount 0 ∧
        none_.table.contexts = [] ∧ none_.eventRoom 1 = true) ∧
      (lost.between = true ∧ lost.eventRoom 1 = false ∧ eventEnabled lost.settings.active 6 = true ∧
        lost.tolerates .eventLoss = true) ∧
      b.between = true ∧ b.part = .running ∧ b.flight = none ∧ b.forwarder.held = [] ∧
        Table.get? b.table.directory 7 = some 0 ∧ b.context? 0 = some broken ∧ b.damageRoom = true := by decide +kernel

/-- At 16 x N reports, and at N x 65,536 ticks; a taking that raises the counter to 16 x N; a record that fails its check. -/
theorem test_w_ageing :
    let s := withStation station
    let r := { s with table := { s.table with ageing := 16 } }
    let t := { under s 14 0x101 with time := { s.time with ageingTimer := 65536 } }
    let k := toTake { s with table := { s.table with ageing := 15 } } .keepalive 990
    let b := { withStation broken with table := { (withStation broken).table with ageing := 16 } }
    (r.between = true ∧ r.part = .running ∧ Table.wf r.table.contexts = true ∧ 1 ≤ ageingN r.settings.active ∧
        ageingByTime r.settings.active = false ∧ 16 * ageingN r.settings.active ≤ r.table.ageing) ∧
      (t.between = true ∧ ageingByTime t.settings.active = true ∧ 1 ≤ ageingN t.settings.active ∧
        ageingN t.settings.active * 65536 ≤ t.time.ageingTimer) ∧
      (k.between = true ∧ k.flight = none ∧ k.known ⟨0, 7⟩ 0 station = true ∧
        16 * ageingN k.settings.active ≤ k.table.ageing + 1 ∧ k.ageingQuiet = false) ∧
      b.between = true ∧ b.forwarder.held = [] ∧ b.context? 0 = some broken ∧ b.damageRoom = true ∧
        16 * ageingN b.settings.active ≤ b.table.ageing := by decide +kernel

/-- With nothing held and with every held place used, and with a record that fails its check. -/
theorem test_w_completions :
    ([false, true].all fun full =>
      ([station, broken].all fun c =>
        ([[], [0, 1, 2, 3]] : List (List Nat)).all fun slots =>
          let s := busyPart c full slots
          s.between && (s.flight.map fun f => (f.full, f.index)) == some (full, 0) &&
            s.context? 0 == some { c with busy := true } && s.heldFor 0 ⟨0, 7⟩ && s.damageRoom && s.eventRoom 2 &&
            s.tolerates .verdictRowOverrun && s.tolerates .verdictChainLong && s.tolerates .contextIntegrity)) = true := by
  decide +kernel

/-- A TRACKING station and one in CONTACT, at the expiry and when it is most overdue, with nothing held and with a held write;
and with a record that fails its check. -/
theorem test_w_silence :
    ([{ station with station := .tracking }, station, broken] : List Context).all (fun c =>
      ([1050, 1050 + 2147483648] : List Time).all fun now =>
        [withStation { c with busy := true }, busyPart c false [2]].all fun u =>
          let s := { u with time := { u.time with counter := now } }
          s.between && s.part == .running && s.nextDue == some ⟨0, .silence .contact, 1050⟩ &&
            s.context? 0 == some { c with busy := true } && s.heldFor 0 ⟨0, 7⟩ && s.eventRoom 1 && s.damageRoom) = true := by
  decide +kernel

/-- And with a record that fails its check. -/
theorem test_w_confirm_expiry :
    let c := { station with correction := .sent (issuedOf .success) 980 }
    let at_ := fun c => { withStation c with time := { part.time with
      counter := 1010, deadlines := [⟨0, .silence .contact, 1050⟩, ⟨0, .confirm, 1010⟩] } }
    ([c, { c with intact := false }].all fun d =>
      let s := at_ d
      s.between && s.part == .running && s.nextDue == some ⟨0, .confirm, 1010⟩ && s.context? 0 == some d &&
        s.heldFor 0 ⟨0, 7⟩ && s.damageRoom && s.eventRoom 1) = true := by decide +kernel

theorem test_w_residue :
    (committedOf 0 0 0).residue ≤ 255 ∧
      deadZoned (timingDeadZone (caseChannel 1) 0) 16 = 0 ∧ deadZoned (timingDeadZone (caseChannel 1) 0) 17 = 17 ∧
      (arithmetic (caseChannel 1) 0 (measuresOf 300 0 0) none (committedOf 0 0 0)).timingClamped = false := by
  decide +kernel

/-- Committed values at their bounds, errors at theirs. -/
theorem test_w_adjustments :
    let v := committedOf 60000 48 (-2000)
    let m := measuresOf 32767 (-32768) (-128)
    (-60000 ≤ v.timing ∧ v.timing ≤ timingCeiling (caseChannel 1) 0 ∧ powerLow (caseChannel 1) 0 ≤ 0 ∧
        0 ≤ powerHigh (caseChannel 1) 0 ∧ powerLow (caseChannel 1) 0 ≤ v.power ∧ v.power ≤ powerHigh (caseChannel 1) 0 ∧
        -2000 ≤ v.frequency ∧ v.frequency ≤ frequencyLimit (caseChannel 1) 0) ∧
      -128 ≤ m.powerError ∧ m.powerError ≤ 127 ∧ -32768 ≤ m.frequencyError ∧ m.frequencyError ≤ 32767 ∧
      (arithmetic (caseChannel 1) 0 m none v).timingClamped = true ∧
      frequencyDeadZone (caseChannel 1) 0 ≤ 32767 := by decide +kernel

/-- New coefficients, and none from zero taps. -/
theorem test_w_coefficients :
    (coefficientsOf (identityCoefficients 15) (identityCoefficients 15) 15 1 0).coefficients.isSome = true ∧
      (coefficientsOf (identityCoefficients 0) (tapsWith []) 0 1 0).coefficients = none := by decide +kernel

theorem test_w_committed_laws :
    let v := committedOf 60000 48 (-2000)
    v.coefficients.length = 16 ∧ tapAt v.coefficients (mainPosition (caseChannel 1) 0) = ⟨8192, 0⟩ ∧
      v.timing ≤ timingCeiling (caseChannel 1) 0 ∧ v.residue ≤ 255 ∧ powerLow (caseChannel 1) 0 ≤ v.power ∧
      v.power ≤ powerHigh (caseChannel 1) 0 ∧ -(frequencyLimit (caseChannel 1) 0 : Int) ≤ v.frequency := by
  decide +kernel

/-- A selector of 7 conditions; one of 6 that names condition 18 last; both for the last selector. -/
theorem test_w_selector :
    let long := { fresh with settings := { fresh.settings with staging := Words.write settings 350 7 } }
    let high := { fresh with settings := { fresh.settings with
      staging := Words.write (Words.write settings 350 6) 351 0x00120000 } }
    6 < setting long.settings.staging (Config.selectorBlocks + 2 * 7) 7 0 ∧ long.validate = .refusedInvalid 350 ∧
      (∃ n ∈ selectorList high.settings.staging 7, 17 < n) ∧ high.validate = .refusedInvalid 351 := by decide +kernel

/-- Over a zeroed table, from start row 248. -/
theorem test_w_chain :
    startRow [(78, 248)] 0 .data ≤ 248 ∧ (judge [(78, 248)] 0 .data 0).fallback = .none ∧
      ∀ n, n < 2048 → Words.read [(78, 248)] (Config.verdictTable + n) = 0 := by
  refine ⟨by decide +kernel, by decide +kernel, ?_⟩
  intro n _
  have h : ¬Config.verdictTable + n = 78 := by
    have : Config.verdictTable = 1024 := rfl
    omega
  simp [Words.read, Table.get?, h]

/-- An entry that is due, and none. -/
theorem test_w_deadlines :
    { withStation station with time := { (withStation station).time with counter := 1050 } }.nextDue =
      some ⟨0, .silence .contact, 1050⟩ ∧ (withStation station).nextDue = none := by decide +kernel

end Sys2Proof.Tests
end

section
/-!
The report intake at a write that meets the ring alone, and a DATA report that meets a full intake queue (R30, R40).
-/

namespace Sys2Proof.Machine

/-! ### A write on its way past the blocks (R136, R139, R150) -/

/-- The request has been forwarded unchanged, and own writes made from here on wait for it (R136, R137, R150). -/
def State.passing (s : State) (o : Origin) (r : Request) : State :=
  (s.withForwarded o r r).withCause (some s.forwarder.nextSerial)

@[simp] theorem State.passing_frame (s : State) (o : Origin) (r : Request) :
    (s.passing o r).pins = s.pins ∧ (s.passing o r).part = s.part ∧ (s.passing o r).settings = s.settings ∧
    (s.passing o r).intake = s.intake ∧ (s.passing o r).flight = s.flight ∧ (s.passing o r).table = s.table ∧
    (s.passing o r).slotMap = s.slotMap ∧ (s.passing o r).time = s.time ∧ (s.passing o r).events = s.events ∧
    (s.passing o r).forwarder = (s.withForwarded o r r).forwarder ∧
    (s.passing o r).now.cause = some s.forwarder.nextSerial ∧ (s.passing o r).now.stopDue = s.now.stopDue := by
  simp [State.passing, State.withForwarded]

/-- Beginning to forward a request and handing it to the memory port is `passing`, while no own write goes before it. -/
theorem State.beginForward_forwardAs (s : State) (o : Origin) (r : Request) (h : s.ownReady = false) :
    (s.leaving o).beginForward.forwardAs s.forwarder.nextSerial r = s.passing o r := by
  have waiting : (s.leaving o).ownReady = false := by
    rw [State.ownReady_congr s (s.leaving o) (by simp) (by simp) (by simp), h]
  rw [State.beginForward_waiting _ waiting]
  simp [State.forwardAs, State.passing, State.withForwarded, State.withCause]

/-! ### What the blocks read of a state to examine a write -/

/-- Whether a write is a response not taken is read from the part state and the active settings alone (R99). -/
theorem State.responseNotTaken_congr (s t : State) (r : Request) (hp : t.part = s.part)
    (ha : t.settings.active = s.settings.active) : t.responseNotTaken r = s.responseNotTaken r := by
  simp [State.responseNotTaken, State.responseSlot?, State.running, hp, ha]

/-- Whether a write is a settings write is read from the straps alone. -/
theorem State.settingsRequest_congr (s t : State) (r : Request) (hp : t.pins.straps = s.pins.straps) :
    t.settingsRequest r = s.settingsRequest r := by
  simp [State.settingsRequest, hp]

/-- The slot of a report is read from the part state and the active settings alone (R30). -/
theorem State.reportSlot?_congr (s t : State) (r : Request) (hp : t.part = s.part)
    (ha : t.settings.active = s.settings.active) : t.reportSlot? r = s.reportSlot? r := by
  simp [State.reportSlot?, State.running, hp, ha]

/-- The checks of a report read the active settings, the intake and the time alone (R35 to R37). -/
theorem State.checkReport_congr (s t : State) (r : Request) (slot : Nat)
    (ha : t.settings.active = s.settings.active) (hi : t.intake = s.intake) (ht : t.time = s.time) :
    t.checkReport r slot = s.checkReport r slot := by
  simp only [State.checkReport, ha, hi, ht]

/-- What a write meets that meets neither guard, nor the staging area, nor the window. -/
theorem State.meetsOnlyRing_iff (s : State) (r : Request) : s.meetsOnlyRing r = true ↔
    s.guardFails r = false ∧ s.responseSlot? r = none ∧ s.responseNotTaken r = false ∧
      s.settingsRequest r = false := by
  simp [State.meetsOnlyRing, and_assoc]

/-- A write taken as a report is a write. -/
theorem State.isWrite_of_reportSlot? {s : State} {r : Request} {slot : Nat} (h : s.reportSlot? r = some slot) :
    Request.isWrite r = true := by
  unfold State.reportSlot? at h
  dsimp only at h
  split at h
  · simp_all
  · cases h

/-! ### A write that meets the ring alone -/

/-- With no fatal setting due, there is nothing to stop. -/
theorem State.stopIfDue_calm (s : State) (h : s.now.stopDue = false) : s.stopIfDue = s := by
  obtain ⟨pending, pins, part, forwarder, own, settings, intake, flight, table, slotMap, time, events, cause, due⟩ := s
  cases h
  rfl

/-- Of the blocks, the report intake alone acts on a write that meets the ring alone (R139). -/
theorem State.passWrite_meetsOnlyRing (s : State) (o : Origin) (r : Request) (ho : s.ownReady = false)
    (hr : s.meetsOnlyRing r = true) (calm : ((s.passing o r).intakeWrite r).now.stopDue = false) :
    (s.leaving o).passWrite r = ((s.passing o r).intakeWrite r).withCause none := by
  obtain ⟨-, -, notTaken, notSettings⟩ := (s.meetsOnlyRing_iff r).mp hr
  have forwarded : (s.leaving o).beginForward.forwardAs (s.leaving o).forwarder.nextSerial r = s.passing o r := by
    simpa using s.beginForward_forwardAs o r ho
  unfold State.passWrite
  dsimp only
  rw [forwarded]
  generalize ht : (s.passing o r).intakeWrite r = t at calm
  have fill : t.notTaken r = t := by
    simp [State.notTaken, State.responseNotTaken_congr s t r (by simp [← ht]) (by simp [← ht]), notTaken]
  have settings : (t.withCause none).settingsWrite r = t.withCause none := by
    simp [State.settingsWrite, State.settingsRequest_congr s (t.withCause none) r (by simp [← ht]), notSettings]
  rw [fill, t.stopIfDue_calm calm, settings]

/-- REPORT_WRITE of a write that meets the ring alone is what the report intake does once it has been forwarded, with the
cause dropped and ATTN judged, unless a fatal error is set (R30, R139, R173). -/
theorem exec_reportWrite_meetsOnlyRing (s : State) (o : Origin) (r : Request) (slot : Nat) (hb : s.between = true)
    (ho : s.offers o r = true) (hr : s.meetsOnlyRing r = true) (hs : s.reportSlot? r = some slot)
    (calm : ((s.passing o r).takeReport r slot).now.stopDue = false) :
    let u := (s.passing o r).takeReport r slot
    exec (.reportWrite o) s =
      .next { u with now := { cause := none, stopDue := false }
                     pins := { u.pins with attention := u.attentionLevel } } := by
  obtain ⟨presented, waiting⟩ := (s.offers_iff o r).mp ho
  obtain ⟨stands, turn⟩ := (s.presents_iff o r).mp presented
  obtain ⟨noGuard, noResponse, -, -⟩ := (s.meetsOnlyRing_iff r).mp hr
  have taken : (s.passing o r).intakeWrite r = (s.passing o r).takeReport r slot := by
    simp [State.intakeWrite, State.reportSlot?_congr s (s.passing o r) r (by simp) (by simp), hs]
  have passed := s.passWrite_meetsOnlyRing o r waiting hr (by rw [taken]; exact calm)
  rw [taken] at passed
  have settled : s.settlePass o (fun r => (s.reportSlot? r).isSome) =
      ((s.passing o r).takeReport r slot).withCause none := by
    unfold State.settlePass
    rw [s.settle_next o r _ _ stands turn
      (by simp [State.isWrite_of_reportSlot? hs, noGuard, noResponse, hs]), passed]
  show s.act (fun t => t.settlePass o fun r => (t.reportSlot? r).isSome) = _
  rw [s.act_calm _ hb (by rw [settled]; exact calm), settled]
  rfl

/-- REPORT_WRITE of a report about which the intake hands one event on, with a place free in the holding queue: the report
is forwarded, the event is dropped or on its way, no error is set, and nothing else changes (R38, R40, R169). -/
theorem exec_reportWrite_handsOn (s : State) (o : Origin) (r : Request) (slot : Nat) (f : EventFields)
    (hb : s.between = true) (ho : s.offers o r = true) (hr : s.meetsOnlyRing r = true)
    (hs : s.reportSlot? r = some slot) (room : s.eventRoom 1 = true)
    (taken : (s.passing o r).takeReport r slot = (s.passing o r).handOn f s.time.counter) :
    ∃ t, exec (.reportWrite o) s = .next t ∧ t.intake = s.intake ∧ t.events.errors = s.events.errors ∧
      t.reports f s.time.counter (some s.forwarder.nextSerial) = true ∧
      t.forwarder = (s.withForwarded o r r).forwarder ∧ t.part = s.part ∧ t.settings = s.settings ∧
      t.flight = s.flight ∧ t.table = s.table ∧ t.slotMap = s.slotMap ∧ t.time = s.time ∧
      t.pins.straps = s.pins.straps ∧ t.pins.attention = t.attentionLevel := by
  have place : (s.passing o r).events.holding.length < Config.holdingPlaces := by
    simpa [State.eventRoom] using room
  obtain ⟨now, errors, -, -⟩ := (s.passing o r).handOn_calm f s.time.counter place
  have reported : ((s.passing o r).handOn f s.time.counter).reports f s.time.counter
      (some s.forwarder.nextSerial) = true := by
    simpa using (s.passing o r).handOn_reports f s.time.counter place
  obtain ⟨-, idle, -⟩ := s.between_iff.mp hb
  have ran := exec_reportWrite_meetsOnlyRing s o r slot hb ho hr hs (by simp [taken, now, idle])
  rw [taken] at ran
  exact ⟨_, ran, by simp, by simpa using errors, reported, by simp, by simp, by simp, by simp, by simp, by simp,
    by simp, by simp, rfl⟩

/-! ### A DATA report that meets a full queue (R40) -/

/-- A report that passes every check carries the slot it was written to. -/
theorem State.slot_of_checkReport_accepted {s : State} {r : Request} {slot : Nat} {e : Report}
    (h : s.checkReport r slot = .accepted e) : e.slot = slot := by
  unfold State.checkReport at h
  dsimp only at h
  split at h
  · cases h
  split at h
  · cases h
  split at h
  · (repeat' split at h) <;> cases h
    rfl
  · cases h

/-- A DATA report that meets a full queue is reported as OVERFLOW, and nothing else is done (R40). -/
theorem State.enqueue_data_full (s : State) (h : Header) (e : Report) (hk : e.kind = .data)
    (hq : s.intake.queue.length = Config.intakePlaces) :
    s.enqueue h e = s.handOn (rejectedFields h .overflow (some e.channel) e.slot) s.time.counter := by
  simp [State.enqueue, hq, hk]

/-- A DATA report that passes every check and meets a full queue is reported as OVERFLOW, with its slot (R40). -/
theorem State.takeReport_data_full (s : State) (r : Request) (slot : Nat) (e : Report)
    (hc : s.checkReport r slot = .accepted e) (hk : e.kind = .data)
    (hq : s.intake.queue.length = Config.intakePlaces) :
    s.takeReport r slot =
      s.handOn (rejectedFields (readHeader r) .overflow (some e.channel) slot) s.time.counter := by
  simp only [State.takeReport, hc]
  rw [s.enqueue_data_full _ e hk hq, State.slot_of_checkReport_accepted hc]

/-- Settles O20: the intake does nothing but hand REPORT_REJECTED on once the report has been forwarded. -/
theorem dataReportOverflows : Obligations.DataReportOverflows := by
  intro s o r slot e hb ho hr hs hc hk hq room
  refine exec_reportWrite_handsOn s o r slot _ hb ho hr hs room ?_
  have checked := State.checkReport_congr s (s.passing o r) r slot (by simp) (by simp) (by simp)
  simpa using (s.passing o r).takeReport_data_full r slot e (checked.trans hc) hk (by simpa using hq)

end Sys2Proof.Machine
end

section
/-!
Stage 1 and stage 3 of the correction arithmetic: what the total, its quotient and its residue are, and that stage 3 takes
them over unless it clamps (R52, R53, R64).
-/

namespace Sys2Proof.Machine

/-- An adjustment that is not reduced is handed on as it was asked for (R64, R65, R66). -/
theorem clampAdjustment_unclamped {low high committed adjustment : Int}
    (h : (clampAdjustment low high committed adjustment).2 = false) :
    (clampAdjustment low high committed adjustment).1 = adjustment := by
  unfold clampAdjustment at h ⊢
  dsimp only at h ⊢
  split at h
  · cases h
  next notBelow =>
    split at h
    · cases h
    next notAbove => rw [if_neg notBelow, if_neg notAbove]

/-- A dead-zoned error leaves the committed residue alone in T (R52). -/
theorem timingTotal_of_deadZoned {zone period : Nat} {e : Int} {residue : Nat} (h : deadZoned zone e = 0) :
    timingTotal zone period e residue = residue := by
  simp [timingTotal, h]

/-- Stage 3 hands on the measured adjustment with the recentring shift, and stage 1's residue, unless it clamps
(R53, R59, R64). -/
theorem arithmetic_timing_unclamped {snapshot : Table Word} {channel : Nat} {m : Measures} {taps : Option (List Tap)}
    {v : Committed} (h : (arithmetic snapshot channel m taps v).timingClamped = false) :
    let total := timingTotal (timingDeadZone snapshot channel) (symbolPeriod snapshot channel) m.timingError v.residue
    (arithmetic snapshot channel m taps v).timing =
      total / 256 + (arithmetic snapshot channel m taps v).stage2.shift ∧
    (arithmetic snapshot channel m taps v).residue = (total % 256).toNat :=
  ⟨clampAdjustment_unclamped h, if_neg (Bool.eq_false_iff.mp h)⟩

/-- Settles O54: division and remainder by 256 recompose T, a dead-zoned error makes T the committed residue, which is
below 256, and stage 3 takes both over unless it clamps. -/
theorem timingMeasureKeepsResidue : Obligations.TimingMeasureKeepsResidue := by
  intro snapshot channel m taps v bound total measured residue r
  have recomposed : measured * 256 + residue = total := Int.ediv_mul_add_emod total 256
  have nonneg : 0 ≤ residue := Int.emod_nonneg total (by decide)
  have below : residue < 256 := Int.emod_lt_of_pos total (by decide)
  refine ⟨recomposed, nonneg, by omega, fun dead => ?_, fun unclamped => ?_⟩
  · have same : total = v.residue := timingTotal_of_deadZoned dead
    exact ⟨same, by omega, by omega⟩
  · obtain ⟨timing, kept⟩ := arithmetic_timing_unclamped unclamped
    exact ⟨timing, by rw [kept, Int.toNat_of_nonneg nonneg]⟩

end Sys2Proof.Machine
end

section
/-!
Key selectors: the key is a number written in binary (R79), and validation refuses a selector that is too long or names a
condition that does not exist (R160).
-/

namespace Sys2Proof.Machine

/-- A flag as a field is a binary digit. -/
theorem flagField_le_one (b : Bool) : flagField b ≤ 1 := by
  cases b <;> decide

/-- A key begun at `start` has the bits of `start` above those of the conditions still to be read. -/
theorem selectorKey_foldl (conditions : BitVec 18) (start : Nat) (listed : List Nat) :
    listed.foldl (fun key n => 2 * key + flagField (conditions.getLsbD n)) start =
      start * 2 ^ listed.length + selectorKey conditions listed := by
  induction listed generalizing start with
  | nil => simp [selectorKey]
  | cons n rest ih =>
    rw [selectorKey, List.foldl_cons, List.foldl_cons, ih, ih (2 * 0 + _), List.length_cons, Nat.pow_succ]
    ring

@[simp] theorem selectorKey_nil (conditions : BitVec 18) : selectorKey conditions [] = 0 := rfl

/-- The first-listed condition gives the bit above all the others (R79). -/
theorem selectorKey_cons (conditions : BitVec 18) (n : Nat) (listed : List Nat) :
    selectorKey conditions (n :: listed) =
      flagField (conditions.getLsbD n) * 2 ^ listed.length + selectorKey conditions listed := by
  simpa [selectorKey] using selectorKey_foldl conditions (flagField (conditions.getLsbD n)) listed

/-- A key of n conditions is a number of n bits (R79). -/
theorem selectorKey_lt (conditions : BitVec 18) (listed : List Nat) :
    selectorKey conditions listed < 2 ^ listed.length := by
  induction listed with
  | nil => simp
  | cons n rest ih =>
    have digit : flagField (conditions.getLsbD n) * 2 ^ rest.length ≤ 2 ^ rest.length :=
      (Nat.mul_le_mul_right _ (flagField_le_one _)).trans_eq (Nat.one_mul _)
    rw [selectorKey_cons, List.length_cons, Nat.pow_succ]
    omega

/-- A selector's two words hold six condition numbers at most. -/
theorem selectorList_length_le (a : Table Word) (selector : Nat) : (selectorList a selector).length ≤ 6 :=
  List.length_take_le' _ _

/-- The words of a selector pass exactly when its length is at most 6 and every condition it lists exists (R160). -/
theorem selectorChecks_pass_iff (a : Table Word) (selector : Nat) :
    (∀ p ∈ selectorChecks a selector, p.2 = true) ↔
      setting a (Config.selectorBlocks + 2 * selector) 7 0 ≤ 6 ∧ ∀ n ∈ selectorList a selector, n ≤ 17 := by
  have split : (∀ n ∈ selectorList a selector, n ≤ 17) ↔
      (∀ n ∈ (selectorList a selector).take 3, n ≤ 17) ∧ ∀ n ∈ (selectorList a selector).drop 3, n ≤ 17 := by
    rw [← List.forall_mem_append, List.take_append_drop]
  rw [split]
  simp [selectorChecks, and_assoc]

/-- The checks of each of the eight selectors are among the range checks (R160, step 1). -/
theorem mem_rangeChecks_of_selectorChecks {a : Table Word} {selector : Nat} {p : Nat × Bool} (bound : selector < 8)
    (check : p ∈ selectorChecks a selector) : p ∈ rangeChecks a :=
  List.mem_append_right _ (List.mem_flatMap.mpr ⟨selector, List.mem_range.mpr bound, check⟩)

/-- No check fails exactly when every one passes. -/
theorem firstFailing_eq_none_iff (checks : List (Nat × Bool)) :
    firstFailing checks = none ↔ ∀ p ∈ checks, p.2 = true := by
  simp [firstFailing]

/-- A staging copy that validates passes every range check (R160). -/
theorem State.rangeChecks_of_validate {s : State} (valid : s.validate = .applied) :
    ∀ p ∈ rangeChecks s.settings.staging, p.2 = true := by
  unfold State.validate at valid
  split at valid
  · cases valid
  next passed =>
    exact fun p inRange => (firstFailing_eq_none_iff _).mp passed p (List.mem_append_left _ inRange)

/-- A staging copy that validates has selectors of at most 6 conditions, none above 17 (R79, R160). -/
theorem State.selector_of_validate {s : State} {selector : Nat} (valid : s.validate = .applied) (bound : selector < 8) :
    setting s.settings.staging (Config.selectorBlocks + 2 * selector) 7 0 ≤ 6 ∧
      ∀ n ∈ selectorList s.settings.staging selector, n ≤ 17 :=
  (selectorChecks_pass_iff _ _).mp fun p check =>
    State.rangeChecks_of_validate valid p (mem_rangeChecks_of_selectorChecks bound check)

/-- Settles O58: the key's digits by recursion on the listed conditions, and a failing selector word is a range check that
validation does not pass. -/
theorem selectorKeyIsBinaryNumber : Obligations.SelectorKeyIsBinaryNumber := by
  refine ⟨fun conditions => ⟨selectorKey_nil conditions, selectorKey_cons conditions, selectorKey_lt conditions⟩,
    fun s selector bound => ⟨selectorList_length_le _ selector, fun faulty valid => ?_⟩⟩
  obtain ⟨short, exist⟩ := State.selector_of_validate valid bound
  rcases faulty with long | ⟨n, listed, above⟩
  · omega
  · exact absurd (exist n listed) (by omega)

end Sys2Proof.Machine
end

section
/-!
One step: every command but the two of the reset pin is an effect on a part that is out of reset, made whole and then
finished. What all effects have in common is said here once.
-/

namespace Sys2Proof.Machine

set_option Elab.async false

/-! ### The effect of a command -/

/-- What a command does to a part that is out of reset, before the step ends. The two commands of the reset pin are not made
this way. -/
def effect : Instr → State → State
  | .powerOnReset _, s => s
  | .rstnLow, s => s
  | .syncLoad, s => { s with time := { s.time with syncEdge := true } }
  | .requestWait o, s =>
    match s.requestAt o with
    | none => s
    | some r => if s.atTurn o r then s else s.joinWaiting o r
  | .forwardWrite o, s => s.settlePass o fun r => !s.examined r
  | .forwardRead o, s =>
    s.settle o (fun r => !Request.isWrite r && (s.deliverySlot? r).isNone) fun r => (s.leaving o).passRead r
  | .blockedWrite o, s => s.settle o s.guardFails fun r => (s.leaving o).blockWrite r
  | .reportWrite o, s => s.settlePass o fun r => (s.reportSlot? r).isSome
  | .tornWrite o, s => s.settlePass o s.tornWrite
  | .responseWrite o, s =>
    s.settle o (fun r => !s.guardFails r && (s.responseSlot? r).isSome) fun r =>
      s.settleResponse o r ((s.responseSlot? r).getD 0)
  | .responseNotTaken o, s => s.settlePass o s.responseNotTaken
  | .deliveryRead o, s => s.settle o (fun r => (s.deliverySlot? r).isSome) fun r => (s.leaving o).passRead r
  | .settingsWrite o, s => s.settlePass o s.plainSettings
  | .applyWrite o, s => s.settlePass o fun r => s.controls r Config.applyWord
  | .consumerIndexWrite o, s => s.settlePass o fun r => s.controls r Config.consumerWord
  | .softReset o, s => s.settlePass o fun r => s.commands r 1
  | .channelClose o, s => s.settlePass o fun r => s.commands r 2
  | .stationDrop o, s => s.settlePass o fun r => s.commands r 3
  | .stationRestart o, s => s.settlePass o fun r => s.commands r 4
  | .stationMove o, s => s.settlePass o fun r => s.commands r 5
  | .drain o, s => s.settlePass o fun r => s.commands r 6
  | .drainDone, s => s.finishDrain
  | .errorClear o, s => s.settlePass o fun r => s.commands r 7
  | .memoryCompletion c, s => s.returnCompletion c
  | .ownWriteSend, s => s.sendOwn
  | .ownWriteAck tag status, s => s.ackOwn tag status
  | .eventWriteOut, s => s.writeHeldEvent
  | .takeHead, s => s.takeHead
  | .ageingCount, s => if s.running then s.ageByCount else s
  | .notedCompletion, s => s.completeNoted
  | .fullCompletion, s => s.completeFull
  | .silenceExpiry, s => s.fireSilence
  | .confirmExpiry, s => s.fireConfirm
  | .ageingTimer, s => s.fireAgeingTimer
  | .pclkTick, s => s.tick

/-- Every command but the two of the reset pin makes its effect, if the part is out of reset. -/
theorem exec_eq_act (c : Instr) (s : State) (h1 : ∀ straps, c ≠ .powerOnReset straps) (h2 : c ≠ .rstnLow) :
    exec c s = s.act (effect c) := by
  cases c with
  | powerOnReset straps => exact absurd rfl (h1 straps)
  | rstnLow => exact absurd rfl h2
  | _ => rfl

/-- The four ways in which a command answers: the release of RSTn, RSTn low, nothing while RSTn is low, or its effect, with
the step then ended. -/
theorem exec_cases {c : Instr} {s t : State} (h : exec c s = .next t) :
    (∃ straps, c = .powerOnReset straps ∧ t = State.powerOn straps s.pending) ∨
      (c = .rstnLow ∧ t = s.holdInReset) ∨
      (s.pins.resetLow = true ∧ t = s) ∨
      (s.pins.resetLow = false ∧ (∀ straps, c ≠ .powerOnReset straps) ∧ c ≠ .rstnLow ∧ t = (effect c s).finish) := by
  by_cases h1 : ∃ straps, c = .powerOnReset straps
  · obtain ⟨straps, rfl⟩ := h1
    cases h
    exact .inl ⟨straps, rfl, rfl⟩
  by_cases h2 : c = .rstnLow
  · subst h2
    cases h
    exact .inr (.inl ⟨rfl, rfl⟩)
  have h1 : ∀ straps, c ≠ .powerOnReset straps := fun straps e => h1 ⟨straps, e⟩
  rw [exec_eq_act c s h1 h2] at h
  cases low : s.pins.resetLow with
  | true =>
    rw [s.act_reset _ low] at h
    cases h
    exact .inr (.inr (.inl ⟨rfl, rfl⟩))
  | false =>
    rw [s.act_next _ low] at h
    cases h
    exact .inr (.inr (.inr ⟨rfl, h1, h2, rfl⟩))

/-- No effect touches the queue of commands or the pins. -/
theorem effect_frame (c : Instr) (s : State) :
    (effect c s).pending = s.pending ∧ (effect c s).pins = s.pins ∧
      (c ≠ .pclkTick → (effect c s).time.counter = s.time.counter) ∧
      (c ≠ .pclkTick → c ≠ .syncLoad → (effect c s).time.syncEdge = s.time.syncEdge) := by
  cases c with
  | pclkTick => simp [effect]
  | requestWait o =>
    simp only [effect]
    (repeat' split) <;> simp
  | forwardRead o | deliveryRead o =>
    exact ⟨State.settle_leaves State.pending s o _ _ fun r => by simp,
      State.settle_leaves State.pins s o _ _ fun r => by simp,
      fun _ => State.settle_leaves (fun t => t.time.counter) s o _ _ fun r => by simp,
      fun _ _ => State.settle_leaves (fun t => t.time.syncEdge) s o _ _ fun r => by simp⟩
  | blockedWrite o =>
    exact ⟨State.settle_leaves State.pending s o _ _ fun r => by simp,
      State.settle_leaves State.pins s o _ _ fun r => by simp,
      fun _ => State.settle_leaves (fun t => t.time.counter) s o _ _ fun r => by simp,
      fun _ _ => State.settle_leaves (fun t => t.time.syncEdge) s o _ _ fun r => by simp⟩
  | responseWrite o =>
    exact ⟨State.settle_leaves State.pending s o _ _ fun r => by simp,
      State.settle_leaves State.pins s o _ _ fun r => by simp,
      fun _ => State.settle_leaves (fun t => t.time.counter) s o _ _ fun r => by simp,
      fun _ _ => State.settle_leaves (fun t => t.time.syncEdge) s o _ _ fun r => by simp⟩
  | ageingCount =>
    simp only [effect]
    split <;> simp
  | _ => simp [effect]

/-! ### The machine and its clock -/

/-- Settles O1: a step is read off the queue. -/
theorem stepRunsFrontCommand : Obligations.StepRunsFrontCommand :=
  ⟨fun _ _ _ => rfl, fun _ => rfl⟩

/-- Settles O2: the commands of the reset pin answer at once, and every other answers its effect. -/
theorem everyCommandCompletes : Obligations.EveryCommandCompletes := by
  intro c s
  by_cases h1 : ∃ straps, c = .powerOnReset straps
  · obtain ⟨straps, rfl⟩ := h1
    exact ⟨_, rfl, rfl⟩
  by_cases h2 : c = .rstnLow
  · subst h2
    exact ⟨_, rfl, rfl⟩
  rw [exec_eq_act c s (fun straps e => h1 ⟨straps, e⟩) h2]
  refine ⟨_, rfl, ?_⟩
  split
  · rfl
  · simp [(effect_frame c s).1]

/-- Settles O3: no effect but that of a tick touches the counter, and a tick touches neither events nor own writes. -/
theorem counterChangesOnlyAtTicks : Obligations.CounterChangesOnlyAtTicks := by
  intro c s t calm ran
  have others : (∀ straps, c ≠ .powerOnReset straps) → c ≠ .pclkTick → t.time.counter = s.time.counter := by
    intro h1 h2
    rcases exec_cases ran with ⟨straps, rfl, -⟩ | ⟨-, rfl⟩ | ⟨-, rfl⟩ | ⟨-, -, -, rfl⟩
    · exact absurd rfl (h1 straps)
    · rfl
    · rfl
    · simp [(effect_frame c s).2.2.1 h2]
  cases c with
  | powerOnReset straps =>
    cases ran
    rfl
  | pclkTick =>
    rcases exec_cases ran with ⟨_, h, _⟩ | ⟨h, _⟩ | ⟨low, rfl⟩ | ⟨low, -, -, rfl⟩
    · cases h
    · cases h
    · simp [low]
    · simp only [effect]
      rw [State.finish_calm _ (by simp [calm])]
      simp [low, State.tick]
  | _ => exact others (by simp) (by simp)

/-- Settles O4: a tick and an edge touch the time unit alone. -/
theorem tickCountsOrLoads : Obligations.TickCountsOrLoads := by
  intro s between
  refine ⟨s.act_quiet (effect .syncLoad) between _ rfl rfl rfl rfl rfl,
    s.act_quiet (effect .pclkTick) between _ ?_ rfl rfl rfl rfl⟩
  simp [effect, State.tick, State.ageingTimerCounts, State.running, and_assoc]

/-! ### Reset (R147, R177) -/

/-- Settles O11: power-on reset writes every block, and a part in reset makes no effect. -/
theorem resetSetsEveryBlock : Obligations.ResetSetsEveryBlock := by
  refine ⟨fun straps s => ⟨_, rfl, rfl, rfl, rfl, rfl, rfl, rfl, rfl, rfl, rfl, rfl, rfl, rfl, rfl, rfl, rfl, ?_, rfl⟩,
    fun s => rfl, fun c s low h1 h2 => ?_⟩
  · simp [State.powerOn, releaseWords]
  · rw [exec_eq_act c s h1 h2, s.act_reset _ low]

end Sys2Proof.Machine
end

section
/-!
The room of the own-write queue (R148): a status word that is issued, an own write that is sent and a record that is written
leave room for every status word that has no entry.
-/

namespace Sys2Proof.Machine

set_option Elab.async false

/-! ### Folds and steps keep what each part of them keeps -/

/-- What a step of a fold keeps, the fold keeps. -/
theorem foldl_keeps {α : Type} {P : State → Prop} {f : State → α → State} (l : List α)
    (h : ∀ s, ∀ b ∈ l, P s → P (f s b)) {s : State} (hs : P s) : P (l.foldl f s) := by
  induction l generalizing s with
  | nil => exact hs
  | cons b l ih => exact ih (fun t c hc => h t c (by simp [hc])) (h s b (by simp) hs)

theorem State.goOn_keeps {P : State → Prop} {s : State} {f : State → State} (hs : P s) (h : P s → P (f s)) :
    P (s.goOn f) := by
  unfold State.goOn
  split
  · exact hs
  · exact h hs

/-- A step that settles a request keeps what the settling keeps. -/
theorem State.settle_keeps {P : State → Prop} {s : State} {o : Origin} {kind : Request → Bool} {f : Request → State}
    (hs : P s) (h : ∀ r, s.requestAt o = some r → s.atTurn o r = true → kind r = true → P (f r)) :
    P (s.settle o kind f) := by
  unfold State.settle
  split
  · exact hs
  next r stands =>
    split
    next turn =>
      obtain ⟨turn, isKind⟩ := (Bool.and_eq_true _ _).mp turn
      exact h r stands turn isKind
    · exact hs

/-! ### The words with no entry -/

/-- The status words with no entry in a queue of own writes (R148). -/
def absentFrom (queue : List OwnWrite) : List Nat :=
  Config.statusWords.filter fun word => !(queue.any fun w => w.isStatus word)

theorem State.absentStatus_eq (s : State) : s.absentStatus = absentFrom s.own.queue := rfl

theorem absentFrom_nodup (queue : List OwnWrite) : (absentFrom queue).Nodup :=
  List.Nodup.filter _ (by decide : Config.statusWords.Nodup)

/-- Entries and words with no entry: what R148 keeps to 32. -/
def ownLoad (queue : List OwnWrite) : Nat := queue.length + (absentFrom queue).length

/-- A status word that stands in the queue is no absent one; a record makes no difference. -/
theorem absentFrom_cons (w : OwnWrite) (queue : List OwnWrite) :
    absentFrom (w :: queue) = (absentFrom queue).filter fun word => !w.isStatus word := by
  simp [absentFrom, List.filter_filter]

theorem absentFrom_append (queue more : List OwnWrite) :
    absentFrom (queue ++ more) = (absentFrom queue).filter fun word => !(more.any fun w => w.isStatus word) := by
  simp only [absentFrom, List.any_append, List.filter_filter]
  congr 1
  funext word
  simp [Bool.and_comm]

@[simp] theorem OwnWrite.isStatus_status (n word : Nat) (value : Word) (cause : Option Nat) :
    (⟨.status n value, cause⟩ : OwnWrite).isStatus word = (n == word) := rfl

@[simp] theorem OwnWrite.isStatus_record (address : Word) (words : List Word) (cause : Option Nat) (word : Nat) :
    (⟨.record address words, cause⟩ : OwnWrite).isStatus word = false := rfl

/-- Two words cannot be written by one own write. -/
theorem OwnWrite.isStatus_unique {w : OwnWrite} {m n : Nat} (h1 : w.isStatus m = true) (h2 : w.isStatus n = true) :
    m = n := by
  obtain ⟨body, cause⟩ := w
  cases body with
  | record a ws => cases h1
  | status k v =>
    simp only [OwnWrite.isStatus_status, beq_iff_eq] at h1 h2
    omega

/-- An entry that leaves the head of the queue makes at most its own word absent. -/
theorem ownLoad_tail (w : OwnWrite) (queue : List OwnWrite) : ownLoad queue ≤ ownLoad (w :: queue) := by
  have lost : (absentFrom queue).length ≤ (absentFrom (w :: queue)).length + 1 := by
    rw [absentFrom_cons]
    by_cases h : ∃ word ∈ absentFrom queue, w.isStatus word = true
    · obtain ⟨word, hw, hs⟩ := h
      have sub : ((absentFrom queue).erase word).length ≤
          ((absentFrom queue).filter fun n => !w.isStatus n).length := by
        rw [(absentFrom_nodup queue).erase_eq_filter]
        refine List.Sublist.length_le (List.monotone_filter_right _ fun n hn => ?_)
        cases he : w.isStatus n with
        | false => rfl
        | true => simp [OwnWrite.isStatus_unique he hs] at hn
      have := List.length_erase_of_mem hw
      omega
    · rw [List.filter_eq_self.mpr (by simpa using h)]
      omega
  simp only [ownLoad, List.length_cons]
  omega

/-- A status word is issued: its older entry leaves, or it is absent no more. -/
theorem ownLoad_issue {word : Nat} (known : word ∈ Config.statusWords) (queue : List OwnWrite) (value : Word)
    (cause : Option Nat) :
    ownLoad ((queue.filter fun w => !w.isStatus word) ++ [⟨.status word value, cause⟩]) ≤ ownLoad queue := by
  have absent : absentFrom ((queue.filter fun w => !w.isStatus word) ++ [⟨.status word value, cause⟩]) =
      (absentFrom queue).filter fun n => n != word := by
    rw [absentFrom_append]
    simp only [absentFrom, List.filter_filter]
    refine List.filter_congr fun n _ => ?_
    by_cases hn : n = word
    · simp [hn]
    · have same : (queue.filter fun w => !w.isStatus word).any (fun w => w.isStatus n) = queue.any fun w => w.isStatus n := by
        rw [Bool.eq_iff_iff]
        simp only [List.any_filter, List.any_eq_true, Bool.and_eq_true, Bool.not_eq_true']
        refine exists_congr fun w => and_congr_right fun _ => and_iff_right_of_imp fun hs => ?_
        cases he : w.isStatus word with
        | false => rfl
        | true => exact absurd (OwnWrite.isStatus_unique hs he) hn
      simp [same, Bool.beq_comm (a := word), bne]
  simp only [ownLoad, absent, List.length_append, List.length_singleton]
  by_cases present : ∃ w ∈ queue, w.isStatus word = true
  · have fewer : (queue.filter fun w => !w.isStatus word).length < queue.length := by
      rw [List.length_filter_lt_length_iff_exists]
      simpa using present
    have := List.length_filter_le (fun n => n != word) (absentFrom queue)
    omega
  · have hm : word ∈ absentFrom queue := by simpa [absentFrom, known] using present
    have fewer : ((absentFrom queue).filter fun n => n != word).length < (absentFrom queue).length := by
      rw [List.length_filter_lt_length_iff_exists]
      exact ⟨word, hm, by simp⟩
    have := List.length_filter_le (fun w => !w.isStatus word) queue
    omega

/-- A record joins the queue while there is room for it. -/
theorem ownLoad_record (queue : List OwnWrite) (address : Word) (words : List Word) (cause : Option Nat) :
    ownLoad (queue ++ [⟨.record address words, cause⟩]) = ownLoad queue + 1 := by
  simp only [ownLoad, absentFrom_append]
  simp
  omega

/-! ### The buffers of events and own writes -/

/-- The holding queue, the own-write queue and the outstanding own writes keep to their capacities (R148, R170). -/
structure OwnFits (s : State) : Prop where
  holding : s.events.holding.length ≤ Config.holdingPlaces
  outstanding : s.own.outstanding.length ≤ Config.ownOutstanding
  room : ownLoad s.own.queue ≤ Config.ownPlaces

theorem OwnFits.congr {s t : State} (h : OwnFits s) (h1 : t.events.holding = s.events.holding := by simp)
    (h2 : t.own = s.own := by simp) : OwnFits t :=
  ⟨by rw [h1]; exact h.holding, by rw [h2]; exact h.outstanding, by rw [h2]; exact h.room⟩

theorem OwnFits.issueStatusFor {s : State} (h : OwnFits s) (cause : Option Nat) {word : Nat}
    (known : word ∈ Config.statusWords) : OwnFits (s.issueStatusFor cause word) :=
  ⟨h.holding, h.outstanding, (ownLoad_issue known _ _ _).trans h.room⟩

theorem OwnFits.issueStatus {s : State} (h : OwnFits s) {word : Nat} (known : word ∈ Config.statusWords) :
    OwnFits (s.issueStatus word) := h.issueStatusFor _ known

theorem occupiedCountWord_known {channel : Nat} (h : channel < Config.channelCount) :
    Config.occupiedCountWord + channel ∈ Config.statusWords := by
  have : ∀ c < Config.channelCount, Config.occupiedCountWord + c ∈ Config.statusWords := by decide
  exact this channel h

theorem OwnFits.issueCounts {s : State} (h : OwnFits s) {channel : Nat} (free : Bool)
    (hc : channel < Config.channelCount) : OwnFits (s.issueCounts channel free) := by
  unfold State.issueCounts
  cases free with
  | false => exact h.issueStatus (occupiedCountWord_known hc)
  | true => exact (h.issueStatus (by decide)).issueStatus (occupiedCountWord_known hc)

theorem State.recordRoom_iff (s : State) : s.recordRoom = true ↔ ownLoad s.own.queue < Config.ownPlaces := by
  simp only [State.recordRoom, ownLoad, absentFrom, decide_eq_true_eq]
  omega

theorem OwnFits.writeRecord {s : State} (h : OwnFits s) (e : EventRecord) (room : s.recordRoom = true) :
    OwnFits (s.writeRecord e) := by
  have load := s.recordRoom_iff.mp room
  unfold State.writeRecord
  dsimp only
  apply OwnFits.issueStatusFor _ _ (by decide)
  refine ⟨h.holding, h.outstanding, ?_⟩
  simp only [ownLoad_record]
  omega

theorem OwnFits.offerEvent {s : State} (h : OwnFits s) (e : EventRecord) : OwnFits (s.offerEvent e).1 := by
  unfold State.offerEvent
  split
  · exact h
  split
  next room =>
    simp only [State.canWriteRecord, Bool.and_eq_true] at room
    exact h.writeRecord e room.2.2
  split
  next place => exact ⟨by simpa using place, h.outstanding, h.room⟩
  · exact ⟨h.holding, h.outstanding, h.room⟩

theorem OwnFits.writeOut {s : State} (h : OwnFits s) (l : List EventRecord) (hl : l.length ≤ Config.holdingPlaces) :
    OwnFits (s.writeOut l) := by
  induction l generalizing s with
  | nil => exact h
  | cons e rest ih =>
    have hr : rest.length ≤ Config.holdingPlaces := (Nat.le_succ _).trans hl
    unfold State.writeOut
    split
    next room =>
      simp only [State.canWriteRecord, Bool.and_eq_true] at room
      exact ih (OwnFits.writeRecord (s := { s with events := { s.events with holding := rest } })
        ⟨hr, h.outstanding, h.room⟩ e room.2) hr
    · exact h

theorem OwnFits.writeOutHeld {s : State} (h : OwnFits s) : OwnFits s.writeOutHeld := h.writeOut _ h.holding

theorem OwnFits.markError {s : State} (h : OwnFits s) (k : ErrorKind) : OwnFits (s.markError k).1 := by
  unfold State.markError
  have h1 : OwnFits { s with events := { s.events with errors := s.events.errors ||| (1#10 <<< k.code) } } :=
    ⟨h.holding, h.outstanding, h.room⟩
  generalize ({ s with events := { s.events with errors := s.events.errors ||| (1#10 <<< k.code) } } : State) = s1 at h1
  dsimp only
  have h2 : OwnFits (if s.events.errors.getLsbD k.code then s1 else s1.issueStatus Config.errorStatusWord) := by
    split
    · exact h1
    · exact h1.issueStatus (by decide)
  generalize (if s.events.errors.getLsbD k.code then s1 else s1.issueStatus Config.errorStatusWord) = s2 at h2
  have h3 : OwnFits (if s2.events.firstPointer.isNone then
      ({ s2 with events := { s2.events with firstPointer := some k } } : State).issueStatus Config.firstPointerWord
    else s2) := by
    split
    · exact OwnFits.issueStatus (s := { s2 with events := { s2.events with firstPointer := some k } })
        ⟨h2.holding, h2.outstanding, h2.room⟩ (by decide)
    · exact h2
  split
  · exact h2
  dsimp only
  split
  · exact ⟨h3.holding, h3.outstanding, h3.room⟩
  · exact h3

theorem OwnFits.handOn {s : State} (h : OwnFits s) (f : EventFields) (time : Time) : OwnFits (s.handOn f time) := by
  unfold State.handOn
  have h1 := h.offerEvent (s.formRecord f time)
  generalize s.offerEvent (s.formRecord f time) = p at h1
  obtain ⟨s1, lost⟩ := p
  cases lost with
  | false => exact h1
  | true =>
    have h2 := h1.markError .eventLoss
    dsimp only
    generalize s1.markError .eventLoss = p at h2
    obtain ⟨s2, due⟩ := p
    cases due with
    | false => exact h2
    | true => exact h2.offerEvent _

theorem OwnFits.setError {s : State} (h : OwnFits s) (k : ErrorKind) (time : Time) : OwnFits (s.setError k time) := by
  unfold State.setError
  have h1 := h.markError k
  generalize s.markError k = p at h1
  obtain ⟨s1, due⟩ := p
  cases due with
  | false => exact h1
  | true => exact h1.handOn _ _

theorem OwnFits.sendOwn {s : State} (h : OwnFits s) : OwnFits s.sendOwn := by
  unfold State.sendOwn
  split
  · exact h
  next w rest hq =>
    split
    next may =>
      simp only [State.maySend, Bool.and_eq_true, decide_eq_true_eq] at may
      refine OwnFits.writeOutHeld ⟨h.holding, ?_, ?_⟩
      · simpa using may.1.2
      · have := h.room
        rw [hq] at this
        exact (ownLoad_tail w rest).trans this
    · exact h

theorem OwnFits.sendUpTo (n : Nat) {s : State} (h : OwnFits s) : OwnFits (State.sendUpTo n s) := by
  induction n generalizing s with
  | zero => exact h
  | succ n ih =>
    unfold State.sendUpTo
    split
    · exact ih h.sendOwn
    · exact h

theorem OwnFits.beginForward {s : State} (h : OwnFits s) : OwnFits s.beginForward :=
  (h.sendUpTo Config.ownOutstanding).congr rfl rfl

end Sys2Proof.Machine
end

section
/-!
Capacities, ranges and canonical forms within a step: what `Bounded` and `Canonical` say of a state but for the cause of own
writes and the level of ATTN, which only the end of a step restores. Every operation keeps it.
-/

namespace Sys2Proof.Machine

set_option Elab.async false

/-! ### What holds within a step -/

/-- The record's index, channel, attempts and age are in range (R1, R3). -/
structure Context.InRange (index : Nat) (c : Context) : Prop where
  index : index < Config.contextCount
  channel : c.key.channel < Config.channelCount
  attempts : c.attempts ≤ 255
  age : c.age ≤ 3

/-- The buffers of requests keep to their places (R143, R144). -/
structure PortFits (s : State) : Prop where
  held : s.forwarder.held.length ≤ Config.heldPlaces
  waiting : s.forwarder.waiting.length ≤ Config.waitingPlaces

/-- The intake queue keeps to its places, with local channels in it, and its table to the canonical form (R36, R39). -/
structure IntakeFits (s : State) : Prop where
  queue : s.intake.queue.length ≤ Config.intakePlaces
  reports : ∀ e ∈ s.intake.queue, e.channel < Config.channelCount
  lastSequence : Table.wf s.intake.lastSequence = true

/-- The records keep to their ranges, and their tables to the canonical form (R1, R3). -/
structure TableFits (s : State) : Prop where
  records : ∀ index c, s.context? index = some c → c.InRange index
  contexts : Table.wf s.table.contexts = true
  directory : Table.wf s.table.directory = true
  slotMap : Table.wf s.slotMap = true

/-- The windows have the canonical form (R155). -/
structure WindowFits (s : State) : Prop where
  staging : Words.wf s.settings.staging = true
  active : Words.wf s.settings.active = true

/-- `Bounded` and `Canonical` within a step. -/
structure Sound (s : State) : Prop where
  port : PortFits s
  own : OwnFits s
  intake : IntakeFits s
  table : TableFits s
  window : WindowFits s

variable {s t : State}

theorem sound_of_bounded (hb : Bounded s) (hc : Canonical s) : Sound s :=
  ⟨⟨hb.held, hb.waiting⟩, ⟨hb.holding, hb.outstanding, hb.ownRoom⟩, ⟨hb.intake, hb.reports, hc.lastSequence⟩,
    ⟨fun index c h => have ⟨a, b, d, e⟩ := hb.contexts index c h; ⟨a, b, d, e⟩, hc.contexts, hc.directory, hc.slotMap⟩,
    ⟨hc.staging, hc.active⟩⟩

theorem Sound.canonical (h : Sound s) : Canonical s :=
  ⟨h.window.staging, h.window.active, h.table.contexts, h.table.directory, h.table.slotMap, h.intake.lastSequence⟩

theorem Sound.bounded (h : Sound s) (hi : s.now = { cause := none, stopDue := false })
    (ha : s.pins.attention = s.attentionLevel) : Bounded s :=
  ⟨h.port.held, h.port.waiting, h.intake.queue, h.own.holding, h.own.outstanding, h.own.room, h.intake.reports,
    fun index c hc => have r := h.table.records index c hc; ⟨r.index, r.channel, r.attempts, r.age⟩, hi, ha⟩

/-! ### A block that an operation leaves keeps what holds of it -/

theorem PortFits.congr (h : PortFits s) (h1 : t.forwarder.held = s.forwarder.held := by simp)
    (h2 : t.forwarder.waiting = s.forwarder.waiting := by simp) : PortFits t :=
  ⟨by rw [h1]; exact h.held, by rw [h2]; exact h.waiting⟩

theorem IntakeFits.congr (h : IntakeFits s) (h1 : t.intake = s.intake := by simp) : IntakeFits t :=
  ⟨by rw [h1]; exact h.queue, by rw [h1]; exact h.reports, by rw [h1]; exact h.lastSequence⟩

theorem TableFits.congr (h : TableFits s) (h1 : t.table.contexts = s.table.contexts := by simp)
    (h2 : t.table.directory = s.table.directory := by simp) (h3 : t.slotMap = s.slotMap := by simp) : TableFits t :=
  ⟨by unfold State.context?; rw [h1]; exact h.records, by rw [h1]; exact h.contexts, by rw [h2]; exact h.directory,
    by rw [h3]; exact h.slotMap⟩

theorem WindowFits.congr (h : WindowFits s) (h1 : t.settings.staging = s.settings.staging := by simp)
    (h2 : t.settings.active = s.settings.active := by simp) : WindowFits t :=
  ⟨by rw [h1]; exact h.staging, by rw [h2]; exact h.active⟩

/-- An operation that touches none of the blocks keeps all of it. -/
theorem Sound.congr (h : Sound s) (h1 : t.forwarder.held = s.forwarder.held := by simp)
    (h2 : t.forwarder.waiting = s.forwarder.waiting := by simp) (h3 : t.events.holding = s.events.holding := by simp)
    (h4 : t.own = s.own := by simp) (h5 : t.intake = s.intake := by simp)
    (h6 : t.table.contexts = s.table.contexts := by simp) (h7 : t.table.directory = s.table.directory := by simp)
    (h8 : t.slotMap = s.slotMap := by simp) (h9 : t.settings.staging = s.settings.staging := by simp)
    (h10 : t.settings.active = s.settings.active := by simp) : Sound t :=
  ⟨h.port.congr h1 h2, h.own.congr h3 h4, h.intake.congr h5, h.table.congr h6 h7 h8, h.window.congr h9 h10⟩

/-- An operation of the event writer keeps all of it, if it keeps the room for own writes and events. -/
theorem Sound.with_own (h : Sound s) (ho : OwnFits t) (h1 : t.forwarder.held = s.forwarder.held := by simp)
    (h2 : t.forwarder.waiting = s.forwarder.waiting := by simp) (h5 : t.intake = s.intake := by simp)
    (h6 : t.table.contexts = s.table.contexts := by simp) (h7 : t.table.directory = s.table.directory := by simp)
    (h8 : t.slotMap = s.slotMap := by simp) (h9 : t.settings.staging = s.settings.staging := by simp)
    (h10 : t.settings.active = s.settings.active := by simp) : Sound t :=
  ⟨h.port.congr h1 h2, ho, h.intake.congr h5, h.table.congr h6 h7 h8, h.window.congr h9 h10⟩

/-- An operation on the records keeps all of it, if it keeps their ranges and forms. -/
theorem Sound.with_table (h : Sound s) (ht : TableFits t) (h1 : t.forwarder.held = s.forwarder.held := by simp)
    (h2 : t.forwarder.waiting = s.forwarder.waiting := by simp) (h3 : t.events.holding = s.events.holding := by simp)
    (h4 : t.own = s.own := by simp) (h5 : t.intake = s.intake := by simp)
    (h9 : t.settings.staging = s.settings.staging := by simp)
    (h10 : t.settings.active = s.settings.active := by simp) : Sound t :=
  ⟨h.port.congr h1 h2, h.own.congr h3 h4, h.intake.congr h5, ht, h.window.congr h9 h10⟩

/-! ### Events, errors and own writes -/

@[simp] theorem Sound.issueStatus (h : Sound s) {word : Nat} (known : word ∈ Config.statusWords) :
    Sound (s.issueStatus word) := h.with_own (h.own.issueStatus known)

@[simp] theorem Sound.issueCounts (h : Sound s) {channel : Nat} (free : Bool) (hc : channel < Config.channelCount) :
    Sound (s.issueCounts channel free) := h.with_own (h.own.issueCounts free hc)

@[simp] theorem Sound.handOn (h : Sound s) (f : EventFields) (time : Time) : Sound (s.handOn f time) :=
  h.with_own (h.own.handOn f time)

@[simp] theorem Sound.setError (h : Sound s) (k : ErrorKind) (time : Time) : Sound (s.setError k time) :=
  h.with_own (h.own.setError k time)

@[simp] theorem Sound.writeOutHeld (h : Sound s) : Sound s.writeOutHeld := h.with_own h.own.writeOutHeld

@[simp] theorem Sound.commandAnswer (h : Sound s) (sequence : BitVec 16) (code flags : Nat) (result : CommandResult) :
    Sound (s.commandAnswer sequence code flags result) :=
  h.with_own (OwnFits.issueStatus (s := { s with events := { s.events with
    commandResult := commandResultValue sequence code flags result } }) (h.own.congr rfl rfl) (by decide))

@[simp] theorem Sound.applyAnswer (h : Sound s) (sequence : BitVec 16) (result : ApplyResult) :
    Sound (s.applyAnswer sequence result) :=
  h.with_own (OwnFits.issueStatus (s := { s with events := { s.events with
    applyResult := applyResultValue sequence result } }) (h.own.congr rfl rfl) (by decide))

@[simp] theorem Sound.sendOwn (h : Sound s) : Sound s.sendOwn := h.with_own h.own.sendOwn

@[simp] theorem Sound.beginForward (h : Sound s) : Sound s.beginForward := h.with_own h.own.beginForward

@[simp] theorem Sound.forwardAs (h : Sound s) (serial : Nat) (r : Request) : Sound (s.forwardAs serial r) := h.congr

@[simp] theorem Sound.withCause (h : Sound s) (cause : Option Nat) : Sound (s.withCause cause) := h.congr

/-! ### Records -/

theorem Sound.range (h : Sound s) {index : Nat} {c : Context} (hc : s.context? index = some c) : c.InRange index :=
  h.table.records index c hc

@[simp] theorem Sound.writeContext (h : Sound s) {index : Nat} {c : Context} (hc : c.InRange index) :
    Sound (s.writeContext index c) := by
  refine h.with_table ⟨fun m d hm => ?_, Table.wf_set _ _ _ h.table.contexts, h.table.directory, h.table.slotMap⟩
  rw [State.writeContext_get] at hm
  split at hm
  next same =>
    cases hm
    subst same
    exact ⟨hc.index, hc.channel, hc.attempts, hc.age⟩
  · exact h.range hm

@[simp] theorem Sound.removeDeadline (h : Sound s) (index : Nat) (kind : DeadlineKind) :
    Sound (s.removeDeadline index kind) := h.congr

@[simp] theorem Sound.removeDeadlines (h : Sound s) (index : Nat) : Sound (s.removeDeadlines index) := h.congr

@[simp] theorem Sound.arm (h : Sound s) (index : Nat) (kind : DeadlineKind) (expiry : Time) :
    Sound (s.arm index kind expiry) := h.congr

@[simp] theorem Sound.withFlight (h : Sound s) (f : Option Flight) : Sound { s with flight := f } := h.congr

@[simp] theorem Sound.withSlotMap (h : Sound s) {m : Table Nat} (hm : Table.wf m = true) :
    Sound { s with slotMap := m } :=
  h.with_table ⟨h.table.records, h.table.contexts, h.table.directory, hm⟩

@[simp] theorem Sound.clearSlotsOf (h : Sound s) (index : Nat) : Sound (s.clearSlotsOf index) :=
  h.withSlotMap (Table.wf_filter _ _ h.table.slotMap)

@[simp] theorem Sound.endFlight (h : Sound s) : Sound s.endFlight := by
  unfold State.endFlight
  split
  · exact h
  split
  · exact h.withFlight _
  next hc =>
    have r := h.range hc
    refine (h.writeContext ?_).withFlight _
    exact ⟨r.index, r.channel, r.attempts, r.age⟩

@[simp] theorem Sound.abandonFor (h : Sound s) (index : Nat) : Sound (s.abandonFor index) := by
  unfold State.abandonFor
  split
  · exact h
  · split <;> simp [h]

@[simp] theorem Sound.vacate (h : Sound s) (index : Nat) (reason : ReleaseReason) : Sound (s.vacate index reason) := by
  have h : Sound (((s.abandonFor index).clearSlotsOf index).removeDeadlines index) :=
    ((h.abandonFor index).clearSlotsOf index).removeDeadlines index
  refine h.with_table ⟨fun m d hm => ?_, Table.wf_erase _ _ h.table.contexts, Table.wf_filter _ _ h.table.directory,
    h.table.slotMap⟩ rfl rfl rfl rfl rfl rfl rfl
  simp only [State.context?, State.vacate, Table.get?_erase] at hm
  split at hm
  · cases hm
  · exact h.range hm

@[simp] theorem Sound.release (h : Sound s) (index : Nat) (reason : ReleaseReason) (time : Time) (stage : Nat) :
    Sound (s.release index reason time stage) := by
  unfold State.release
  split
  · exact h
  next hc => exact ((h.vacate index reason).issueCounts _ (h.range hc).channel).handOn _ _

@[simp] theorem Sound.integrityRelease (h : Sound s) (index : Nat) (time : Time) :
    Sound (s.integrityRelease index time) := (h.release _ _ _ _).setError _ _

@[simp] theorem Sound.lookup (h : Sound s) (key : Key) (time : Time) : Sound (s.lookup key time).1 := by
  unfold State.lookup
  (repeat' split) <;> simp [h]

@[simp] theorem Sound.unmapSlot (h : Sound s) (slot : Nat) : Sound (s.unmapSlot slot) := by
  unfold State.unmapSlot
  split
  · exact h
  next index _ =>
    have h1 : Sound { s with slotMap := Table.erase s.slotMap slot } := h.withSlotMap (Table.wf_erase _ _ h.table.slotMap)
    dsimp only
    split
    · exact h1
    next hc =>
      have r := h1.range hc
      split
      · exact h1
      · exact h1
      · exact h1.writeContext ⟨r.index, r.channel, r.attempts, r.age⟩
      · exact h1

/-- The index a station is given is one of the table's. -/
theorem State.lowestFree_spec {index : Nat} (h : s.lowestFree = some index) :
    index < Config.contextCount ∧ s.context? index = none ∧ index ∉ s.table.quarantined := by
  have hp := List.find?_some h
  have hm := List.mem_of_find?_eq_some h
  simp only [Bool.and_eq_true, Option.isNone_iff_eq_none, Bool.not_eq_true', List.contains_eq_mem, decide_eq_false_iff_not]
    at hp
  exact ⟨List.mem_range.mp hm, hp⟩

@[simp] theorem Sound.occupy (h : Sound s) {index : Nat} {key : Key} (station : StationState) (origin : Birth)
    (committed : Committed) (time : Time) (stage : Stage) (interval : Nat) (hi : index < Config.contextCount)
    (hk : key.channel < Config.channelCount) :
    Sound (s.occupy index key station origin committed time stage interval) := by
  unfold State.occupy
  have h1 : Sound { s with table := { s.table with directory := Table.set s.table.directory key.number index } } :=
    h.with_table ⟨h.table.records, h.table.contexts, Table.wf_set _ _ _ h.table.directory, h.table.slotMap⟩
  exact ((h1.writeContext ⟨hi, hk, by simp, by simp⟩).arm _ _ _).issueCounts _ hk

@[simp] theorem Sound.restart (h : Sound s) (index : Nat) (a : Table Word) (time : Time) (reason : Nat) :
    Sound (s.restart index a time reason) := by
  unfold State.restart
  split
  · exact h
  next hc =>
    have r := h.range hc
    refine ((((h.clearSlotsOf index).removeDeadline _ _).writeContext ?_).arm _ _ _).handOn _ _
    exact ⟨r.index, r.channel, by simp, by simp⟩

@[simp] theorem Sound.confirm (h : Sound s) {index : Nat} {c : Context} (issued : Issued) (delivered time : Time)
    (r : c.InRange index) : Sound (s.confirm index c issued delivered time) := by
  unfold State.confirm
  refine Sound.handOn ((h.removeDeadline _ _).writeContext ?_) _ _
  refine ⟨r.index, r.channel, ?_, r.age⟩
  dsimp only
  split
  · omega
  · exact r.attempts

@[simp] theorem Sound.withdraw (h : Sound s) {index : Nat} {c : Context} (issued : Issued) (delivered time : Time)
    (r : c.InRange index) : Sound (s.withdraw index c issued delivered time) := by
  unfold State.withdraw
  refine (h.writeContext ?_).handOn _ _
  exact ⟨r.index, r.channel, Nat.min_le_left _ _, r.age⟩

/-! ### Fills and held writes -/

@[simp] theorem Sound.settleOwner (h : Sound s) (slot : Nat) (found : Option Nat) : Sound (s.settleOwner slot found) := by
  unfold State.settleOwner
  (repeat' split) <;> simp [h]

@[simp] theorem Sound.fillAndForward (h : Sound s) (serial : Nat) (r : Request) (key : Key) (slot : Nat)
    (found : Option Nat) : Sound (s.fillAndForward serial r key slot found) := by
  unfold State.fillAndForward
  refine Sound.forwardAs ?_ _ _
  have h := h.settleOwner slot found
  generalize s.settleOwner slot found = t at h
  split
  next hc =>
    have r := h.range hc
    split
    · exact h
    · refine (h.writeContext ?_).withSlotMap (Table.wf_set _ _ _ h.table.slotMap)
      exact ⟨r.index, r.channel, r.attempts, r.age⟩
    · exact h
    · exact h
  · exact h

@[simp] theorem Sound.unmapOverlapped (h : Sound s) (r : Request) : Sound (s.unmapOverlapped r) :=
  foldl_keeps _ (fun _ _ _ h => h.unmapSlot _) h

@[simp] theorem Sound.notTaken (h : Sound s) (r : Request) : Sound (s.notTaken r) := by
  unfold State.notTaken
  (repeat' split) <;> simp [h]

@[simp] theorem Sound.fillHeldWrite (h : Sound s) (w : HeldWrite) : Sound (s.fillHeldWrite w) := by
  unfold State.fillHeldWrite
  refine Sound.withCause ?_ _
  cases w.slot with
  | none => exact (h.beginForward.notTaken _).forwardAs _ _
  | some slot => exact (h.beginForward.lookup _ _).fillAndForward _ _ _ _ _

@[simp] theorem Sound.withNoneHeld (h : Sound s) : Sound { s with forwarder := { s.forwarder with held := [] } } :=
  ⟨⟨Nat.zero_le _, h.port.waiting⟩, h.own.congr, h.intake.congr, h.table.congr, h.window.congr⟩

@[simp] theorem Sound.releaseHeld (h : Sound s) : Sound s.releaseHeld :=
  foldl_keeps _ (fun _ _ _ h => h.fillHeldWrite _) h.withNoneHeld

@[simp] theorem Sound.settleHeld (h : Sound s) : Sound s.settleHeld := by
  unfold State.settleHeld
  split <;> simp [h]

@[simp] theorem Sound.forwardHeldUnfilled (h : Sound s) : Sound s.forwardHeldUnfilled :=
  foldl_keeps _ (fun _ _ _ h => (h.beginForward.forwardAs _ _).withCause _) h.withNoneHeld

@[simp] theorem Sound.releaseStation (h : Sound s) (index : Nat) (reason : ReleaseReason) (time : Time) (stage : Nat) :
    Sound (s.releaseStation index reason time stage) := (h.release _ _ _ _).settleHeld

@[simp] theorem Sound.failIntegrity (h : Sound s) (index : Nat) (time : Time) : Sound (s.failIntegrity index time) :=
  (h.integrityRelease _ _).settleHeld

/-! ### The end of a step, and ageing -/

@[simp] theorem Sound.withPart (h : Sound s) (p : PartState) : Sound { s with part := p } := h.congr

@[simp] theorem Sound.withDraining (h : Sound s) (d : Option (BitVec 16)) :
    Sound { s with settings := { s.settings with draining := d } } := h.congr

@[simp] theorem Sound.abandonDrain (h : Sound s) : Sound s.abandonDrain := by
  unfold State.abandonDrain
  split
  · exact h
  · exact (h.withDraining none).commandAnswer _ _ _ _

@[simp] theorem Sound.enterStopped (h : Sound s) : Sound s.enterStopped :=
  h.abandonDrain.endFlight.forwardHeldUnfilled.withPart _

@[simp] theorem Sound.stopIfDue (h : Sound s) : Sound s.stopIfDue := by
  unfold State.stopIfDue
  have h : Sound { s with now := { s.now with stopDue := false } } := h.congr
  dsimp only
  split
  · exact h.enterStopped
  · exact h

@[simp] theorem Sound.finish (h : Sound s) : Sound s.finish :=
  (h.stopIfDue.withCause none).congr rfl rfl rfl rfl rfl rfl rfl rfl rfl rfl

@[simp] theorem Sound.ageContext (h : Sound s) (index : Nat) : Sound (s.ageContext index) := by
  unfold State.ageContext
  split
  · exact h
  next hc =>
    have r := h.range hc
    split
    · exact h.writeContext ⟨r.index, r.channel, r.attempts, Nat.min_le_left _ _⟩
    · exact h.failIntegrity _ _

@[simp] theorem Sound.ageingStep (h : Sound s) : Sound s.ageingStep := foldl_keeps _ (fun _ _ _ h => h.ageContext _) h

@[simp] theorem Sound.withAgeing (h : Sound s) (n : Nat) : Sound { s with table := { s.table with ageing := n } } := h.congr

@[simp] theorem Sound.ageByCount (h : Sound s) : Sound s.ageByCount := by
  unfold State.ageByCount
  dsimp only
  split
  · exact h.ageingStep.withAgeing 0
  · exact h

@[simp] theorem Sound.countReport (h : Sound s) : Sound s.countReport := by
  unfold State.countReport
  split
  · exact h
  · exact (h.withAgeing _).ageByCount

/-! ### Reports -/

/-- A local channel that claims a number is one of the eight. -/
theorem claimant_lt {a : Table Word} {number channel : Nat} (h : claimant a number = some channel) :
    channel < Config.channelCount := List.mem_range.mp (List.mem_of_find?_eq_some h)

/-- An accepted report is of the local channel that claims its number. -/
theorem State.channel_of_accepted {r : Request} {slot : Nat} {e : Report} (h : s.checkReport r slot = .accepted e) :
    claimant s.settings.active (readHeader r).number = some e.channel := by
  unfold State.checkReport at h
  dsimp only at h
  (repeat' split at h) <;> cases h
  assumption

/-- The queue without its newest DATA entry has one entry less, and no other. -/
theorem takeNewestData_spec {l : List Report} {d : Report} {kept : List Report}
    (h : takeNewestData l = some (d, kept)) : ∃ before after, l = before ++ d :: after ∧ kept = before ++ after ∧
      d.kind = .data ∧ ∀ x ∈ after, x.kind ≠ .data := by
  have rest : ∀ l : List Report, takeNewestData l = none → ∀ x ∈ l, x.kind ≠ .data := by
    intro l
    induction l with
    | nil => simp
    | cons e l ih =>
      intro h
      unfold takeNewestData at h
      split at h
      · cases h
      next later =>
        split at h
        · cases h
        next other =>
          intro x hx
          rcases List.mem_cons.mp hx with rfl | hx
          · exact other
          · exact ih later x hx
  induction l generalizing kept with
  | nil => cases h
  | cons e l ih =>
    unfold takeNewestData at h
    split at h
    next d' kept' later =>
      cases h
      obtain ⟨before, after, h1, h2, h3, h4⟩ := ih later
      exact ⟨e :: before, after, by simp [h1], by simp [h2], h3, h4⟩
    next later =>
      split at h
      next isData =>
        cases h
        exact ⟨[], l, rfl, rfl, isData, rest l later⟩
      · cases h

theorem IntakeFits.joinIntake (h : IntakeFits s) (room : s.intake.queue.length < Config.intakePlaces) {e : Report}
    (he : e.channel < Config.channelCount) : IntakeFits (s.joinIntake e) := by
  refine ⟨?_, ?_, Table.wf_set _ _ _ h.lastSequence⟩
  · simpa [State.joinIntake] using room
  · intro x hx
    rcases List.mem_append.mp hx with hx | hx
    · exact h.reports x hx
    · rw [List.mem_singleton.mp hx]
      exact he

theorem Sound.with_intake (h : Sound s) (hi : IntakeFits t) (h1 : t.forwarder.held = s.forwarder.held := by simp)
    (h2 : t.forwarder.waiting = s.forwarder.waiting := by simp) (h3 : t.events.holding = s.events.holding := by simp)
    (h4 : t.own = s.own := by simp) (h6 : t.table.contexts = s.table.contexts := by simp)
    (h7 : t.table.directory = s.table.directory := by simp) (h8 : t.slotMap = s.slotMap := by simp)
    (h9 : t.settings.staging = s.settings.staging := by simp)
    (h10 : t.settings.active = s.settings.active := by simp) : Sound t :=
  ⟨h.port.congr h1 h2, h.own.congr h3 h4, hi, h.table.congr h6 h7 h8, h.window.congr h9 h10⟩

/-- An accepted report is queued, or displaces an entry, or is lost. -/
@[simp] theorem Sound.enqueue (h : Sound s) (header : Header) {e : Report} (he : e.channel < Config.channelCount) :
    Sound (s.enqueue header e) := by
  unfold State.enqueue
  dsimp only
  split
  next room => exact h.with_intake (h.intake.joinIntake room he)
  split
  · exact h.handOn _ _
  · exact (h.handOn _ _).setError _ _
  next displaced kept taken _ =>
    obtain ⟨before, after, h1, h2, -, -⟩ := takeNewestData_spec taken
    have less : kept.length < Config.intakePlaces := by
      have := h.intake.queue
      rw [h1] at this
      simp only [h2, List.length_append, List.length_cons] at this ⊢
      omega
    have fewer : ∀ x ∈ kept, x ∈ s.intake.queue := by
      intro x
      rw [h1, h2]
      simp only [List.mem_append, List.mem_cons]
      tauto
    have hk : Sound { s with intake := { s.intake with queue := kept } } :=
      h.with_intake ⟨less.le, fun x hx => h.intake.reports x (fewer x hx), h.intake.lastSequence⟩
    have hk := hk.handOn (State.displacedFields { s with intake := { s.intake with queue := kept } } displaced)
      s.time.counter
    exact hk.with_intake (hk.intake.joinIntake (by simpa using less) he)

@[simp] theorem Sound.intakeWrite (h : Sound s) (r : Request) : Sound (s.intakeWrite r) := by
  unfold State.intakeWrite
  split
  · unfold State.takeReport
    dsimp only
    split
    · exact h
    · split <;> simp [h]
    next accepted => exact h.enqueue _ (claimant_lt (State.channel_of_accepted accepted))
  · split <;> simp [h]

@[simp] theorem Sound.discardReports (h : Sound s) (channel : Nat) : Sound (s.discardReports channel) :=
  h.with_intake ⟨(List.length_filter_le _ _).trans h.intake.queue,
    fun e he => h.intake.reports e (List.mem_filter.mp he).1, Table.wf_erase _ _ h.intake.lastSequence⟩

end Sys2Proof.Machine
end

section
/-!
Capacities, ranges and canonical forms within a step, of the corrector, the applies, the commands and the requests; and that
every step keeps them.
-/

namespace Sys2Proof.Machine

set_option Elab.async false

variable {s : State}

/-! ### Shapes that operations share -/

theorem Sound.ite {t : State} {p : Prop} [Decidable p] (hs : Sound s) (ht : Sound t) : Sound (if p then s else t) := by
  split <;> assumption

/-- Everything of the event writer but the holding queue is free. -/
theorem Sound.withEvents (h : Sound s) {e : EventWriter} (he : e.holding = s.events.holding) :
    Sound { s with events := e } := h.congr rfl rfl he rfl rfl rfl rfl rfl rfl rfl

theorem Sound.withQuarantined (h : Sound s) (l : List Nat) :
    Sound { s with table := { s.table with quarantined := l } } := h.congr rfl rfl rfl rfl rfl rfl rfl rfl rfl rfl

/-! ### The corrector -/

@[simp] theorem Sound.rearmSilence (h : Sound s) (index : Nat) (a : Table Word) (time : Time) :
    Sound (s.rearmSilence index a time) := by
  unfold State.rearmSilence
  (repeat' split) <;> simp [h]

@[simp] theorem Sound.markFull (h : Sound s) : Sound s.markFull := h.withFlight _

@[simp] theorem Sound.testCorrection (h : Sound s) (index : Nat) (a : Table Word) (report : Report) (time : Time) :
    Sound (s.testCorrection index a report time) := by
  unfold State.testCorrection
  split
  · exact h
  next hc =>
    have r := h.range hc
    split
    · exact h
    split
    · exact h.markFull
    · refine (h.writeContext ?_).markFull
      exact ⟨r.index, r.channel, r.attempts, r.age⟩
    · exact h
    · split
      · exact (h.confirm _ _ _ r).markFull
      · exact h

@[simp] theorem Sound.bindReport (h : Sound s) (index ageBefore : Nat) (report : Report) :
    Sound (s.bindReport index ageBefore report) := by
  unfold State.bindReport
  dsimp only
  split
  · exact h
  next hc =>
    have r := h.range hc
    refine State.goOn_keeps (Sound.countReport ((h.withFlight _).writeContext ?_)) fun h => ?_
    · exact ⟨r.index, r.channel, r.attempts, by simp⟩
    · split
      · exact h
      next hc =>
        have r := h.range hc
        refine State.goOn_keeps (Sound.testCorrection ?_ _ _ _ _) fun h => h.rearmSilence _ _ _
        split
        · refine h.writeContext ?_
          exact ⟨r.index, r.channel, r.attempts, r.age⟩
        · exact h

@[simp] theorem Sound.refuse (h : Sound s) (report : Report) (cause : RefusalCause) : Sound (s.refuse report cause) :=
  h.handOn _ _

theorem Sound.allocate (h : Sound s) {index : Nat} {report : Report} (hi : index < Config.contextCount)
    (hr : report.channel < Config.channelCount) : Sound (s.allocate index report) := by
  unfold State.allocate
  exact State.goOn_keeps ((h.occupy _ _ _ _ _ _ hi hr).handOn _ _) fun h => h.bindReport _ _ _

theorem Sound.adopt (h : Sound s) {index : Nat} {report : Report} (hi : index < Config.contextCount)
    (hr : report.channel < Config.channelCount) : Sound (s.adopt index report) := by
  unfold State.adopt
  exact State.goOn_keeps ((h.occupy _ _ _ _ _ _ hi hr).handOn _ _) fun h => h.bindReport _ _ _

theorem Sound.reclaimScan (channel : Nat) (l : List Nat) (h : Sound s) :
    Sound (State.reclaimScan channel l s).1 ∧
      ∀ index, (State.reclaimScan channel l s).2 = some index → index < Config.contextCount := by
  induction l generalizing s with
  | nil => exact ⟨h, by simp [State.reclaimScan]⟩
  | cons i l ih =>
    unfold State.reclaimScan
    split
    · exact ih h
    next hc =>
      split
      · split
        · exact ⟨h, fun index e => by cases e; exact (h.range hc).index⟩
        · exact ih h
      · dsimp only
        split
        · exact ⟨h.failIntegrity _ _, by simp⟩
        · exact ih (h.failIntegrity _ _)

theorem Sound.admitFirstContact (h : Sound s) {report : Report} (hr : report.channel < Config.channelCount) :
    Sound (s.admitFirstContact report) := by
  unfold State.admitFirstContact
  dsimp only
  split
  next free => exact h.allocate (State.lowestFree_spec free).1 hr
  · obtain ⟨scanned, bound⟩ := Sound.reclaimScan report.channel s.table.contexts.keys h
    split
    next scan =>
      rw [scan] at scanned
      exact State.goOn_keeps scanned fun h => h.refuse _ _
    next scan =>
      rw [scan] at scanned bound
      exact State.goOn_keeps (scanned.releaseStation _ _ _ _) fun h => h.allocate (bound _ rfl) hr

theorem Sound.admitKeepalive (h : Sound s) {report : Report} (hr : report.channel < Config.channelCount) :
    Sound (s.admitKeepalive report) := by
  unfold State.admitKeepalive
  dsimp only
  split
  · exact h.refuse _ _
  split
  · exact h.refuse _ _
  split
  · exact h.refuse _ _
  split
  next free => exact h.adopt (State.lowestFree_spec free).1 hr
  · exact h.refuse _ _

theorem Sound.admitReport (h : Sound s) (found : Option Nat) {report : Report}
    (hr : report.channel < Config.channelCount) : Sound (s.admitReport found report) := by
  unfold State.admitReport
  split
  · split
    · exact h
    · split
      · exact State.goOn_keeps (h.restart _ _ _ _) fun h => h.bindReport _ _ _
      · exact h.bindReport _ _ _
      · exact h.bindReport _ _ _
  · split
    · exact h.admitFirstContact hr
    · exact h.admitKeepalive hr
    · exact h

@[simp] theorem Sound.takeHead (h : Sound s) : Sound s.takeHead := by
  unfold State.takeHead
  split
  next report rest running flight queue =>
    have h1 : Sound { s with intake := { s.intake with queue := rest } } := by
      refine h.with_intake ⟨?_, fun e he => h.intake.reports e (by rw [queue]; exact List.mem_cons_of_mem _ he),
        h.intake.lastSequence⟩
      have := h.intake.queue
      rw [queue] at this
      exact (Nat.le_succ _).trans this
    exact State.goOn_keeps (h1.lookup _ _) fun h2 =>
      h2.admitReport _ (h.intake.reports report (by rw [queue]; exact List.mem_cons_self))
  · exact h

@[simp] theorem Sound.completeNoted (h : Sound s) : Sound s.completeNoted := by
  unfold State.completeNoted
  split
  · exact h
  split
  · exact h
  split
  · exact h.endFlight.settleHeld
  next hc =>
    have r := h.range hc
    split
    · refine ((h.writeContext ?_).withFlight none).settleHeld
      exact ⟨r.index, r.channel, r.attempts, r.age⟩
    · exact h.failIntegrity _ _

@[simp] theorem Sound.rearmAfterSilent (h : Sound s) (index : Nat) (a : Table Word) (v : Verdict)
    (before : StationState) : Sound (s.rearmAfterSilent index a v before) := by
  unfold State.rearmAfterSilent
  split <;> simp [h]

@[simp] theorem Sound.setFallback (h : Sound s) (f : Fallback) : Sound (s.setFallback f) := by
  unfold State.setFallback
  split <;> simp [h]

theorem Flight.judged_inRange (f : Flight) {index : Nat} {c : Context} (conditions : BitVec 18) (v : Verdict)
    (r : c.InRange index) : (f.judged c conditions v).InRange index := by
  refine ⟨r.index, r.channel, ?_, r.age⟩
  simp only [Flight.judged]
  split
  · exact Nat.min_le_left _ _
  · exact r.attempts

@[simp] theorem Sound.completeFull (h : Sound s) : Sound s.completeFull := by
  unfold State.completeFull
  split
  · exact h
  next f _ =>
    split
    · exact h
    split
    · exact h.endFlight.settleHeld
    next hc =>
      split
      · have judged := fun conditions verdict =>
          (h.writeContext (f.judged_inRange conditions verdict (h.range hc))).withFlight none
        refine Sound.settleHeld (Sound.setFallback (Sound.ite (Sound.handOn ?_ _ _) ?_) _)
        · exact (judged _ _).rearmAfterSilent _ _ _ _
        · exact (judged _ _).rearmAfterSilent _ _ _ _
      · exact h.failIntegrity _ _

@[simp] theorem Sound.expireSilence (h : Sound s) (index : Nat) (stage : Stage) (expiry : Time) :
    Sound (s.expireSilence index stage expiry) := by
  unfold State.expireSilence
  split
  · exact h
  next hc =>
    have r := h.range hc
    split
    · exact h.failIntegrity _ _
    split
    · refine ((h.writeContext ?_).arm _ _ _).handOn _ _
      exact ⟨r.index, r.channel, r.attempts, r.age⟩
    · exact h.releaseStation _ _ _ _

@[simp] theorem Sound.expireConfirm (h : Sound s) (index : Nat) (expiry : Time) : Sound (s.expireConfirm index expiry) := by
  unfold State.expireConfirm
  split
  · exact h
  next hc =>
    split
    · exact h.failIntegrity _ _
    split
    · exact h
    · exact h
    · exact h
    · exact h.withdraw _ _ _ (h.range hc)

@[simp] theorem Sound.fireSilence (h : Sound s) : Sound s.fireSilence := by
  unfold State.fireSilence
  split
  · split
    · exact (h.removeDeadline _ _).expireSilence _ _ _
    · exact h
  · exact h

@[simp] theorem Sound.fireConfirm (h : Sound s) : Sound s.fireConfirm := by
  unfold State.fireConfirm
  split
  · split
    · exact h
    · exact (h.removeDeadline _ _).expireConfirm _ _
  · exact h

@[simp] theorem Sound.fireAgeingTimer (h : Sound s) : Sound s.fireAgeingTimer := by
  unfold State.fireAgeingTimer
  dsimp only
  split
  · exact h.ageingStep.congr rfl rfl rfl rfl rfl rfl rfl rfl rfl rfl
  · exact h

/-! ### Applies -/

@[simp] theorem Sound.releaseSilently (h : Sound s) (index : Nat) : Sound (s.releaseSilently index) := by
  unfold State.releaseSilently
  split
  · exact h
  · split
    · exact h.vacate _ _
    · exact (h.vacate _ _).setError _ _

theorem Sound.withActive (h : Sound s) {a : Table Word} (ha : Words.wf a = true) :
    Sound { s with settings := { s.settings with active := a } } :=
  ⟨h.port.congr, h.own.congr, h.intake.congr, h.table.congr, ⟨h.window.staging, ha⟩⟩

theorem Sound.withStaging (h : Sound s) {a : Table Word} (ha : Words.wf a = true) :
    Sound { s with settings := { s.settings with staging := a } } :=
  ⟨h.port.congr, h.own.congr, h.intake.congr, h.table.congr, ⟨ha, h.window.active⟩⟩

@[simp] theorem Sound.closeChannel (h : Sound s) {channel : Nat} (hc : channel < Config.channelCount) (cause : Nat) :
    Sound (s.closeChannel channel cause) := by
  unfold State.closeChannel
  dsimp only
  have h : Sound (((s.contextsOf channel).foldl State.releaseSilently s).discardReports channel).settleHeld :=
    ((foldl_keeps _ (fun _ _ _ h => h.releaseSilently _) h : Sound _).discardReports channel).settleHeld
  generalize (((s.contextsOf channel).foldl State.releaseSilently s).discardReports channel).settleHeld = t at h
  have h := (h.withActive (Words.wf_write _ (channelWord channel 0)
    (Words.read t.settings.active (channelWord channel 0) &&& 0xFFFFFFFE#32) h.window.active)).handOn
    { kind := 11, channel := some channel, reason := cause, w4 := BitVec.ofNat 32 (s.contextsOf channel).length }
    t.time.counter
  unfold withChannelOff
  generalize State.handOn _ _ t.time.counter = u at h ⊢
  have h2 : Sound (if u.freeCount = s.freeCount then u else u.issueStatus Config.freeCountWord) := by
    split
    · exact h
    · exact h.issueStatus (by decide)
  split
  · exact h2
  · exact h2.issueStatus (occupiedCountWord_known hc)

@[simp] theorem Sound.returnToReady (h : Sound s) (index : Nat) : Sound (s.returnToReady index) := by
  unfold State.returnToReady
  split
  · exact h
  next hc =>
    have r := h.range hc
    split
    · exact h.failIntegrity _ _
    split
    · exact h
    · exact h
    · refine h.writeContext ?_
      exact ⟨r.index, r.channel, r.attempts, r.age⟩
    · exact h

@[simp] theorem Sound.clearSlotMap (h : Sound s) : Sound s.clearSlotMap :=
  (foldl_keeps _ (fun _ _ _ h => h.returnToReady _) h : Sound _).withSlotMap rfl

@[simp] theorem Sound.rejudgeHeld (h : Sound s) : Sound s.rejudgeHeld :=
  ⟨⟨by simpa [State.rejudgeHeld] using h.port.held, h.port.waiting⟩, h.own.congr, h.intake.congr, h.table.congr,
    h.window.congr⟩

@[simp] theorem Sound.restartRing (h : Sound s) : Sound s.restartRing :=
  Sound.issueStatus (s := { s with events := { s.events with producer := 0, consumer := 0, mark := 0 } })
    (h.withEvents rfl) (by decide)

@[simp] theorem Sound.openChannel (h : Sound s) (channel : Nat) : Sound (s.openChannel channel) :=
  h.with_intake ⟨h.intake.queue, h.intake.reports, Table.wf_erase _ _ h.intake.lastSequence⟩

@[simp] theorem Sound.adoptSettings (h : Sound s) : Sound s.adoptSettings := by
  unfold State.adoptSettings
  dsimp only
  have h1 := h.withActive (Words.wf_filter _ _ h.window.staging : Words.wf (adoptedWords s.settings.staging) = true)
  have h2 := Sound.ite (p := stagingMoved s.settings.active (adoptedWords s.settings.staging) = true) h1.rejudgeHeld h1
  have h3 := foldl_keeps (P := Sound) (f := fun u c => u.closeChannel c 2)
    ((List.range Config.channelCount).filter fun c =>
      channelOpen s.settings.active c && !channelOpen (adoptedWords s.settings.staging) c)
    (fun u c hc h => h.closeChannel (List.mem_range.mp (List.mem_filter.mp hc).1) 2) h2
  have h4 := foldl_keeps (P := Sound) (f := State.openChannel)
    ((List.range Config.channelCount).filter fun c =>
      !channelOpen s.settings.active c && channelOpen (adoptedWords s.settings.staging) c)
    (fun u c _ h => h.openChannel c) h3
  have h5 := Sound.ite (p := stagingMoved s.settings.active (adoptedWords s.settings.staging) = true) h4.clearSlotMap h4
  have h6 := Sound.ite (p := eventRingMoved s.settings.active (adoptedWords s.settings.staging) = true) h5.restartRing h5
  exact h6.congr rfl rfl rfl rfl rfl rfl rfl rfl rfl rfl

@[simp] theorem Sound.takeApply (h : Sound s) : Sound s.takeApply := by
  unfold State.takeApply State.applySettings
  split
  · exact h.applyAnswer _ _
  · split
    · exact h.adoptSettings.applyAnswer _ _
    · exact h.applyAnswer _ _

/-! ### Commands -/

theorem Sound.findStation (h : Sound s) (n : StationName) : Sound (s.findStation n).1 := by
  unfold State.findStation
  split
  · exact h
  · exact (h.lookup _ _).settleHeld

theorem Sound.stationDrop (h : Sound s) (n : StationName) : Sound (s.stationDrop n).1 := by
  have found := h.findStation n
  unfold State.stationDrop
  split
  · exact h
  split
  next e => rwa [e] at found
  next e =>
    rw [e] at found
    exact found.releaseStation _ _ _ _

theorem Sound.stationRestart (h : Sound s) (n : StationName) : Sound (s.stationRestart n).1 := by
  have found := h.findStation n
  unfold State.stationRestart
  split
  · exact h
  split
  next e => rwa [e] at found
  next e =>
    rw [e] at found
    exact ((found.abandonFor _).restart _ _ _ _).settleHeld

theorem Sound.moveStation (h : Sound s) (source : Nat) (c : Context) {target : Key}
    (ht : target.channel < Config.channelCount) : Sound (s.moveStation source c target) := by
  unfold State.moveStation
  dsimp only
  split
  · exact h.releaseStation _ _ _ _
  next free =>
    exact ((h.releaseStation _ _ _ _).occupy _ _ _ _ _ _ (State.lowestFree_spec free).1 ht).handOn _ _

theorem Sound.stationMove (h : Sound s) (origin target : StationName) : Sound (s.stationMove origin target).1 := by
  have first := h.findStation origin
  unfold State.stationMove
  split
  · exact h
  split
  next e => rwa [e] at first
  next t source e =>
    rw [e] at first
    have second := first.findStation target
    split
    next e => rwa [e] at second
    next u e =>
      rw [e] at second
      replace second : Sound u := second
      split
      · exact second
      · exact second
      next channel c claimed _ =>
        split
        · have inTable : channel < Config.channelCount := claimant_lt claimed
          have moved := second.moveStation source c (target := { channel := channel, tag := target.tag }) inTable
          dsimp only
          exact moved
        · exact second

theorem Sound.errorClear (h : Sound s) (argument : Word) : Sound (s.errorClear argument) := by
  let errors := s.events.errors &&& ~~~(argument.setWidth 10 : BitVec 10)
  let cleared : State := { s with events := { s.events with errors := errors } }
  have h1 : Sound cleared := h.withEvents rfl
  have h2 := Sound.ite (p := (argument.setWidth 10 : BitVec 10).getLsbD ErrorKind.contextIntegrity.code = true)
    ((h1.withQuarantined []).issueStatus (word := Config.freeCountWord) (by decide)) h1
  have h3 := Sound.ite (p := errors = s.events.errors) h2
    (h2.issueStatus (word := Config.errorStatusWord) (by decide))
  have h4 := Sound.ite (p := (s.events.firstPointer.any
      fun k => (argument.setWidth 10 : BitVec 10).getLsbD k.code) = true)
    ((h3.withEvents (e := { State.events _ with firstPointer := none }) rfl).issueStatus
      (word := Config.firstPointerWord) (by decide)) h3
  exact h4

theorem Sound.drainAnswer (h : Sound s) (sequence : BitVec 16) : Sound (s.drainAnswer sequence) :=
  (h.withDraining none).commandAnswer _ _ _ _

theorem Sound.startDrain (h : Sound s) (sequence : BitVec 16) : Sound (s.startDrain sequence) := by
  unfold State.startDrain
  split
  · exact h.drainAnswer _
  · exact h.withDraining _

@[simp] theorem Sound.finishDrain (h : Sound s) : Sound s.finishDrain := by
  unfold State.finishDrain
  split
  · exact h
  · split
    · exact h.drainAnswer _
    · exact h

theorem Sound.clearForSetup (h : Sound s) : Sound s.clearForSetup :=
  ⟨h.port.congr, ⟨Nat.zero_le _, by simpa [State.clearForSetup] using h.own.outstanding,
      by show ownLoad [] ≤ Config.ownPlaces; decide⟩,
    ⟨Nat.zero_le _, by simp [State.clearForSetup], rfl⟩,
    ⟨by simp [State.clearForSetup, State.context?], rfl, rfl, rfl⟩, ⟨h.window.staging, by
      show Words.wf Config.defaultSettings = true
      decide⟩⟩

theorem Sound.softReset (h : Sound s) (sequence : BitVec 16) : Sound (s.softReset sequence) := by
  have h1 := h.endFlight.forwardHeldUnfilled.clearForSetup
  have known : ∀ word ∈ wordsAfterReset, word ∈ Config.statusWords := fun word hw => (List.mem_filter.mp hw).1
  unfold State.softReset
  refine foldl_keeps _ (fun u word hw h => h.issueStatus (known word hw)) (Sound.commandAnswer ?_ _ _ _ _)
  split
  · exact h1
  · exact h1.commandAnswer _ _ _ _

theorem Sound.answerCommand (h : Sound s) (code : Nat) (first second : Word) :
    Sound (s.answerCommand code first second).1 := by
  have running : ∀ f : State → Answered, Sound (f s).1 → Sound (s.whenRunning f).1 := by
    intro f hf
    unfold State.whenRunning
    split
    · exact hf
    · exact h
  unfold State.answerCommand
  split
  · refine running _ ?_
    unfold State.channelClose
    split
    · exact h
    split
    · exact h
    next inRange _ => exact h.closeChannel (Nat.lt_succ_of_le (Nat.le_of_not_lt inRange)) 1
  split
  · exact running _ (h.stationDrop _)
  split
  · exact running _ (h.stationRestart _)
  split
  · exact running _ (h.stationMove _ _)
  · exact h.errorClear _

@[simp] theorem Sound.takeCommand (h : Sound s) : Sound s.takeCommand := by
  unfold State.takeCommand
  dsimp only
  split
  · exact h
  split
  · exact h.commandAnswer _ _ _ _
  split
  · exact h.softReset _
  split
  · exact h.commandAnswer _ _ _ _
  split
  · split
    · exact h.commandAnswer _ _ _ _
    · exact h.startDrain _
  · exact (h.answerCommand _ _ _).commandAnswer _ _ _ _

@[simp] theorem Sound.offerConsumer (h : Sound s) : Sound s.offerConsumer := by
  unfold State.offerConsumer
  dsimp only
  split
  · refine Sound.writeOutHeld ?_
    split <;> exact h.congr rfl rfl rfl rfl rfl rfl rfl rfl rfl rfl
  · exact h

/-! ### Requests -/

@[simp] theorem Sound.copySettings (h : Sound s) (r : Request) : Sound (s.copySettings r) := by
  refine h.withStaging ?_
  refine List.foldlRecOn (motive := fun a => Words.wf a = true) _ _ h.window.staging fun a ha k _ => ?_
  unfold copyWord
  split
  · split
    · exact ha
    · exact Words.wf_write _ _ _ ha
  · exact ha

theorem State.onControl_keeps {P : State → Prop} (hs : ∀ t, P t → P (State.stopIfDue t)) (h : P s) (r : Request)
    (word : Nat) {f : State → State} (hf : P s → P (f s)) : P (s.onControl r word f) := by
  unfold State.onControl
  split
  · exact hs _ (hf h)
  · exact h

@[simp] theorem Sound.settingsWrite (h : Sound s) (r : Request) : Sound (s.settingsWrite r) := by
  have stop : ∀ t, Sound t → Sound (State.stopIfDue t) := fun t h => h.stopIfDue
  unfold State.settingsWrite
  split
  · exact State.onControl_keeps stop (State.onControl_keeps stop (State.onControl_keeps stop (h.copySettings r) r _
      Sound.takeApply) r _ Sound.takeCommand) r _ Sound.offerConsumer
  · exact h

@[simp] theorem Sound.leaving (h : Sound s) (o : Origin) : Sound (s.leaving o) := by
  refine ⟨⟨by simpa using h.port.held, ?_⟩, h.own.congr, h.intake.congr, h.table.congr, h.window.congr⟩
  cases o with
  | port r => exact h.port.waiting
  | stalled => exact h.port.waiting
  | waiting source => exact List.eraseP_sublist.length_le.trans h.port.waiting

@[simp] theorem Sound.blockWrite (h : Sound s) (r : Request) : Sound (s.blockWrite r) :=
  (h.congr rfl rfl rfl rfl rfl rfl rfl rfl rfl rfl : Sound { s with forwarder := { s.forwarder with
    toInitiator := s.forwarder.toInitiator ++
      [{ source := r.source, tag := r.tag, status := .error, data := [] }] } }).setError _ _

@[simp] theorem Sound.passWrite (h : Sound s) (r : Request) : Sound (s.passWrite r) :=
  (((((h.beginForward.forwardAs _ _).intakeWrite r).notTaken r).stopIfDue.withCause none).settingsWrite r)

@[simp] theorem Sound.passResponse (h : Sound s) (r : Request) (slot : Nat) : Sound (s.passResponse r slot) := by
  unfold State.passResponse
  dsimp only
  split
  · split
    · exact ((h.beginForward.lookup _ _).settleHeld.withCause _).fillAndForward _ _ _ _ _
    · exact h.beginForward.fillAndForward _ _ _ _ _
  · exact (h.beginForward.unmapSlot _).forwardAs _ _

@[simp] theorem Sound.deliver (h : Sound s) (slot : Nat) : Sound (s.deliver slot) := by
  unfold State.deliver
  dsimp only
  split
  · exact h
  split
  · exact h
  next hc =>
    have r := h.range hc
    split
    · exact h.failIntegrity _ _
    split
    · exact h
    · exact h
    · split
      · exact h.releaseStation _ _ _ _
      · refine ((h.writeContext ?_).withSlotMap (Table.wf_erase _ _ h.table.slotMap)).arm _ _ _
        exact ⟨r.index, r.channel, r.attempts, r.age⟩
    · exact h

@[simp] theorem Sound.passRead (h : Sound s) (r : Request) : Sound (s.passRead r) := by
  unfold State.passRead
  dsimp only
  have h := (h.beginForward.forwardAs s.forwarder.nextSerial r).withCause none
  split
  · exact h
  · exact h.deliver _

theorem Sound.stallPort (h : Sound s) (o : Origin) : Sound (s.stallPort o) := h.congr

@[simp] theorem Sound.settleResponse (h : Sound s) (o : Origin) (r : Request) (slot : Nat) :
    Sound (s.settleResponse o r slot) := by
  unfold State.settleResponse
  split
  · split
    next place =>
      have room : s.forwarder.held.length < Config.heldPlaces := by
        simp only [State.heldPlaceFor, decide_eq_true_eq] at place
        omega
      have h := h.leaving o
      exact ⟨⟨by simpa [State.hold] using room, h.port.waiting⟩, h.own.congr, h.intake.congr, h.table.congr,
        h.window.congr⟩
    · exact h.stallPort o
  · exact (h.leaving o).passResponse r slot

@[simp] theorem Sound.joinWaiting (h : Sound s) (o : Origin) (r : Request) : Sound (s.joinWaiting o r) := by
  have joins : s.forwarder.waiting.length < Config.waitingPlaces → ∀ stalled, Sound { s with forwarder := { s.forwarder with
      stalled := stalled, waiting := s.forwarder.waiting ++ [r] } } := fun room _ =>
    ⟨⟨h.port.held, by simpa using room⟩, h.own.congr, h.intake.congr, h.table.congr, h.window.congr⟩
  cases o with
  | waiting source => exact h
  | port q =>
    simp only [State.joinWaiting]
    split
    next room => exact joins room _
    · exact h.stallPort _
  | stalled =>
    simp only [State.joinWaiting]
    split
    next room => exact joins room _
    · exact h

@[simp] theorem Sound.settlePass (h : Sound s) (o : Origin) (kind : Request → Bool) : Sound (s.settlePass o kind) :=
  State.settle_keeps h fun r _ _ _ => (h.leaving o).passWrite r

@[simp] theorem Sound.returnCompletion (h : Sound s) (c : Completion) : Sound (s.returnCompletion c) := by
  unfold State.returnCompletion
  (repeat' split) <;> first | exact h | exact h.congr rfl rfl rfl rfl rfl rfl rfl rfl rfl rfl

@[simp] theorem Sound.ackOwn (h : Sound s) (tag : BitVec 8) (status : CompletionStatus) : Sound (s.ackOwn tag status) := by
  unfold State.ackOwn
  split
  · exact h
  · have h : Sound { s with own := { s.own with outstanding := s.own.outstanding.eraseP fun p => p.tag == tag } } :=
      h.with_own ⟨h.own.holding, List.eraseP_sublist.length_le.trans h.own.outstanding, h.own.room⟩
    dsimp only
    split
    · exact h.setError _ _
    · exact h

@[simp] theorem Sound.writeHeldEvent (h : Sound s) : Sound s.writeHeldEvent := by
  unfold State.writeHeldEvent
  split
  · exact h
  next e rest hq =>
    split
    next room =>
      simp only [State.canWriteRecord, Bool.and_eq_true] at room
      have := h.own.holding
      rw [hq] at this
      exact h.with_own (OwnFits.writeRecord (s := { s with events := { s.events with holding := rest } })
        ⟨(Nat.le_succ _).trans this, h.own.outstanding, h.own.room⟩ e room.2)
    · exact h

/-! ### Every step -/

/-- Every effect keeps capacities, ranges and canonical forms. -/
theorem Sound.effect (h : Sound s) (c : Instr) : Sound (effect c s) := by
  cases c with
  | syncLoad | pclkTick => exact h.congr rfl rfl rfl rfl rfl rfl rfl rfl rfl rfl
  | requestWait o =>
    simp only [Machine.effect]
    split
    · exact h
    · split
      · exact h
      · exact h.joinWaiting _ _
  | forwardRead o | deliveryRead o => exact State.settle_keeps h fun r _ _ _ => (h.leaving o).passRead r
  | blockedWrite o => exact State.settle_keeps h fun r _ _ _ => (h.leaving o).blockWrite r
  | responseWrite o => exact State.settle_keeps h fun r _ _ _ => h.settleResponse o r _
  | ageingCount =>
    simp only [Machine.effect]
    split <;> simp [h]
  | _ => simp [Machine.effect, h]

theorem Sound.holdInReset (h : Sound s) : Sound s.holdInReset :=
  ⟨⟨Nat.zero_le _, Nat.zero_le _⟩, ⟨h.own.holding, Nat.zero_le _, by show ownLoad [] ≤ Config.ownPlaces; decide⟩,
    h.intake.congr, h.table.congr, h.window.congr⟩

theorem powerOn_sound (straps : Straps) (pending : List Instr) : Sound (State.powerOn straps pending) :=
  ⟨⟨Nat.zero_le _, Nat.zero_le _⟩,
    ⟨Nat.zero_le _, Nat.zero_le _, by show ownLoad releaseWords ≤ Config.ownPlaces; decide⟩,
    ⟨Nat.zero_le _, by simp [State.powerOn], rfl⟩, ⟨by simp [State.powerOn, State.context?], rfl, rfl, rfl⟩,
    ⟨rfl, by show Words.wf Config.defaultSettings = true; decide⟩⟩

/-- Every command keeps them, the commands of the reset pin too. -/
theorem Sound.exec {t : State} {c : Instr} (h : Sound s) (ran : exec c s = .next t) : Sound t := by
  rcases exec_cases ran with ⟨straps, -, rfl⟩ | ⟨-, rfl⟩ | ⟨-, rfl⟩ | ⟨-, -, -, rfl⟩
  · exact powerOn_sound _ _
  · exact h.holdInReset
  · exact h
  · exact (h.effect c).finish

/-! ### Between steps -/

/-- A step that ends leaves no cause, and no fatal setting whose entry to STOPPED is still to follow (R180). -/
theorem State.finish_now (s : State) : s.finish.now = { cause := none, stopDue := false } := by
  unfold State.finish State.stopIfDue
  dsimp only
  split <;> simp [State.withCause]

/-- A step that ends judges ATTN (R173). -/
theorem State.finish_attention (s : State) : s.finish.pins.attention = s.finish.attentionLevel := rfl

/-- At power-on nothing calls for attention. -/
theorem powerOn_attention (straps : Straps) (pending : List Instr) :
    (State.powerOn straps pending).pins.attention = (State.powerOn straps pending).attentionLevel := by
  simp [State.powerOn, State.attentionLevel, State.markedUnread, State.unmaskedError]

/-- A command leaves the state between two steps as it finds it: no cause, nothing due, and ATTN at its level. -/
theorem exec_settled {t : State} {c : Instr} (h1 : s.now = { cause := none, stopDue := false })
    (h2 : s.pins.attention = s.attentionLevel) (ran : exec c s = .next t) :
    t.now = { cause := none, stopDue := false } ∧ t.pins.attention = t.attentionLevel := by
  rcases exec_cases ran with ⟨straps, -, rfl⟩ | ⟨-, rfl⟩ | ⟨-, rfl⟩ | ⟨-, -, -, rfl⟩
  · exact ⟨rfl, powerOn_attention _ _⟩
  · exact ⟨h1, h2⟩
  · exact ⟨h1, h2⟩
  · exact ⟨State.finish_now _, State.finish_attention _⟩

/-- A step is its command, or nothing. -/
theorem step_cases {t : State} (h : step s = .next t) :
    t = s ∨ ∃ c rest, s.pending = c :: rest ∧ exec c { s with pending := rest } = .next t := by
  unfold step at h
  split at h
  · cases h
    exact .inl rfl
  next c rest queue => exact .inr ⟨c, rest, queue, h⟩

/-- Settles O7: what holds within a step is kept by every operation, and the end of a step gives the rest. -/
theorem stepKeepsCapacities : Obligations.StepKeepsCapacities := by
  intro s t bounded canonical ran
  rcases step_cases ran with rfl | ⟨c, rest, -, ran⟩
  · exact ⟨bounded, canonical⟩
  have within : Sound { s with pending := rest } := (sound_of_bounded bounded canonical).congr
  obtain ⟨idle, level⟩ := exec_settled (s := { s with pending := rest }) bounded.idle bounded.attention ran
  exact ⟨(within.exec ran).bounded idle level, (within.exec ran).canonical⟩

end Sys2Proof.Machine
end

section
/-!
The agreement of the records within a step, index by index: the relation, what leaves an index alone, and each change of a
context, of the slot map, of the deadline list and of the correction in flight that keeps it.
-/

namespace Sys2Proof.Machine

set_option Elab.async false

variable {s t : State} {loose : Bool} {i j : Nat} {c : Context}

/-! ### Agreement at one index -/

/-- The slot in which a correction is ISSUED. -/
def Correction.slot? : Correction → Option Nat
  | .none => Option.none
  | .ready _ => Option.none
  | .issued _ slot => some slot
  | .sent _ _ => Option.none

theorem Correction.slot?_eq_some {k : Correction} {slot : Nat} :
    k.slot? = some slot ↔ ∃ issued, k = .issued issued slot := by
  cases k <;> simp [Correction.slot?]

/-- What the records of the blocks say of one index agrees. While the slot map is being cleared (R96) it may still name a
context that is READY again: then the agreement is `loose`. -/
structure LinkedAt (loose : Bool) (s : State) (i : Nat) : Prop where
  keys : ∀ c, s.context? i = some c → tagInRange c.key.tag = true
  directory : ∀ n, Table.get? s.table.directory n = some i ↔ ∃ c, s.context? i = some c ∧ c.key.number = n
  mapped : ∀ c slot, s.context? i = some c → c.correction.slot? = some slot → Table.get? s.slotMap slot = some i
  owner : loose = false → ∀ slot, Table.get? s.slotMap slot = some i →
    ∃ c, s.context? i = some c ∧ c.correction.slot? = some slot
  silence : ∀ stage, s.deadlinesFor i (.silence stage) = if (s.context? i).isSome then 1 else 0
  confirm : s.deadlinesFor i .confirm = if (s.context? i).any fun c => c.correction.isSent then 1 else 0
  busy : ∀ c, s.context? i = some c → (c.busy = true ↔ ∃ f, s.flight = some f ∧ f.index = i)
  flight : ∀ f, s.flight = some f → f.index = i → ∃ c, s.context? i = some c ∧ c.key = f.report.key
  full : ∀ f c, s.flight = some f → f.index = i → s.context? i = some c → f.full = true →
    c.correction = .none ∧ c.station ≠ .ending
  quarantine : i ∈ s.table.quarantined → s.context? i = none

/-- What the records say of one index is the same in both states. -/
structure SameAt (s t : State) (i : Nat) : Prop where
  context : t.context? i = s.context? i
  directory : ∀ n, Table.get? t.table.directory n = some i ↔ Table.get? s.table.directory n = some i
  slotMap : ∀ slot, Table.get? t.slotMap slot = some i ↔ Table.get? s.slotMap slot = some i
  deadlines : ∀ kind, t.deadlinesFor i kind = s.deadlinesFor i kind
  flight : ∀ f, f.index = i → (t.flight = some f ↔ s.flight = some f)
  quarantine : i ∈ t.table.quarantined → i ∈ s.table.quarantined

theorem SameAt.refl (s : State) (i : Nat) : SameAt s s i :=
  ⟨rfl, fun _ => .rfl, fun _ => .rfl, fun _ => rfl, fun _ _ => .rfl, id⟩

theorem SameAt.trans {u : State} (h : SameAt s t i) (g : SameAt t u i) : SameAt s u i :=
  ⟨g.context.trans h.context, fun n => (g.directory n).trans (h.directory n),
    fun k => (g.slotMap k).trans (h.slotMap k), fun k => (g.deadlines k).trans (h.deadlines k),
    fun f e => (g.flight f e).trans (h.flight f e), fun q => h.quarantine (g.quarantine q)⟩

theorem LinkedAt.of_same (h : LinkedAt loose s i) (e : SameAt s t i) : LinkedAt loose t i where
  keys := by simpa only [e.context] using h.keys
  directory n := by simpa only [e.context, e.directory] using h.directory n
  mapped := by simpa only [e.context, e.slotMap] using h.mapped
  owner := by simpa only [e.context, e.slotMap] using h.owner
  silence := by simpa only [e.context, e.deadlines] using h.silence
  confirm := by simpa only [e.context, e.deadlines] using h.confirm
  busy c hc := by
    rw [e.context] at hc
    rw [h.busy c hc]
    exact ⟨fun ⟨f, hf, hi⟩ => ⟨f, (e.flight f hi).mpr hf, hi⟩, fun ⟨f, hf, hi⟩ => ⟨f, (e.flight f hi).mp hf, hi⟩⟩
  flight f hf hi := by
    rw [e.context]
    exact h.flight f ((e.flight f hi).mp hf) hi
  full f c hf hi hc := by
    rw [e.context] at hc
    exact h.full f c ((e.flight f hi).mp hf) hi hc
  quarantine q := by
    rw [e.context]
    exact h.quarantine (e.quarantine q)

/-! ### What leaves another index alone -/

theorem SameAt.writeContext (s : State) (c : Context) (h : j ≠ i) : SameAt s (s.writeContext i c) j :=
  ⟨by simp [h], fun _ => .rfl, fun _ => .rfl, fun _ => rfl, fun _ _ => .rfl, id⟩

/-- Entries of another index leave the deadline list as this index sees it. -/
theorem deadlinesFor_filter (l : List Deadline) (p : Deadline → Bool) (kind : DeadlineKind)
    (h : ∀ d ∈ l, d.isFor j kind = true → p d = true) :
    ((l.filter p).filter fun d => d.isFor j kind) = l.filter fun d => d.isFor j kind := by
  rw [List.filter_filter]
  refine List.filter_congr fun d hd => ?_
  by_cases e : d.isFor j kind = true
  · simp [e, h d hd e]
  · simp [e]

theorem Deadline.isFor_iff (d : Deadline) (kind : DeadlineKind) :
    d.isFor i kind = true ↔ d.index = i ∧ d.kind.sameAs kind = true := by
  simp [Deadline.isFor]

theorem DeadlineKind.sameAs_trans {a b k : DeadlineKind} (h : a.sameAs k = true) (g : b.sameAs k = true) :
    a.sameAs b = true := by
  cases a <;> cases b <;> cases k <;> simp_all [DeadlineKind.sameAs]

theorem DeadlineKind.sameAs_symm {a b : DeadlineKind} (h : a.sameAs b = true) : b.sameAs a = true := by
  cases a <;> cases b <;> simp_all [DeadlineKind.sameAs]

@[simp] theorem DeadlineKind.sameAs_self (k : DeadlineKind) : k.sameAs k = true := by
  cases k <;> rfl

/-- Removing an entry leaves every entry of another index or kind. -/
theorem State.deadlinesFor_removeDeadline_other (s : State) {kind kind' : DeadlineKind}
    (h : j ≠ i ∨ kind.sameAs kind' = false) :
    (s.removeDeadline i kind').deadlinesFor j kind = s.deadlinesFor j kind := by
  unfold State.deadlinesFor State.removeDeadline
  dsimp only
  rw [deadlinesFor_filter]
  intro d _ hd
  rw [Deadline.isFor_iff] at hd
  obtain ⟨rfl, hk⟩ := hd
  by_cases e : d.isFor i kind' = true
  · obtain ⟨e1, e2⟩ := (Deadline.isFor_iff d kind').mp e
    rcases h with h | h
    · exact absurd e1 h
    · rw [DeadlineKind.sameAs_trans (DeadlineKind.sameAs_symm hk) (DeadlineKind.sameAs_symm e2)] at h
      cases h
  · simp [e]

@[simp] theorem State.deadlinesFor_removeDeadline (s : State) {kind kind' : DeadlineKind}
    (h : kind.sameAs kind' = true) : (s.removeDeadline i kind').deadlinesFor i kind = 0 := by
  unfold State.deadlinesFor State.removeDeadline
  dsimp only
  rw [List.filter_filter, List.length_eq_zero_iff, List.filter_eq_nil_iff]
  intro d _ both
  simp only [Bool.and_eq_true, Bool.not_eq_true', Deadline.isFor_iff] at both
  obtain ⟨⟨e, k⟩, no⟩ := both
  have : d.isFor i kind' = true :=
    (Deadline.isFor_iff d kind').mpr ⟨e, DeadlineKind.sameAs_trans k (DeadlineKind.sameAs_symm h)⟩
  rw [this] at no
  cases no

theorem State.deadlinesFor_arm_other (s : State) {kind kind' : DeadlineKind} {expiry : Time}
    (h : j ≠ i ∨ kind.sameAs kind' = false) : (s.arm i kind' expiry).deadlinesFor j kind = s.deadlinesFor j kind := by
  rw [← s.deadlinesFor_removeDeadline_other h]
  unfold State.deadlinesFor State.arm
  dsimp only
  rw [List.filter_append, List.length_append, Nat.add_eq_left, List.length_eq_zero_iff]
  suffices Deadline.isFor ⟨i, kind', expiry⟩ j kind = false by simp [this]
  unfold Deadline.isFor
  rcases h with h | h
  · simp [h.symm]
  · have : kind'.sameAs kind = false := by
      rw [Bool.eq_false_iff]
      intro e
      rw [DeadlineKind.sameAs_symm e] at h
      cases h
    simp [this]

theorem State.deadlinesFor_arm (s : State) {kind kind' : DeadlineKind} {expiry : Time}
    (h : kind.sameAs kind' = true) : (s.arm i kind' expiry).deadlinesFor i kind = 1 := by
  have before := s.deadlinesFor_removeDeadline (i := i) h
  unfold State.deadlinesFor State.arm at *
  dsimp only at *
  rw [List.filter_append, List.length_append, before]
  have : Deadline.isFor ⟨i, kind', expiry⟩ i kind = true := by
    simp [Deadline.isFor, DeadlineKind.sameAs_symm h]
  simp [this]

theorem SameAt.removeDeadline (s : State) (kind : DeadlineKind) (h : j ≠ i) : SameAt s (s.removeDeadline i kind) j :=
  ⟨rfl, fun _ => .rfl, fun _ => .rfl, fun _ => s.deadlinesFor_removeDeadline_other (.inl h), fun _ _ => .rfl, id⟩

theorem SameAt.arm (s : State) (kind : DeadlineKind) (expiry : Time) (h : j ≠ i) : SameAt s (s.arm i kind expiry) j :=
  ⟨rfl, fun _ => .rfl, fun _ => .rfl, fun _ => s.deadlinesFor_arm_other (.inl h), fun _ _ => .rfl, id⟩

theorem State.deadlinesFor_removeDeadlines_other (s : State) (kind : DeadlineKind) (h : j ≠ i) :
    (s.removeDeadlines i).deadlinesFor j kind = s.deadlinesFor j kind := by
  unfold State.deadlinesFor State.removeDeadlines
  dsimp only
  rw [deadlinesFor_filter]
  intro d _ hd
  obtain ⟨e, -⟩ := (Deadline.isFor_iff d kind).mp hd
  simpa [e] using h

@[simp] theorem State.deadlinesFor_removeDeadlines (s : State) (kind : DeadlineKind) :
    (s.removeDeadlines i).deadlinesFor i kind = 0 := by
  unfold State.deadlinesFor State.removeDeadlines
  dsimp only
  rw [List.filter_filter, List.length_eq_zero_iff, List.filter_eq_nil_iff]
  intro d _ both
  simp only [Bool.and_eq_true, Deadline.isFor_iff, bne_iff_ne] at both
  exact both.2 both.1.1

theorem SameAt.removeDeadlines (s : State) (h : j ≠ i) : SameAt s (s.removeDeadlines i) j :=
  ⟨rfl, fun _ => .rfl, fun _ => .rfl, fun kind => s.deadlinesFor_removeDeadlines_other kind h, fun _ _ => .rfl, id⟩

/-- A canonical table without the entries of one value keeps every entry of another. -/
theorem Table.get?_drop {t : Table Nat} (wf : Table.wf t = true) (n : Nat) (h : j ≠ i) :
    Table.get? (t.filter fun p => p.2 != i) n = some j ↔ Table.get? t n = some j := by
  rw [Table.get?_filter t _ n wf]
  cases Table.get? t n with
  | none => simp
  | some v =>
    by_cases e : v = i
    · subst e
      simp [h.symm]
    · simp [Option.filter, e]

/-- And has none of that value. -/
theorem Table.get?_dropped {t : Table Nat} (wf : Table.wf t = true) (n : Nat) :
    Table.get? (t.filter fun p => p.2 != i) n ≠ some i := by
  rw [Table.get?_filter t _ n wf]
  simp [Option.filter_eq_some_iff]

theorem SameAt.clearSlotsOf (s : State) (wf : Table.wf s.slotMap = true) (h : j ≠ i) : SameAt s (s.clearSlotsOf i) j :=
  ⟨rfl, fun _ => .rfl, fun slot => Table.get?_drop wf slot h, fun _ => rfl, fun _ _ => .rfl, id⟩

theorem SameAt.eraseSlot (s : State) {slot : Nat} (owner : Table.get? s.slotMap slot = some i) (h : j ≠ i) :
    SameAt s { s with slotMap := Table.erase s.slotMap slot } j := by
  refine ⟨rfl, fun _ => .rfl, fun k => ?_, fun _ => rfl, fun _ _ => .rfl, id⟩
  show Table.get? (Table.erase s.slotMap slot) k = some j ↔ _
  rw [Table.get?_erase]
  split
  next e =>
    subst e
    simp [owner, h.symm]
  · exact .rfl

theorem SameAt.setSlot (s : State) {slot : Nat} (free : ∀ o, Table.get? s.slotMap slot = some o → o = i) (h : j ≠ i) :
    SameAt s { s with slotMap := Table.set s.slotMap slot i } j := by
  refine ⟨rfl, fun _ => .rfl, fun k => ?_, fun _ => rfl, fun _ _ => .rfl, id⟩
  show Table.get? (Table.set s.slotMap slot i) k = some j ↔ _
  rw [Table.get?_set]
  split
  next e =>
    subst e
    constructor
    · simp [h.symm]
    · exact fun g => absurd (free j g) h
  · exact .rfl

theorem SameAt.withFlight (s : State) (x : Option Flight) (now : ∀ f, s.flight = some f → f.index = i)
    (next : ∀ f, x = some f → f.index = i) (h : j ≠ i) : SameAt s { s with flight := x } j := by
  refine ⟨rfl, fun _ => .rfl, fun _ => .rfl, fun _ => rfl, fun f e => ?_, id⟩
  constructor
  · exact fun g => absurd (e.symm.trans (next f g)) h
  · exact fun g => absurd (e.symm.trans (now f g)) h

/-! ### Agreement of the whole part -/

/-- What agreement reads: contexts, directory, quarantine, slot map, deadlines, flight, queue, held writes, part state. -/
def State.links (s : State) :=
  (s.table.contexts, s.table.directory, s.table.quarantined, s.slotMap, s.time.deadlines, s.flight, s.intake.queue,
    s.forwarder.held, s.part)

/-- The records agree, but for held writes whose station has just gone. -/
structure Linked (loose : Bool) (s : State) : Prop where
  at_ : ∀ i, LinkedAt loose s i
  directoryWf : Table.wf s.table.directory = true
  slotMapWf : Table.wf s.slotMap = true
  reports : ∀ e ∈ s.intake.queue, tagInRange e.tag = true
  held : ∀ h ∈ s.forwarder.held, ∀ f, s.flight = some f → h.key = f.report.key
  outside : s.part ≠ .running → s.flight = none
  setup : s.part = .setup → s.table.contexts = []

theorem Linked.congr (h : Linked loose s) (e : t.links = s.links) : Linked loose t := by
  simp only [State.links, Prod.mk.injEq] at e
  obtain ⟨e1, e2, e3, e4, e5, e6, e7, e8, e9⟩ := e
  refine ⟨fun i => (h.at_ i).of_same ⟨?_, ?_, ?_, ?_, ?_, ?_⟩, ?_, ?_, ?_, ?_, ?_, ?_⟩
  · simp only [State.context?, e1]
  · simp only [e2, implies_true]
  · simp only [e4, implies_true]
  · simp only [State.deadlinesFor, e5, implies_true]
  · simp only [e6, implies_true]
  · simp only [e3, imp_self]
  · rw [e2]; exact h.directoryWf
  · rw [e4]; exact h.slotMapWf
  · rw [e7]; exact h.reports
  · rw [e8, e6]; exact h.held
  · rw [e9, e6]; exact h.outside
  · rw [e9, e1]; exact h.setup

/-- A part with a context is not in SETUP. -/
theorem Linked.not_setup (h : Linked loose s) (hc : s.context? i = some c) : s.part ≠ .setup := by
  intro e
  rw [State.context?, h.setup e] at hc
  cases hc

/-- A change about one index alone. -/
theorem Linked.change (h : Linked loose s) (i : Nat) (others : ∀ j, j ≠ i → SameAt s t j) (here : LinkedAt loose t i)
    (directoryWf : Table.wf t.table.directory = true) (slotMapWf : Table.wf t.slotMap = true)
    (queue : t.intake.queue = s.intake.queue)
    (held : ∀ h ∈ t.forwarder.held, ∀ f, t.flight = some f → h.key = f.report.key)
    (outside : t.part ≠ .running → t.flight = none) (setup : t.part ≠ .setup) : Linked loose t where
  at_ j := if e : j = i then e ▸ here else (h.at_ j).of_same (others j e)
  directoryWf := directoryWf
  slotMapWf := slotMapWf
  reports := by rw [queue]; exact h.reports
  held := held
  outside := outside
  setup e := absurd e setup

/-- A change of what is written about one occupied index, with nothing said of the correction in flight. -/
theorem Linked.changeAt (h : Linked loose s) (hc : s.context? i = some c) (others : ∀ j, j ≠ i → SameAt s t j)
    (here : LinkedAt loose t i) (slotMapWf : Table.wf t.slotMap = true)
    (directory : t.table.directory = s.table.directory := by simp)
    (queue : t.intake.queue = s.intake.queue := by simp) (part : t.part = s.part := by simp)
    (held : t.forwarder.held = s.forwarder.held := by simp) (flight : t.flight = s.flight := by simp) : Linked loose t :=
  h.change i others here (directory ▸ h.directoryWf) slotMapWf queue (by rw [held, flight]; exact h.held)
    (by rw [part, flight]; exact h.outside) (by rw [part]; exact h.not_setup hc)

/-! ### Agreement at an occupied index -/

/-- What the records say of an index that this context occupies. -/
structure OccupiedAt (loose : Bool) (s : State) (i : Nat) (c : Context) : Prop where
  keys : tagInRange c.key.tag = true
  directory : ∀ n, Table.get? s.table.directory n = some i ↔ c.key.number = n
  mapped : ∀ slot, c.correction.slot? = some slot → Table.get? s.slotMap slot = some i
  owner : loose = false → ∀ slot, Table.get? s.slotMap slot = some i → c.correction.slot? = some slot
  silence : ∀ stage, s.deadlinesFor i (.silence stage) = 1
  confirm : s.deadlinesFor i .confirm = if c.correction.isSent then 1 else 0
  busy : c.busy = true ↔ ∃ f, s.flight = some f ∧ f.index = i
  flight : ∀ f, s.flight = some f → f.index = i → c.key = f.report.key
  full : ∀ f, s.flight = some f → f.index = i → f.full = true → c.correction = .none ∧ c.station ≠ .ending
  quarantine : i ∉ s.table.quarantined

theorem LinkedAt.occupied (h : LinkedAt loose s i) (hc : s.context? i = some c) : OccupiedAt loose s i c where
  keys := h.keys c hc
  directory n := by simpa [hc] using h.directory n
  mapped slot := h.mapped c slot hc
  owner l slot g := by simpa [hc] using h.owner l slot g
  silence := by simpa [hc] using h.silence
  confirm := by simpa [hc] using h.confirm
  busy := h.busy c hc
  flight f g e := by simpa [hc] using h.flight f g e
  full f g e := h.full f c g e hc
  quarantine q := by simp [h.quarantine q] at hc

theorem OccupiedAt.linked (h : OccupiedAt loose s i c) (hc : s.context? i = some c) : LinkedAt loose s i where
  keys d hd := by cases hc.symm.trans hd; exact h.keys
  directory n := by simpa [hc] using h.directory n
  mapped d slot hd := by cases hc.symm.trans hd; exact h.mapped slot
  owner l slot g := ⟨c, hc, h.owner l slot g⟩
  silence := by simpa [hc] using h.silence
  confirm := by simpa [hc] using h.confirm
  busy d hd := by cases hc.symm.trans hd; exact h.busy
  flight f g e := ⟨c, hc, h.flight f g e⟩
  full f d g e hd := by cases hc.symm.trans hd; exact h.full f g e
  quarantine q := absurd q h.quarantine

theorem Linked.occupied (h : Linked loose s) (hc : s.context? i = some c) : OccupiedAt loose s i c := (h.at_ i).occupied hc

/-- What the records say of a vacant index. -/
structure VacantAt (loose : Bool) (s : State) (i : Nat) : Prop where
  directory : ∀ n, Table.get? s.table.directory n ≠ some i
  owner : loose = false → ∀ slot, Table.get? s.slotMap slot ≠ some i
  silence : ∀ stage, s.deadlinesFor i (.silence stage) = 0
  confirm : s.deadlinesFor i .confirm = 0
  flight : ∀ f, s.flight = some f → f.index ≠ i

theorem LinkedAt.vacant (h : LinkedAt loose s i) (hc : s.context? i = none) : VacantAt loose s i where
  directory n g := by simpa [hc] using (h.directory n).mp g
  owner l slot g := by simpa [hc] using h.owner l slot g
  silence := by simpa [hc] using h.silence
  confirm := by simpa [hc] using h.confirm
  flight f g e := by simpa [hc] using h.flight f g e

theorem VacantAt.linked (h : VacantAt loose s i) (hc : s.context? i = none) : LinkedAt loose s i where
  keys d hd := by cases hc.symm.trans hd
  directory n := by simpa [hc] using h.directory n
  mapped d slot hd := by cases hc.symm.trans hd
  owner l slot g := absurd g (h.owner l slot)
  silence := by simpa [hc] using h.silence
  confirm := by simpa [hc] using h.confirm
  busy d hd := by cases hc.symm.trans hd
  flight f g e := absurd e (h.flight f g)
  full f d g e hd := by cases hc.symm.trans hd
  quarantine _ := hc

/-! ### Changes of an occupied context -/

@[simp] theorem State.writeContext_deadlinesFor (s : State) (i j : Nat) (c : Context) (kind : DeadlineKind) :
    (s.writeContext i c).deadlinesFor j kind = s.deadlinesFor j kind := rfl

theorem State.writeContext_self (s : State) (i : Nat) (c : Context) :
    (s.writeContext i c).context? i = some { c with intact := true } := by simp

/-- A record rewritten with its key, its busy mark and the slot and delivery of its correction. -/
theorem Linked.rewrite (h : Linked loose s) (hc : s.context? i = some c) {c' : Context} (key : c'.key = c.key)
    (busy : c'.busy = c.busy) (sent : c'.correction.isSent = c.correction.isSent)
    (slot : c'.correction.slot? = c.correction.slot? ∨ loose = true ∧ c'.correction.slot? = none)
    (full : ∀ f, s.flight = some f → f.index = i → f.full = true → c'.correction = .none ∧ c'.station ≠ .ending) :
    Linked loose (s.writeContext i c') := by
  have a := h.occupied hc
  refine h.changeAt hc (fun j e => SameAt.writeContext s c' e) (OccupiedAt.linked ?_ (s.writeContext_self i c')) h.slotMapWf
  refine ⟨by simpa [key] using a.keys, by simpa [key] using a.directory, ?_, ?_, by simpa using a.silence,
    by simpa [sent] using a.confirm, by simpa [busy] using a.busy, by simpa [key] using a.flight, full, a.quarantine⟩
  · intro k e
    rcases slot with slot | ⟨-, slot⟩
    · exact a.mapped k (slot ▸ e)
    · rw [slot] at e
      cases e
  · intro strict k e
    rcases slot with slot | ⟨l, -⟩
    · exact slot ▸ a.owner strict k e
    · rw [strict] at l
      cases l

/-- A record rewritten with nothing changed that the other blocks keep account of. -/
theorem Linked.touch (h : Linked loose s) (hc : s.context? i = some c) {c' : Context} (key : c'.key = c.key := by rfl)
    (busy : c'.busy = c.busy := by rfl) (correction : c'.correction = c.correction := by rfl)
    (station : c'.station = .ending → c.station = .ending) : Linked loose (s.writeContext i c') :=
  h.rewrite hc key busy (by rw [correction]) (.inl (by rw [correction])) fun f hf e full => by
    obtain ⟨h1, h2⟩ := (h.occupied hc).full f hf e full
    exact ⟨correction.trans h1, fun e => h2 (station e)⟩

/-- A re-armed SILENCE deadline of an occupied context. -/
theorem Linked.armSilence (h : Linked loose s) (hc : s.context? i = some c) (stage : Stage) (expiry : Time) :
    Linked loose (s.arm i (.silence stage) expiry) := by
  have a := h.occupied hc
  refine h.changeAt hc (fun j e => SameAt.arm s _ _ e) (OccupiedAt.linked ?_ hc) h.slotMapWf
  refine ⟨a.keys, a.directory, a.mapped, a.owner, fun _ => s.deadlinesFor_arm rfl, ?_, a.busy, a.flight, a.full,
    a.quarantine⟩
  rw [s.deadlinesFor_arm_other (.inr rfl)]
  exact a.confirm

/-- A correction SENT no more, and its deadline with it: it is confirmed or withdrawn. -/
theorem Linked.unsend (h : Linked loose s) (hc : s.context? i = some c) {issued : Issued} {delivered : Time}
    (was : c.correction = .sent issued delivered) {c' : Context} (key : c'.key = c.key := by rfl)
    (busy : c'.busy = c.busy := by rfl) (correction : c'.correction = .none := by rfl) :
    Linked loose ((s.removeDeadline i .confirm).writeContext i c') := by
  have a := h.occupied hc
  refine h.changeAt hc (fun j e => (SameAt.removeDeadline s _ e).trans (SameAt.writeContext _ c' e))
    (OccupiedAt.linked ?_ (State.writeContext_self _ i c')) h.slotMapWf
  refine ⟨by simpa [key] using a.keys, by simpa [key] using a.directory, ?_, ?_, ?_, ?_, by simpa [busy] using a.busy,
    by simpa [key] using a.flight, ?_, a.quarantine⟩
  · simp [correction, Correction.slot?]
  · intro strict k e
    have := a.owner strict k e
    simp [was, Correction.slot?] at this
  · intro stage
    rw [State.writeContext_deadlinesFor, s.deadlinesFor_removeDeadline_other (.inr rfl)]
    exact a.silence stage
  · simp [correction, Correction.isSent]
  · intro f hf e full
    have := (a.full f hf e full).1
    rw [was] at this
    cases this

/-- A restarted context: no correction, no slot, no CONFIRM deadline. -/
theorem Linked.restarted (h : Linked loose s) (hc : s.context? i = some c) {c' : Context} (key : c'.key = c.key := by rfl)
    (busy : c'.busy = c.busy := by rfl) (correction : c'.correction = .none := by rfl)
    (station : c'.station ≠ .ending) :
    Linked loose (((s.clearSlotsOf i).removeDeadline i .confirm).writeContext i c') := by
  have a := h.occupied hc
  refine h.changeAt hc (fun j e => ((SameAt.clearSlotsOf s h.slotMapWf e).trans (SameAt.removeDeadline _ _ e)).trans
    (SameAt.writeContext _ c' e)) (OccupiedAt.linked ?_ (State.writeContext_self _ i c'))
    (Table.wf_filter _ _ h.slotMapWf)
  refine ⟨by simpa [key] using a.keys, by simpa [key] using a.directory, ?_, ?_, ?_, ?_, by simpa [busy] using a.busy,
    by simpa [key] using a.flight, fun _ _ _ _ => ⟨correction, station⟩, a.quarantine⟩
  · simp [correction, Correction.slot?]
  · exact fun _ k e => absurd e (Table.get?_dropped h.slotMapWf k)
  · intro stage
    rw [State.writeContext_deadlinesFor, State.deadlinesFor_removeDeadline_other _ (.inr rfl)]
    exact a.silence stage
  · simp [correction, Correction.isSent]

/-- Delivery: an ISSUED correction is SENT, its slot names nothing, and CONFIRM is armed. -/
theorem Linked.deliver (h : Linked false s) (hc : s.context? i = some c) {slot : Nat}
    (owner : Table.get? s.slotMap slot = some i) {issued : Issued} {k : Nat} (was : c.correction = .issued issued k)
    (now expiry : Time) :
    Linked false (State.arm { s.writeContext i { c with correction := .sent issued now } with
      slotMap := Table.erase s.slotMap slot } i .confirm expiry) := by
  have a := h.occupied hc
  have same : k = slot := by
    have := a.owner rfl slot owner
    simpa [was, Correction.slot?] using this
  refine h.changeAt hc (fun j e => ((SameAt.writeContext s _ e).trans
      (SameAt.eraseSlot (s.writeContext i { c with correction := .sent issued now }) owner e)).trans (SameAt.arm _ _ _ e))
    (OccupiedAt.linked ?_ (s.writeContext_self i { c with correction := .sent issued now }))
    (Table.wf_erase _ _ h.slotMapWf)
  refine ⟨a.keys, a.directory, ?_, ?_, ?_, ?_, a.busy, a.flight, ?_, a.quarantine⟩
  · simp [Correction.slot?]
  · intro _ m e
    have e : Table.get? (Table.erase s.slotMap slot) m = some i := e
    rw [Table.get?_erase] at e
    split at e
    · cases e
    next ne =>
      have := a.owner rfl m e
      simp only [was, Correction.slot?, Option.some.injEq] at this
      exact absurd (this.symm.trans same) ne
  · intro stage
    rw [State.deadlinesFor_arm_other _ (.inr rfl)]
    exact a.silence stage
  · rw [State.deadlinesFor_arm _ rfl]
    rfl
  · intro f hf e full
    have := (a.full f hf e full).1
    rw [was] at this
    cases this

/-! ### Slots -/

/-- The slot map without the entry of a slot, when its context is not ISSUED there. -/
theorem Linked.eraseSlot (h : Linked loose s) {slot : Nat} (owner : Table.get? s.slotMap slot = some i)
    (free : ∀ c, s.context? i = some c → c.correction.slot? ≠ some slot) :
    Linked loose { s with slotMap := Table.erase s.slotMap slot } := by
  have kept : ∀ m, Table.get? (Table.erase s.slotMap slot) m = some i → Table.get? s.slotMap m = some i := by
    intro m e
    rw [Table.get?_erase] at e
    split at e
    · cases e
    · exact e
  have other : ∀ j, j ≠ i → SameAt s { s with slotMap := Table.erase s.slotMap slot } j :=
    fun j e => SameAt.eraseSlot s owner e
  have here : LinkedAt loose { s with slotMap := Table.erase s.slotMap slot } i := by
    have a := h.at_ i
    refine ⟨a.keys, a.directory, ?_, fun l m e => a.owner l m (kept m e), a.silence, a.confirm, a.busy, a.flight, a.full,
      a.quarantine⟩
    intro c m hc e
    show Table.get? (Table.erase s.slotMap slot) m = some i
    rw [Table.get?_erase, if_neg]
    · exact a.mapped c m hc e
    · rintro rfl
      exact free c hc e
  refine ⟨fun j => ?_, h.directoryWf, Table.wf_erase _ _ h.slotMapWf, h.reports, h.held, h.outside, h.setup⟩
  by_cases e : j = i
  · exact e ▸ here
  · exact (h.at_ j).of_same (other j e)

/-- An ISSUED context READY again, and the slot that names it cleared. -/
theorem Linked.unissue (h : Linked loose s) (hc : s.context? i = some c) {slot : Nat}
    (owner : Table.get? s.slotMap slot = some i) {issued : Issued} {k : Nat} (was : c.correction = .issued issued k) :
    Linked loose (State.writeContext { s with slotMap := Table.erase s.slotMap slot } i
      { c with correction := .ready issued }) := by
  have a := h.occupied hc
  refine h.changeAt hc (fun j e => (SameAt.eraseSlot s owner e).trans (SameAt.writeContext _ _ e))
    (OccupiedAt.linked ?_ (State.writeContext_self _ i { c with correction := .ready issued }))
    (Table.wf_erase _ _ h.slotMapWf)
  refine ⟨a.keys, a.directory, ?_, ?_, a.silence, ?_, a.busy, a.flight, ?_, a.quarantine⟩
  · simp [Correction.slot?]
  · intro strict m e
    have e : Table.get? (Table.erase s.slotMap slot) m = some i := e
    rw [Table.get?_erase] at e
    split at e
    · cases e
    next ne =>
      have h1 := a.owner strict m e
      have h2 := a.owner strict slot owner
      exact absurd (Option.some.inj (h1.symm.trans h2)) ne
  · exact a.confirm.trans (by simp [was, Correction.isSent])
  · intro f hf e full
    have := (a.full f hf e full).1
    rw [was] at this
    cases this

theorem Linked.unmapSlot (h : Linked loose s) (slot : Nat) : Linked loose (s.unmapSlot slot) := by
  unfold State.unmapSlot
  split
  · exact h
  next owner mapped =>
    dsimp only
    have erased := h.eraseSlot mapped
    split
    next none_ =>
      refine erased fun c hc => ?_
      cases hc.symm.trans none_
    next c hc =>
      replace hc : s.context? owner = some c := hc
      have free : c.correction.slot? ≠ some slot →
          Linked loose { s with slotMap := Table.erase s.slotMap slot } := fun e => erased fun d hd => by
        cases hc.symm.trans hd
        exact e
      split
      next e => exact free (by simp [e, Correction.slot?])
      next e => exact free (by simp [e, Correction.slot?])
      next e => exact h.unissue hc mapped e
      next e => exact free (by simp [e, Correction.slot?])

/-- A READY context ISSUED in a slot that names nothing but it. -/
theorem Linked.issue (h : Linked loose s) (hc : s.context? i = some c) {slot : Nat}
    (free : ∀ o, Table.get? s.slotMap slot = some o → o = i) {issued : Issued} (was : c.correction = .ready issued) :
    Linked loose { s.writeContext i { c with correction := .issued issued slot } with
      slotMap := Table.set s.slotMap slot i } := by
  have a := h.occupied hc
  refine h.changeAt hc (fun j e => (SameAt.writeContext s _ e).trans
      (SameAt.setSlot (s.writeContext i { c with correction := .issued issued slot }) free e))
    (OccupiedAt.linked ?_ (s.writeContext_self i { c with correction := .issued issued slot }))
    (Table.wf_set _ _ _ h.slotMapWf)
  have set : ∀ m, Table.get? (Table.set s.slotMap slot i) m = if m = slot then some i else Table.get? s.slotMap m :=
    fun m => Table.get?_set _ _ _ _
  refine ⟨a.keys, a.directory, ?_, ?_, a.silence, ?_, a.busy, a.flight, ?_, a.quarantine⟩
  · intro m e
    cases e
    simp
  · intro strict m e
    have e : Table.get? (Table.set s.slotMap slot i) m = some i := e
    rw [set] at e
    split at e
    next same => simp [Correction.slot?, same]
    · have := a.owner strict m e
      simp [was, Correction.slot?] at this
  · exact a.confirm.trans (by simp [was, Correction.isSent])
  · intro f hf e full
    have := (a.full f hf e full).1
    rw [was] at this
    cases this

/-! ### The correction in flight -/

/-- The correction in flight ends, and busy clears. -/
theorem Linked.complete (h : Linked loose s) {f : Flight} (hf : s.flight = some f) (hc : s.context? f.index = some c)
    {c' : Context} (key : c'.key = c.key := by rfl) (busy : c'.busy = false := by rfl)
    (sent : c'.correction.isSent = c.correction.isSent) (slot : c'.correction.slot? = c.correction.slot?) :
    Linked loose { s.writeContext f.index c' with flight := none } := by
  have a := h.occupied hc
  have one : ∀ g, s.flight = some g → g.index = f.index := by
    intro g hg
    cases hf.symm.trans hg
    rfl
  refine h.change f.index (fun j e => (SameAt.writeContext s c' e).trans
    (SameAt.withFlight (s.writeContext f.index c') none one (by simp) e))
    (OccupiedAt.linked ?_ (s.writeContext_self f.index c')) h.directoryWf h.slotMapWf rfl (by simp)
    (fun _ => rfl) (h.not_setup hc)
  exact ⟨by simpa [key] using a.keys, by simpa [key] using a.directory, by simpa [slot] using a.mapped,
    by simpa [slot] using a.owner, a.silence, a.confirm.trans (by simp [sent]), by simp [busy], by simp, by simp,
    a.quarantine⟩

theorem Linked.endFlight (h : Linked loose s) : Linked loose s.endFlight := by
  unfold State.endFlight
  split
  · exact h
  next f hf =>
    split
    next none_ =>
      obtain ⟨c, hc, -⟩ := (h.at_ f.index).flight f hf rfl
      cases hc.symm.trans none_
    next c hc => exact h.complete hf hc (c' := { c with busy := false }) rfl rfl rfl rfl

theorem Linked.abandonFor (h : Linked loose s) (index : Nat) : Linked loose (s.abandonFor index) := by
  unfold State.abandonFor
  split
  · exact h
  · split
    · exact h.endFlight
    · exact h

/-- A report bound to a context: the corrector is busy with it. -/
theorem Linked.bind (h : Linked loose s) {f : Flight} (idle : s.flight = none) (empty : s.forwarder.held = [])
    (running : s.part = .running) (hc : s.context? f.index = some c) (station : c.key = f.report.key)
    (noted : f.full = false) {c' : Context} (key : c'.key = c.key := by rfl) (busy : c'.busy = true := by rfl)
    (correction : c'.correction = c.correction := by rfl) :
    Linked loose (State.writeContext { s with flight := some f } f.index c') := by
  have a := h.occupied hc
  refine h.change f.index (fun j e => (SameAt.withFlight s (some f) (by simp [idle]) (by simp +contextual) e).trans
    (SameAt.writeContext _ c' e)) (OccupiedAt.linked ?_ (State.writeContext_self _ f.index c')) h.directoryWf h.slotMapWf rfl
    (by simp [empty]) (fun e => absurd running e) (h.not_setup hc)
  exact ⟨by simpa [key] using a.keys, by simpa [key] using a.directory, by simpa [correction] using a.mapped,
    by simpa [correction] using a.owner, a.silence, a.confirm.trans (by simp [correction]), by simp [busy],
    by simp [key, station], by simp [noted], a.quarantine⟩

/-- A correction in flight is to be full, when its context holds none and is not ENDING. -/
theorem Linked.markFull (h : Linked loose s)
    (free : ∀ f c, s.flight = some f → s.context? f.index = some c → c.correction = .none ∧ c.station ≠ .ending) :
    Linked loose s.markFull := by
  refine ⟨fun i => ?_, h.directoryWf, h.slotMapWf, h.reports, ?_, ?_, h.setup⟩
  · have a := h.at_ i
    refine ⟨a.keys, a.directory, a.mapped, a.owner, a.silence, a.confirm, ?_, ?_, ?_, a.quarantine⟩
    · intro c hc
      simpa [State.markFull] using a.busy c hc
    · intro f hf
      simp only [State.markFull, Option.map_eq_some_iff] at hf
      obtain ⟨g, hg, rfl⟩ := hf
      exact a.flight g hg
    · intro f c hf e hc _
      simp only [State.markFull, Option.map_eq_some_iff] at hf
      obtain ⟨g, hg, rfl⟩ := hf
      exact free g c hg (e ▸ hc)
  · intro x hx f hf
    simp only [State.markFull, Option.map_eq_some_iff] at hf
    obtain ⟨g, hg, rfl⟩ := hf
    exact h.held x hx g hg
  · intro e
    simp [State.markFull, h.outside e]

/-! ### Contexts given and taken away -/

/-- What abandoning leaves in flight is of another context. -/
theorem State.abandonFor_away (s : State) (i : Nat) (f : Flight) (hf : (s.abandonFor i).flight = some f) : f.index ≠ i := by
  rw [s.abandonFor_flight, Option.filter_eq_some_iff] at hf
  simpa using hf.2

/-- The record, the slots, the deadlines and the directory entry of a context that is not in flight go. -/
theorem Linked.remove (h : Linked loose s) (away : ∀ f, s.flight = some f → f.index ≠ i) (up : s.part ≠ .setup)
    (quarantined : List Nat) (more : ∀ j, j ≠ i → j ∈ quarantined → j ∈ s.table.quarantined) :
    Linked loose
      (let u := (s.clearSlotsOf i).removeDeadlines i
       { u with table := { u.table with
          directory := u.table.directory.filter fun p => p.2 != i
          contexts := Table.erase u.table.contexts i
          quarantined := quarantined } }) := by
  have gone : Table.get? (Table.erase s.table.contexts i) i = none := by simp [Table.get?_erase]
  have kept : ∀ j, j ≠ i → Table.get? (Table.erase s.table.contexts i) j = s.context? j := by
    intro j e
    simp [Table.get?_erase, e, State.context?]
  refine h.change i (fun j e => ?_) (VacantAt.linked ?_ gone) (Table.wf_filter _ _ h.directoryWf)
    (Table.wf_filter _ _ h.slotMapWf) rfl h.held h.outside up
  · have rest := (SameAt.clearSlotsOf s h.slotMapWf e).trans (SameAt.removeDeadlines (s.clearSlotsOf i) e)
    exact ⟨kept j e, fun n => Table.get?_drop h.directoryWf n e, rest.slotMap, rest.deadlines, rest.flight, more j e⟩
  · exact ⟨fun n => Table.get?_dropped h.directoryWf n, fun _ m => Table.get?_dropped h.slotMapWf m,
      fun _ => State.deadlinesFor_removeDeadlines _ _, State.deadlinesFor_removeDeadlines _ _, away⟩

theorem Linked.vacate (h : Linked loose s) (hc : s.context? i = some c) (reason : ReleaseReason) :
    Linked loose (s.vacate i reason) := by
  refine (h.abandonFor i).remove (s.abandonFor_away i) (by simpa using h.not_setup hc) _ fun j e m => ?_
  have m : j ∈ if reason = .integrity then (s.abandonFor i).table.quarantined ++ [i]
    else (s.abandonFor i).table.quarantined := m
  split at m
  · simpa [e] using m
  · exact m

/-- A new station's context, for a key of no other. -/
theorem Linked.occupied_by (h : Linked loose s) (vacant : s.context? i = none) (healthy : i ∉ s.table.quarantined)
    (running : s.part = .running) {c : Context} (tag : tagInRange c.key.tag = true)
    (unknown : Table.get? s.table.directory c.key.number = none) (stage : Stage) (expiry : Time)
    (correction : c.correction = .none := by rfl) (busy : c.busy = false := by rfl) :
    Linked loose ((State.writeContext
      { s with table := { s.table with directory := Table.set s.table.directory c.key.number i } } i c).arm i
        (.silence stage) expiry) := by
  have a := (h.at_ i).vacant vacant
  have set : ∀ n, Table.get? (Table.set s.table.directory c.key.number i) n =
      if n = c.key.number then some i else Table.get? s.table.directory n := fun n => Table.get?_set _ _ _ _
  refine h.change i (fun j e => ?_) (OccupiedAt.linked (c := { c with intact := true }) ?_ (State.writeContext_self _ i c))
    (Table.wf_set _ _ _ h.directoryWf) h.slotMapWf rfl h.held h.outside (by simp [running])
  · have moved : SameAt s { s with table := { s.table with directory := Table.set s.table.directory c.key.number i } } j := by
      refine ⟨rfl, fun n => ?_, fun _ => .rfl, fun _ => rfl, fun _ _ => .rfl, id⟩
      rw [set]
      split
      next same => simp [same, unknown, e.symm]
      · exact .rfl
    exact (moved.trans (SameAt.writeContext _ c e)).trans (SameAt.arm _ _ _ e)
  · refine ⟨tag, fun n => ?_, by simp [correction, Correction.slot?], ?_, fun _ => State.deadlinesFor_arm _ rfl, ?_, ?_,
      fun f hf e => absurd e (a.flight f hf), fun f hf e => absurd e (a.flight f hf), healthy⟩
    · show Table.get? (Table.set s.table.directory c.key.number i) n = some i ↔ _
      rw [set]
      split
      next same => simp [same]
      next other => simpa [Ne.symm other] using a.directory n
    · exact fun strict m e => absurd e (a.owner strict m)
    · rw [State.deadlinesFor_arm_other _ (.inr rfl)]
      exact a.confirm.trans (by simp [correction, Correction.isSent])
    · simp only [busy, Bool.false_eq_true, false_iff, not_exists, not_and]
      exact a.flight

/-- The index given out is vacant and not quarantined (R12, R28). -/
theorem State.lowestFree_vacant (free : s.lowestFree = some i) : s.context? i = none ∧ i ∉ s.table.quarantined := by
  have := List.find?_some free
  simpa using this

/-! ### Keys -/

/-- Two stations with tags in range and one place in the directory are one (R2, R32). -/
theorem Key.eq_of_number {k l : Key} (hk : tagInRange k.tag = true) (hl : tagInRange l.tag = true)
    (e : k.number = l.number) : k = l := by
  obtain ⟨x, n⟩ := k
  obtain ⟨y, m⟩ := l
  simp only [tagInRange, Bool.and_eq_true, decide_eq_true_eq, Key.number] at *
  simp only [Key.mk.injEq]
  omega

/-- The directory finds the context of a key. -/
theorem Linked.found (h : Linked loose s) {key : Key} (range : tagInRange key.tag = true)
    (e : Table.get? s.table.directory key.number = some i) : ∃ c, s.context? i = some c ∧ c.key = key := by
  obtain ⟨c, hc, n⟩ := ((h.at_ i).directory key.number).mp e
  exact ⟨c, hc, Key.eq_of_number ((h.at_ i).keys c hc) range n⟩

end Sys2Proof.Machine
end

section
/-!
The agreement of the records within a step, operation by operation; what a step that takes stations away leaves away; and
held writes once their station's correction has ended.
-/

namespace Sys2Proof.Machine

set_option Elab.async false

variable {s t u : State} {loose : Bool} {i j : Nat} {c : Context}

/-! ### Operations that the agreement does not read -/

@[simp] theorem State.handOn_links (s : State) (f : EventFields) (time : Time) : (s.handOn f time).links = s.links := by
  simp [State.links]

@[simp] theorem State.setError_links (s : State) (k : ErrorKind) (time : Time) : (s.setError k time).links = s.links := by
  simp [State.links]

@[simp] theorem State.issueStatus_links (s : State) (word : Nat) : (s.issueStatus word).links = s.links := rfl

@[simp] theorem State.issueCounts_links (s : State) (channel : Nat) (free : Bool) :
    (s.issueCounts channel free).links = s.links := by simp [State.links]

@[simp] theorem State.commandAnswer_links (s : State) (q : BitVec 16) (code flags : Nat) (r : CommandResult) :
    (s.commandAnswer q code flags r).links = s.links := rfl

@[simp] theorem State.applyAnswer_links (s : State) (q : BitVec 16) (r : ApplyResult) :
    (s.applyAnswer q r).links = s.links := rfl

@[simp] theorem State.beginForward_links (s : State) : s.beginForward.links = s.links := by simp [State.links]

@[simp] theorem State.forwardAs_links (s : State) (serial : Nat) (r : Request) : (s.forwardAs serial r).links = s.links := rfl

@[simp] theorem State.withCause_links (s : State) (cause : Option Nat) : (s.withCause cause).links = s.links := rfl

@[simp] theorem State.leaving_links (s : State) (o : Origin) : (s.leaving o).links = s.links := by simp [State.links]

/-! ### What stays away -/

theorem Table.get?_filter_none {α : Type} {t : Table α} {n : Nat} (h : Table.get? t n = none) (p : Nat × α → Bool) :
    Table.get? (t.filter p) n = none := by
  induction t with
  | nil => rfl
  | cons q t ih =>
    obtain ⟨k, v⟩ := q
    simp only [Table.get?] at h
    split at h
    · cases h
    next ne =>
      rw [List.filter_cons]
      split
      · simp [Table.get?, ne, ih h]
      · exact ih h

/-- Between these states stations may have gone, and none has come: no correction comes in flight, and an unknown key stays
unknown. -/
structure Shrinks (s t : State) : Prop where
  flight : ∀ f, t.flight = some f → s.flight = some f
  unknown : ∀ n, Table.get? s.table.directory n = none → Table.get? t.table.directory n = none

theorem Shrinks.refl (s : State) : Shrinks s s := ⟨fun _ => id, fun _ => id⟩

theorem Shrinks.trans (h : Shrinks s t) (g : Shrinks t u) : Shrinks s u :=
  ⟨fun f => h.flight f ∘ g.flight f, fun n => g.unknown n ∘ h.unknown n⟩

/-- An idle corrector stays idle. -/
theorem Shrinks.idle (h : Shrinks s t) (e : s.flight = none) : t.flight = none := by
  cases hf : t.flight with
  | none => rfl
  | some f => exact absurd (h.flight f hf) (by simp [e])

theorem Shrinks.of_eq (h1 : t.flight = s.flight := by simp) (h2 : t.table.directory = s.table.directory := by simp) :
    Shrinks s t := ⟨by rw [h1]; exact fun _ => id, by rw [h2]; exact fun _ => id⟩

theorem Shrinks.foldl {α : Type} {f : State → α → State} (h : ∀ s b, Shrinks s (f s b)) (l : List α) (s : State) :
    Shrinks s (l.foldl f s) :=
  foldl_keeps (P := Shrinks s) l (fun u b _ hu => hu.trans (h u b)) (Shrinks.refl s)

theorem Shrinks.vacate (s : State) (i : Nat) (reason : ReleaseReason) : Shrinks s (s.vacate i reason) := by
  have gone := s.vacate_released i reason
  refine ⟨fun f e => ?_, fun n e => by rw [gone.directory]; exact Table.get?_filter_none e _⟩
  rw [gone.flight, Option.filter_eq_some_iff] at e
  exact e.1

theorem Shrinks.release (s : State) (i : Nat) (reason : ReleaseReason) (time : Time) (stage : Nat) :
    Shrinks s (s.release i reason time stage) := by
  unfold State.release
  split
  · exact Shrinks.refl s
  · refine (Shrinks.vacate s i reason).trans ?_
    exact Shrinks.of_eq

theorem Shrinks.integrityRelease (s : State) (i : Nat) (time : Time) : Shrinks s (s.integrityRelease i time) := by
  refine (Shrinks.release s i .integrity time 0).trans ?_
  unfold State.integrityRelease
  exact Shrinks.of_eq

theorem Shrinks.lookup (s : State) (key : Key) (time : Time) : Shrinks s (s.lookup key time).1 := by
  unfold State.lookup
  split
  · exact Shrinks.refl s
  · split
    · exact Shrinks.refl s
    · split
      · exact Shrinks.refl s
      · exact Shrinks.integrityRelease _ _ _

theorem Shrinks.fillHeldWrite (s : State) (h : HeldWrite) : Shrinks s (s.fillHeldWrite h) := by
  have begun : Shrinks s s.beginForward := Shrinks.of_eq
  unfold State.fillHeldWrite
  dsimp only
  split
  · exact begun.trans Shrinks.of_eq
  next slot _ =>
    have looked := Shrinks.lookup s.beginForward h.key s.beginForward.time.counter
    refine begun.trans (looked.trans ?_)
    exact Shrinks.of_eq

theorem Shrinks.releaseHeld (s : State) : Shrinks s s.releaseHeld :=
  (Shrinks.of_eq (s := s) (t := { s with forwarder := { s.forwarder with held := [] } }) rfl rfl).trans
    (Shrinks.foldl Shrinks.fillHeldWrite s.forwarder.held _)

theorem Shrinks.settleHeld (s : State) : Shrinks s s.settleHeld := by
  unfold State.settleHeld
  split
  · exact Shrinks.releaseHeld s
  · exact Shrinks.refl s

theorem Shrinks.releaseStation (s : State) (i : Nat) (reason : ReleaseReason) (time : Time) (stage : Nat) :
    Shrinks s (s.releaseStation i reason time stage) :=
  (Shrinks.release s i reason time stage).trans (Shrinks.settleHeld _)

theorem Shrinks.failIntegrity (s : State) (i : Nat) (time : Time) : Shrinks s (s.failIntegrity i time) :=
  (Shrinks.integrityRelease s i time).trans (Shrinks.settleHeld _)

theorem Shrinks.reclaimScan (channel : Nat) (l : List Nat) (s : State) : Shrinks s (State.reclaimScan channel l s).1 := by
  induction l generalizing s with
  | nil => exact Shrinks.refl s
  | cons index rest ih =>
    unfold State.reclaimScan
    split
    · exact ih s
    · split
      · split
        · exact Shrinks.refl s
        · exact ih s
      · dsimp only
        split
        · exact Shrinks.failIntegrity _ _ _
        · exact (Shrinks.failIntegrity s index _).trans (ih _)

theorem Shrinks.ageContext (s : State) (i : Nat) : Shrinks s (s.ageContext i) := by
  unfold State.ageContext
  split
  · exact Shrinks.refl s
  · split
    · exact Shrinks.of_eq
    · exact Shrinks.failIntegrity _ _ _

theorem Shrinks.ageByCount (s : State) : Shrinks s s.ageByCount := by
  unfold State.ageByCount
  dsimp only
  split
  · refine (Shrinks.foldl Shrinks.ageContext s.table.contexts.keys s).trans ?_
    exact Shrinks.of_eq rfl rfl
  · exact Shrinks.refl s

theorem Shrinks.countReport (s : State) : Shrinks s s.countReport := by
  unfold State.countReport
  split
  · exact Shrinks.refl s
  · exact Shrinks.trans (t := { s with table := { s.table with ageing := s.table.ageing + 1 } }) (Shrinks.of_eq rfl rfl)
      (Shrinks.ageByCount _)

/-! ### Releases and lookups -/

theorem Linked.release (h : Linked loose s) (i : Nat) (reason : ReleaseReason) (time : Time) (stage : Nat) :
    Linked loose (s.release i reason time stage) := by
  unfold State.release
  split
  · exact h
  next hc => exact (h.vacate hc reason).congr (by simp)

theorem Linked.integrityRelease (h : Linked loose s) (i : Nat) (time : Time) : Linked loose (s.integrityRelease i time) :=
  (h.release i .integrity time 0).congr (by simp [State.integrityRelease])

theorem Linked.lookup (h : Linked loose s) (key : Key) (time : Time) : Linked loose (s.lookup key time).1 := by
  unfold State.lookup
  split
  · exact h
  · split
    · exact h
    · split
      · exact h
      · exact h.integrityRelease _ _

/-- A lookup that finds an index has found it in the directory, and its record checks; it changes nothing. -/
theorem State.lookup_some {key : Key} {time : Time} (e : s.lookup key time = (t, some i)) :
    t = s ∧ Table.get? s.table.directory key.number = some i ∧ ∃ c, s.context? i = some c ∧ c.intact = true := by
  unfold State.lookup at e
  split at e
  · cases e
  · split at e
    · cases e
    · split at e
      · cases e
        exact ⟨rfl, by assumption, _, by assumption, by assumption⟩
      · cases e

/-- A lookup that finds none leaves the key unknown. -/
theorem Linked.lookup_none (h : Linked loose s) {key : Key} {time : Time} (e : s.lookup key time = (t, none)) :
    Table.get? t.table.directory key.number = none := by
  unfold State.lookup at e
  split at e
  next unknown =>
    cases e
    exact unknown
  next index known =>
    split at e
    next vacant =>
      exact absurd known (((h.at_ index).vacant vacant).directory key.number)
    next c hc =>
      split at e
      · cases e
      · cases e
        have gone : Table.get? (s.vacate index .integrity).table.directory key.number = none := by
          rw [(s.vacate_released index .integrity).directory, Table.get?_filter _ _ _ h.directoryWf, known]
          simp [Option.filter]
        simpa [State.integrityRelease, State.release, hc] using gone

/-! ### Fills -/

theorem Linked.settleOwner (h : Linked loose s) (slot : Nat) (found : Option Nat) : Linked loose (s.settleOwner slot found) := by
  unfold State.settleOwner
  split
  · exact h
  · split
    · exact h
    · exact h.unmapSlot slot

/-- Once the owner of a slot has given way, the slot names the context found, or none. -/
theorem State.settleOwner_owner {slot : Nat} {found : Option Nat} {o : Nat}
    (e : Table.get? (s.settleOwner slot found).slotMap slot = some o) : found = some o := by
  unfold State.settleOwner at e
  split at e
  next unmapped => simp [unmapped] at e
  next index mapped =>
    split at e
    next own =>
      rw [mapped] at e
      cases e
      exact own
    · have erased : Table.get? (s.unmapSlot slot).slotMap slot = none := by
        unfold State.unmapSlot
        simp only [mapped]
        (repeat' split) <;> simp [Table.get?_erase]
      rw [erased] at e
      cases e

theorem Linked.fillAndForward (h : Linked loose s) (serial : Nat) (r : Request) (key : Key) (slot : Nat)
    (found : Option Nat) : Linked loose (s.fillAndForward serial r key slot found) := by
  have settled := h.settleOwner slot found
  unfold State.fillAndForward
  refine Linked.congr ?_ (State.forwardAs_links _ _ _)
  split
  next index c hc =>
    split
    · exact settled
    next was => exact settled.issue hc (fun o e => (Option.some.inj (State.settleOwner_owner e)).symm) was
    · exact settled
    · exact settled
  · exact settled

theorem Linked.unmapOverlapped (h : Linked loose s) (r : Request) : Linked loose (s.unmapOverlapped r) :=
  foldl_keeps _ (fun _ slot _ hu => hu.unmapSlot slot) h

theorem Linked.notTaken (h : Linked loose s) (r : Request) : Linked loose (s.notTaken r) := by
  unfold State.notTaken
  split
  · dsimp only
    split
    · exact (h.unmapOverlapped r).congr (by simp)
    · exact h.unmapOverlapped r
  · exact h

/-! ### Held writes -/

theorem Linked.withHeld (h : Linked loose s) {held : List HeldWrite}
    (e : ∀ x ∈ held, ∀ f, s.flight = some f → x.key = f.report.key) :
    Linked loose { s with forwarder := { s.forwarder with held := held } } :=
  ⟨fun i => (h.at_ i).of_same ⟨rfl, fun _ => .rfl, fun _ => .rfl, fun _ => rfl, fun _ _ => .rfl, id⟩, h.directoryWf,
    h.slotMapWf, h.reports, e, h.outside, h.setup⟩

theorem Linked.fillHeldWrite (h : Linked loose s) (x : HeldWrite) : Linked loose (s.fillHeldWrite x) := by
  have begun : Linked loose s.beginForward := h.congr (by simp)
  unfold State.fillHeldWrite
  dsimp only
  refine Linked.congr ?_ (State.withCause_links _ _)
  split
  · exact (begun.notTaken x.request).congr (by simp)
  · exact (begun.lookup _ _).fillAndForward _ _ _ _ _

theorem Linked.settleHeld (h : Linked loose s) : Linked loose s.settleHeld := by
  unfold State.settleHeld
  split
  · exact foldl_keeps _ (fun _ x _ hu => hu.fillHeldWrite x) (h.withHeld (by simp))
  · exact h

theorem Linked.forwardHeldUnfilled (h : Linked loose s) : Linked loose s.forwardHeldUnfilled :=
  foldl_keeps _ (fun _ _ _ hu => hu.congr (by simp [State.links])) (h.withHeld (by simp))

/-! ### Agreement with nothing held once the corrector is idle -/

/-- The records agree, held writes included. -/
structure Joined (loose : Bool) (s : State) : Prop extends Linked loose s where
  settled : s.flight = none → s.forwarder.held = []

theorem Joined.congr (h : Joined loose s) (e : t.links = s.links) : Joined loose t := by
  refine ⟨h.toLinked.congr e, ?_⟩
  simp only [State.links, Prod.mk.injEq] at e
  obtain ⟨-, -, -, -, -, e6, -, e8, -⟩ := e
  rw [e6, e8]
  exact h.settled

/-- A change of records that leaves flight and held writes alone. -/
theorem Joined.change (h : Joined loose s) (l : Linked loose t) (flight : t.flight = s.flight := by simp)
    (held : t.forwarder.held = s.forwarder.held := by simp) : Joined loose t :=
  ⟨l, by rw [flight, held]; exact h.settled⟩

theorem Linked.settle (h : Linked loose s) : Joined loose s.settleHeld := by
  refine ⟨h.settleHeld, ?_⟩
  unfold State.settleHeld
  split
  · exact fun _ => s.releaseHeld_forwarder_held
  next busy =>
    intro e
    simp [e] at busy

theorem Linked.releaseStation (h : Linked loose s) (i : Nat) (reason : ReleaseReason) (time : Time) (stage : Nat) :
    Joined loose (s.releaseStation i reason time stage) := (h.release i reason time stage).settle

theorem Linked.failIntegrity (h : Linked loose s) (i : Nat) (time : Time) : Joined loose (s.failIntegrity i time) :=
  (h.integrityRelease i time).settle

/-! ### Part state -/

theorem Joined.enterStopped (h : Joined loose s) : Joined loose s.enterStopped := by
  have ended : Linked loose s.abandonDrain.endFlight.forwardHeldUnfilled := by
    refine Linked.forwardHeldUnfilled (Linked.endFlight (h.toLinked.congr ?_))
    unfold State.abandonDrain
    split <;> simp [State.links]
  have idle : s.abandonDrain.endFlight.forwardHeldUnfilled.flight = none := by
    simp only [State.forwardHeldUnfilled_frame]
    unfold State.endFlight
    split
    · assumption
    · split <;> rfl
  refine ⟨⟨fun i => (ended.at_ i).of_same ⟨rfl, fun _ => .rfl, fun _ => .rfl, fun _ => rfl, fun _ _ => .rfl, id⟩,
    ended.directoryWf, ended.slotMapWf, ended.reports, ended.held, fun _ => idle, fun e => by cases e⟩,
    fun _ => State.forwardHeldUnfilled_forwarder_held _⟩

theorem Joined.stopIfDue (h : Joined loose s) : Joined loose s.stopIfDue := by
  unfold State.stopIfDue
  dsimp only
  split
  · exact Joined.enterStopped (h.congr rfl)
  · exact h.congr rfl

theorem Joined.finish (h : Joined loose s) : Joined loose s.finish := h.stopIfDue.congr rfl

/-! ### Ageing -/

theorem Joined.touch (h : Joined loose s) (hc : s.context? i = some c) {c' : Context} (key : c'.key = c.key := by rfl)
    (busy : c'.busy = c.busy := by rfl) (correction : c'.correction = c.correction := by rfl)
    (station : c'.station = .ending → c.station = .ending) : Joined loose (s.writeContext i c') :=
  h.change (h.toLinked.touch hc key busy correction station)

theorem Joined.ageContext (h : Joined loose s) (i : Nat) : Joined loose (s.ageContext i) := by
  unfold State.ageContext
  split
  · exact h
  next hc =>
    split
    · exact h.touch hc (station := id)
    · exact h.failIntegrity _ _

theorem Joined.ageingStep (h : Joined loose s) : Joined loose s.ageingStep :=
  foldl_keeps _ (fun _ i _ hu => hu.ageContext i) h

theorem Joined.ageByCount (h : Joined loose s) : Joined loose s.ageByCount := by
  unfold State.ageByCount
  dsimp only
  split
  · exact h.ageingStep.congr rfl
  · exact h

theorem Joined.countReport (h : Joined loose s) : Joined loose s.countReport := by
  unfold State.countReport
  split
  · exact h
  · exact Joined.ageByCount (h.congr rfl)

/-! ### The report intake -/

/-- The tag of an accepted report is in range (R35). -/
theorem State.tag_of_accepted {r : Request} {slot : Nat} {e : Report} (h : s.checkReport r slot = .accepted e) :
    tagInRange e.tag = true := by
  unfold State.checkReport at h
  dsimp only at h
  (repeat' split at h) <;> cases h
  assumption

theorem Joined.withIntake (h : Joined loose s) {intake : Intake} (e : ∀ x ∈ intake.queue, tagInRange x.tag = true) :
    Joined loose { s with intake := intake } :=
  ⟨⟨fun i => (h.at_ i).of_same ⟨rfl, fun _ => .rfl, fun _ => .rfl, fun _ => rfl, fun _ _ => .rfl, id⟩, h.directoryWf,
    h.slotMapWf, e, h.held, h.outside, h.setup⟩, h.settled⟩

theorem Joined.joinIntake (h : Joined loose s) {e : Report} (tag : tagInRange e.tag = true) :
    Joined loose (s.joinIntake e) := by
  refine h.withIntake fun x hx => ?_
  rcases List.mem_append.mp hx with hx | hx
  · exact h.reports x hx
  · rw [List.mem_singleton.mp hx]
    exact tag

theorem Joined.enqueue (h : Joined loose s) (header : Header) {e : Report} (tag : tagInRange e.tag = true) :
    Joined loose (s.enqueue header e) := by
  unfold State.enqueue
  dsimp only
  split
  · exact h.joinIntake tag
  split
  · exact h.congr (by simp)
  · exact h.congr (by simp)
  next displaced kept taken _ =>
    obtain ⟨before, after, h1, h2, -, -⟩ := takeNewestData_spec taken
    refine Joined.joinIntake (Joined.congr (h.withIntake (intake := { s.intake with queue := kept }) fun x hx => ?_)
      (State.handOn_links _ _ _)) tag
    refine h.reports x ?_
    rw [h1]
    rw [h2] at hx
    simp only [List.mem_append, List.mem_cons] at hx ⊢
    exact hx.imp id .inr

theorem Joined.takeReport (h : Joined loose s) (r : Request) (slot : Nat) : Joined loose (s.takeReport r slot) := by
  unfold State.takeReport
  dsimp only
  split
  · exact h
  · split
    · exact h.congr (by simp)
    · exact h.congr (by simp)
  next accepted => exact h.enqueue _ (State.tag_of_accepted accepted)

theorem Joined.intakeWrite (h : Joined loose s) (r : Request) : Joined loose (s.intakeWrite r) := by
  unfold State.intakeWrite
  split
  · exact h.takeReport r _
  · split
    · exact h.congr (by simp)
    · exact h

theorem Joined.notTaken (h : Joined loose s) (r : Request) : Joined loose (s.notTaken r) := h.change (h.toLinked.notTaken r)

end Sys2Proof.Machine
end

section
/-!
The agreement of the records within a step, of the corrector and of the expiries.
-/

namespace Sys2Proof.Machine

set_option Elab.async false

variable {s t u : State} {loose : Bool} {i j : Nat} {c : Context}

/-! ### The correction-state test -/

theorem Joined.rearmSilence (h : Joined loose s) (i : Nat) (a : Table Word) (time : Time) :
    Joined loose (s.rearmSilence i a time) := by
  unfold State.rearmSilence
  split
  · exact h
  next hc =>
    split
    · exact h.change (h.toLinked.armSilence hc _ _) rfl rfl
    · exact h.change (h.toLinked.armSilence hc _ _) rfl rfl
    · exact h
    · exact h

/-- The correction in flight of one context is to be full, when that context holds none and is not ENDING. -/
theorem Joined.markFull (h : Joined loose s) (own : ∀ f, s.flight = some f → f.index = i)
    (hc : s.context? i = some c) (correction : c.correction = .none) (station : c.station ≠ .ending) :
    Joined loose s.markFull := by
  refine ⟨h.toLinked.markFull fun f d hf hd => ?_, fun e => h.settled (by simpa [State.markFull] using e)⟩
  rw [own f hf] at hd
  cases hc.symm.trans hd
  exact ⟨correction, station⟩

theorem Joined.testCorrection (h : Joined loose s) (own : ∀ f, s.flight = some f → f.index = i) (a : Table Word)
    (report : Report) (time : Time) : Joined loose (s.testCorrection i a report time) := by
  unfold State.testCorrection
  split
  · exact h
  next c hc =>
    split
    · exact h
    next station =>
      split
      next was => exact h.markFull own hc was station
      next issued was =>
        have dropped : Joined loose (s.writeContext i { c with correction := .none }) :=
          h.change (h.toLinked.rewrite hc rfl rfl (by rw [was]; rfl) (.inl (by rw [was]; rfl)) fun _ _ _ _ => ⟨rfl, station⟩)
        exact dropped.markFull own (s.writeContext_self i { c with correction := .none }) rfl station
      · exact h
      next issued delivered was =>
        split
        · have next_ : issued.next.apply c.station ≠ .ending := by
            cases issued.next with
            | unchanged => exact station
            | contact => exact nofun
            | tracking => exact nofun
          have confirmed : Joined loose (s.confirm i c issued delivered time) := by
            refine h.change (Linked.congr ?_ (State.handOn_links _ _ _))
            exact h.toLinked.unsend hc was
          refine confirmed.markFull (by simpa using own)
            (c := { c with
              committed := c.committed.confirm issued
              station := issued.next.apply c.station
              attempts := if issued.status = .success then 0 else c.attempts
              correction := .none
              intact := true }) ?_ rfl next_
          simp only [State.confirm, State.context?, State.handOn_frame]
          exact (s.removeDeadline i .confirm).writeContext_self i _
        · exact h

/-! ### Reports bound to a context -/

theorem Joined.goOn (h : Joined loose s) {f : State → State} (g : Joined loose s → Joined loose (f s)) :
    Joined loose (s.goOn f) := State.goOn_keeps h g

theorem Joined.bindReport (h : Joined loose s) (idle : s.flight = none) (running : s.part = .running)
    {report : Report} (hc : s.context? i = some c) (key : c.key = report.key) (age : Nat) :
    Joined loose (s.bindReport i age report) := by
  unfold State.bindReport
  rw [hc]
  dsimp only
  generalize hf : (⟨report, s.settings.active, s.time.counter, i, age, false⟩ : Flight) = f
  have at_ : f.index = i := by rw [← hf]
  have bound : Joined loose (State.writeContext { s with flight := some f } i
      { c with busy := true, age := 0, lastHeard := s.time.counter }) := by
    subst at_
    refine ⟨h.toLinked.bind idle (h.settled idle) running hc (by rw [key, ← hf]) (by rw [← hf]), fun e => ?_⟩
    cases e
  have counted := bound.countReport
  have own := Shrinks.countReport (State.writeContext { s with flight := some f } i
      { c with busy := true, age := 0, lastHeard := s.time.counter })
  generalize State.countReport _ = u at counted own
  have own : ∀ g, u.flight = some g → g.index = i := fun g hg => by
    cases own.flight g hg
    exact at_
  refine counted.goOn fun _ => ?_
  split
  · exact counted
  next d hd =>
    refine Joined.goOn (Joined.testCorrection ?_ ?_ _ _ _) fun g => g.rearmSilence _ _ _
    · split
      · exact counted.touch hd (station := fun e => by cases e)
      · exact counted
    · split
      · exact own
      · exact own

/-! ### Admission -/

theorem Joined.refuse (h : Joined loose s) (report : Report) (cause : RefusalCause) : Joined loose (s.refuse report cause) :=
  h.congr (State.handOn_links _ _ _)

theorem Linked.restart (h : Linked loose s) (i : Nat) (a : Table Word) (time : Time) (reason : Nat) :
    Linked loose (s.restart i a time reason) := by
  unfold State.restart
  split
  · exact h
  next c hc =>
    refine Linked.congr (Linked.armSilence (c := { c with
        station := .contact
        correction := .none
        committed := initialCommitted (mainPosition a c.key.channel)
        attempts := 0
        age := 0
        lastHeard := time
        origin := .contact
        intact := true }) ?_ (State.writeContext_self _ _ _) _ _) (State.handOn_links _ _ _)
    exact h.restarted hc (station := nofun)

/-- A restarted context is there still, with its key. -/
theorem State.restart_get (s : State) (a : Table Word) (time : Time) (reason : Nat) (hc : s.context? i = some c) :
    ∃ d, (s.restart i a time reason).context? i = some d ∧ d.key = c.key := by
  unfold State.restart
  rw [hc]
  simp only [State.context?, State.handOn_frame, State.arm_frame]
  exact ⟨_, State.writeContext_self _ _ _, rfl⟩

theorem Linked.occupy (h : Linked loose s) (vacant : s.context? i = none) (healthy : i ∉ s.table.quarantined)
    (running : s.part = .running) {key : Key} (tag : tagInRange key.tag = true)
    (unknown : Table.get? s.table.directory key.number = none) (station : StationState) (origin : Birth)
    (committed : Committed) (time : Time) (stage : Stage) (interval : Nat) :
    Linked loose (s.occupy i key station origin committed time stage interval) := by
  unfold State.occupy
  refine Linked.congr ?_ (State.issueCounts_links _ _ _)
  exact h.occupied_by vacant healthy running tag unknown stage (later time interval) (c :=
    { key := key, station := station, correction := .none, busy := false, committed := committed, attempts := 0, age := 0,
      lastHeard := time, metrics := none, origin := origin, intact := true })

/-- The context given out is there. -/
theorem State.occupy_get (s : State) (i : Nat) (key : Key) (station : StationState) (origin : Birth)
    (committed : Committed) (time : Time) (stage : Stage) (interval : Nat) :
    ∃ c, (s.occupy i key station origin committed time stage interval).context? i = some c ∧ c.key = key := by
  unfold State.occupy
  simp only [State.context?, State.issueCounts_frame, State.arm_frame]
  exact ⟨_, State.writeContext_self _ _ _, rfl⟩

/-- A station that has just come in is bound to its report. -/
theorem Joined.bindNew (h : Joined loose s) (idle : s.flight = none) (running : s.part = .running)
    (vacant : s.context? i = none) (healthy : i ∉ s.table.quarantined) {report : Report}
    (tag : tagInRange report.key.tag = true) (unknown : Table.get? s.table.directory report.key.number = none)
    (station : StationState) (origin : Birth) (committed : Committed) (time : Time) (stage : Stage) (interval : Nat)
    (f : EventFields) :
    Joined loose (((s.occupy i report.key station origin committed time stage interval).handOn f time).goOn fun u =>
      u.bindReport i 0 report) := by
  have occupied := h.toLinked.occupy vacant healthy running tag unknown station origin committed time stage interval
  obtain ⟨c, hc, key⟩ := s.occupy_get i report.key station origin committed time stage interval
  have joined : Joined loose ((s.occupy i report.key station origin committed time stage interval).handOn f time) :=
    h.change (occupied.congr (State.handOn_links _ _ _))
  refine joined.goOn fun g => g.bindReport (by simpa using idle) (by simpa using running) (c := c) ?_ key 0
  simpa [State.context?] using hc

theorem Joined.allocate (h : Joined loose s) (idle : s.flight = none) (running : s.part = .running)
    (vacant : s.context? i = none) (healthy : i ∉ s.table.quarantined) {report : Report}
    (tag : tagInRange report.key.tag = true) (unknown : Table.get? s.table.directory report.key.number = none) :
    Joined loose (s.allocate i report) := h.bindNew idle running vacant healthy tag unknown _ _ _ _ _ _ _

theorem Joined.adopt (h : Joined loose s) (idle : s.flight = none) (running : s.part = .running)
    (vacant : s.context? i = none) (healthy : i ∉ s.table.quarantined) {report : Report}
    (tag : tagInRange report.key.tag = true) (unknown : Table.get? s.table.directory report.key.number = none) :
    Joined loose (s.adopt i report) := h.bindNew idle running vacant healthy tag unknown _ _ _ _ _ _ _

theorem Joined.reclaimScan (h : Joined loose s) (channel : Nat) (l : List Nat) :
    Joined loose (State.reclaimScan channel l s).1 := by
  induction l generalizing s with
  | nil => exact h
  | cons index rest ih =>
    unfold State.reclaimScan
    split
    · exact ih h
    · split
      · split
        · exact h
        · exact ih h
      · dsimp only
        split
        · exact h.failIntegrity _ _
        · exact ih (h.failIntegrity _ _)

@[simp] theorem State.reclaimScan_part (s : State) (channel : Nat) (l : List Nat) :
    (State.reclaimScan channel l s).1.part = s.part := by simp

/-- What the scan finds is occupied. -/
theorem State.reclaimScan_some {channel : Nat} {l : List Nat} (e : State.reclaimScan channel l s = (t, some i)) :
    ∃ c, t.context? i = some c := by
  induction l generalizing s with
  | nil => cases e
  | cons index rest ih =>
    unfold State.reclaimScan at e
    split at e
    · exact ih e
    next c hc =>
      split at e
      · split at e
        · cases e
          exact ⟨c, hc⟩
        · exact ih e
      · dsimp only at e
        split at e
        · cases e
        · exact ih e

theorem State.release_table (s : State) (i : Nat) (reason : ReleaseReason) (time : Time) (stage : Nat)
    (hc : s.context? i = some c) : (s.release i reason time stage).table = (s.vacate i reason).table := by
  simp [State.release, hc]

/-- A context released for no failed check leaves an index that may be given out again. -/
theorem State.release_vacates (s : State) {reason : ReleaseReason} (time : Time) (stage : Nat)
    (hc : s.context? i = some c) (good : reason ≠ .integrity) :
    (s.release i reason time stage).context? i = none ∧
      (s.release i reason time stage).table.quarantined = s.table.quarantined := by
  unfold State.context?
  rw [s.release_table i reason time stage hc]
  refine ⟨(s.vacate_released i reason).gone, ?_⟩
  simp [State.vacate, good]

theorem Joined.admitFirstContact (h : Joined loose s) (idle : s.flight = none) (running : s.part = .running)
    {report : Report} (tag : tagInRange report.key.tag = true)
    (unknown : Table.get? s.table.directory report.key.number = none) : Joined loose (s.admitFirstContact report) := by
  unfold State.admitFirstContact
  dsimp only
  split
  next index _ free =>
    obtain ⟨vacant, healthy⟩ := State.lowestFree_vacant free
    exact h.allocate idle running vacant healthy tag unknown
  have scanned := h.reclaimScan report.channel s.table.contexts.keys
  have shrunk := Shrinks.reclaimScan report.channel s.table.contexts.keys s
  have part := s.reclaimScan_part report.channel s.table.contexts.keys
  split
  next t e =>
    rw [e] at scanned
    exact scanned.goOn fun g => g.refuse _ _
  next t index e =>
    rw [e] at scanned shrunk part
    obtain ⟨c, hc⟩ := State.reclaimScan_some e
    have idle := shrunk.idle idle
    have empty := scanned.settled idle
    have gone := State.release_vacates t (reason := .reclaimed) t.time.counter 0 hc nofun
    have away := Shrinks.release t index .reclaimed t.time.counter 0
    have same : t.releaseStation index .reclaimed t.time.counter 0 = t.release index .reclaimed t.time.counter 0 :=
      State.settleHeld_empty _ fun _ => by simpa using empty
    have joined := scanned.toLinked.releaseStation index .reclaimed t.time.counter 0
    rw [same] at joined ⊢
    refine joined.goOn fun g => g.allocate (away.idle idle) ?_ gone.1 ?_ tag (away.unknown _ (shrunk.unknown _ unknown))
    · simpa using part.trans running
    · rw [gone.2]
      exact (scanned.toLinked.occupied hc).quarantine

theorem Joined.admitKeepalive (h : Joined loose s) (idle : s.flight = none) (running : s.part = .running)
    {report : Report} (tag : tagInRange report.key.tag = true)
    (unknown : Table.get? s.table.directory report.key.number = none) : Joined loose (s.admitKeepalive report) := by
  unfold State.admitKeepalive
  dsimp only
  split
  · exact h.refuse _ _
  split
  · exact h.refuse _ _
  split
  · exact h.refuse _ _
  split
  next index free =>
    obtain ⟨vacant, healthy⟩ := State.lowestFree_vacant free
    exact h.adopt idle running vacant healthy tag unknown
  · exact h.refuse _ _

/-- A report of a known station reaches its context, after a restart by a first contact. -/
theorem Joined.admitKnown (h : Joined loose s) (idle : s.flight = none) (running : s.part = .running)
    {report : Report} (hc : s.context? i = some c) (key : c.key = report.key) :
    Joined loose (s.admitReport (some i) report) := by
  unfold State.admitReport
  simp only [hc]
  split
  · have joined : Joined loose (s.restart i s.settings.active s.time.counter 1) :=
      h.change (h.toLinked.restart _ _ _ _)
    obtain ⟨d, hd, e⟩ := s.restart_get s.settings.active s.time.counter 1 hc
    exact joined.goOn fun g => g.bindReport (by simpa using idle) (by simpa using running) hd (e.trans key) _
  · exact h.bindReport idle running hc key _
  · exact h.bindReport idle running hc key _

theorem Joined.admitUnknown (h : Joined loose s) (idle : s.flight = none) (running : s.part = .running)
    {report : Report} (tag : tagInRange report.key.tag = true)
    (unknown : Table.get? s.table.directory report.key.number = none) :
    Joined loose (s.admitReport none report) := by
  unfold State.admitReport
  dsimp only
  split
  · exact h.admitFirstContact idle running tag unknown
  · exact h.admitKeepalive idle running tag unknown
  · exact h

theorem Joined.takeHead (h : Joined loose s) : Joined loose s.takeHead := by
  unfold State.takeHead
  split
  next report rest running idle queue =>
    have running : s.part = .running := by simpa [State.running] using running
    have tag : tagInRange report.key.tag = true := h.reports report (by simp [queue])
    have taken : Joined loose { s with intake := { s.intake with queue := rest } } :=
      h.withIntake fun x hx => h.reports x (by simp [queue, show x ∈ rest from hx])
    have empty := h.settled idle
    generalize hq : ({ s with intake := { s.intake with queue := rest } } : State) = q at taken
    have idle : q.flight = none := by rw [← hq]; exact idle
    have running : q.part = .running := by rw [← hq]; exact running
    have looked := taken.toLinked.lookup report.key q.time.counter
    have shrunk := Shrinks.lookup q report.key q.time.counter
    have frame := q.lookup_frame report.key q.time.counter
    cases e : q.lookup report.key q.time.counter with
    | mk u found =>
      rw [e] at looked shrunk frame
      obtain ⟨-, -, part, port, -⟩ := frame
      have joined : Joined loose u := ⟨looked, fun _ => by rw [port]; exact taken.settled idle⟩
      have running : u.part = .running := part.trans running
      dsimp only
      rw [e]
      refine joined.goOn fun g => ?_
      cases found with
      | none => exact g.admitUnknown (shrunk.idle idle) running tag (taken.toLinked.lookup_none e)
      | some index =>
        obtain ⟨rfl, known, -⟩ := State.lookup_some e
        obtain ⟨c, hc, key⟩ := taken.toLinked.found tag known
        exact g.admitKnown idle running hc key
  · exact h

/-! ### Completion -/

theorem Joined.completeNoted (h : Joined loose s) : Joined loose s.completeNoted := by
  unfold State.completeNoted
  split
  · exact h
  next f hf =>
    split
    · exact h
    split
    · exact h.toLinked.endFlight.settle
    next c hc =>
      split
      · exact Linked.settle (h.toLinked.complete hf hc
          (c' := { c with
            metrics := some (f.report.metrics (c.metrics.bind Metrics.spread) (c.metrics.bind Metrics.status))
            busy := false }) (sent := rfl) (slot := rfl))
      · exact h.failIntegrity _ _

theorem Linked.setFallback (h : Linked loose s) (f : Fallback) : Linked loose (s.setFallback f) :=
  h.congr (by cases f <;> simp [State.setFallback])

theorem Joined.completeFull (h : Joined loose s) : Joined loose s.completeFull := by
  unfold State.completeFull
  split
  · exact h
  next f hf =>
    split
    · exact h
    next full =>
      split
      · exact h.toLinked.endFlight.settle
      next c hc =>
        split
        · dsimp only
          generalize conditionBits f.snapshot f.report.channel (f.input c) = conditions
          generalize judge f.snapshot f.report.channel f.report.kind conditions = j
          obtain ⟨was, -⟩ := (h.toLinked.occupied hc).full f hf rfl (by simpa using full)
          have judged : Linked loose
              { s.writeContext f.index (f.judged c conditions j.verdict) with flight := none } := by
            have none_ : (f.judged c conditions j.verdict).correction.isSent = c.correction.isSent ∧
                (f.judged c conditions j.verdict).correction.slot? = c.correction.slot? := by
              unfold Flight.judged
              dsimp only
              rw [was]
              split <;> exact ⟨rfl, rfl⟩
            exact h.toLinked.complete hf hc (sent := none_.1) (slot := none_.2)
          have rearmed : Linked loose (State.rearmAfterSilent
              { s.writeContext f.index (f.judged c conditions j.verdict) with flight := none } f.index f.snapshot
                j.verdict c.station) := by
            unfold State.rearmAfterSilent State.rearmSilence
            split
            · split
              · exact judged
              next hd =>
                split
                · exact judged.armSilence hd _ _
                · exact judged.armSilence hd _ _
                · exact judged
                · exact judged
            · exact judged
          refine Linked.settle (Linked.setFallback ?_ _)
          split
          · exact rearmed.congr (State.handOn_links _ _ _)
          · exact rearmed
        · exact h.failIntegrity _ _

/-! ### Expiries -/

/-- Re-arming a deadline removes the old entry, whether it is still there or not. -/
theorem State.arm_removeDeadline (s : State) (i : Nat) {kind kind' : DeadlineKind} (expiry : Time)
    (e : kind'.sameAs kind = true) : (s.removeDeadline i kind').arm i kind expiry = s.arm i kind expiry := by
  have same : ∀ d : Deadline, d.isFor i kind' = d.isFor i kind := by
    intro d
    cases h : d.kind <;> cases kind <;> cases kind' <;> simp_all [Deadline.isFor, DeadlineKind.sameAs]
  simp [State.arm, State.removeDeadline, List.filter_filter, same]

theorem State.abandonFor_removeDeadline (s : State) (i j : Nat) (kind : DeadlineKind) :
    (s.removeDeadline j kind).abandonFor i = (s.abandonFor i).removeDeadline j kind := by
  have get : ∀ m, (s.removeDeadline j kind).context? m = s.context? m := fun _ => rfl
  have flight : (s.removeDeadline j kind).flight = s.flight := rfl
  unfold State.abandonFor State.endFlight
  rw [flight]
  cases s.flight with
  | none => rfl
  | some f =>
    dsimp only
    rw [get]
    split
    · cases s.context? f.index <;> rfl
    · rfl

/-- A release removes the deadlines of its context, whether one has left the list before or not. -/
theorem State.vacate_removeDeadline (s : State) (i : Nat) (kind : DeadlineKind) (reason : ReleaseReason) :
    (s.removeDeadline i kind).vacate i reason = s.vacate i reason := by
  have same : ∀ d : Deadline, (d.index != i && !d.isFor i kind) = (d.index != i) := by
    intro d
    by_cases e : d.index = i <;> simp [Deadline.isFor, e]
  unfold State.vacate
  rw [s.abandonFor_removeDeadline]
  simp [State.removeDeadline, State.clearSlotsOf, State.removeDeadlines, List.filter_filter, same]

theorem State.release_removeDeadline (s : State) (i : Nat) (kind : DeadlineKind) (reason : ReleaseReason) (time : Time)
    (stage : Nat) (hc : s.context? i = some c) :
    (s.removeDeadline i kind).release i reason time stage = s.release i reason time stage := by
  have hd : (s.removeDeadline i kind).context? i = some c := hc
  unfold State.release
  rw [hc, hd, s.vacate_removeDeadline]

theorem State.failIntegrity_removeDeadline (s : State) (i : Nat) (kind : DeadlineKind) (time : Time)
    (hc : s.context? i = some c) : (s.removeDeadline i kind).failIntegrity i time = s.failIntegrity i time := by
  unfold State.failIntegrity State.integrityRelease
  rw [s.release_removeDeadline i kind _ _ _ hc]

/-- A vacant index has no deadline to remove. -/
theorem Linked.removeVacant (h : Linked loose s) (vacant : s.context? i = none) (up : s.part ≠ .setup)
    (kind : DeadlineKind) : Linked loose (s.removeDeadline i kind) := by
  have a := (h.at_ i).vacant vacant
  have less : ∀ k, (s.removeDeadline i kind).deadlinesFor i k ≤ s.deadlinesFor i k := fun k =>
    (List.filter_sublist.filter _).length_le
  refine h.change i (fun j e => SameAt.removeDeadline s kind e) (VacantAt.linked ?_ vacant) h.directoryWf h.slotMapWf rfl
    h.held h.outside up
  exact ⟨a.directory, a.owner, fun k => Nat.le_zero.mp (a.silence k ▸ less _), Nat.le_zero.mp (a.confirm ▸ less _), a.flight⟩

/-- A context whose correction is not SENT has no CONFIRM deadline to remove. -/
theorem Linked.removeUnsent (h : Linked loose s) (hc : s.context? i = some c) (unsent : c.correction.isSent = false) :
    Linked loose (s.removeDeadline i .confirm) := by
  have a := h.occupied hc
  refine h.changeAt hc (fun j e => SameAt.removeDeadline s _ e) (OccupiedAt.linked ?_ hc) h.slotMapWf
  refine ⟨a.keys, a.directory, a.mapped, a.owner, fun k => ?_, ?_, a.busy, a.flight, a.full, a.quarantine⟩
  · rw [s.deadlinesFor_removeDeadline_other (.inr rfl)]
    exact a.silence k
  · rw [s.deadlinesFor_removeDeadline rfl, unsent]
    rfl

theorem Joined.fireSilence (h : Joined loose s) : Joined loose s.fireSilence := by
  unfold State.fireSilence
  split
  next d running _ =>
    have up : s.part ≠ .setup := by
      intro e
      simp [State.running, e] at running
    split
    next stage kind =>
      unfold State.expireSilence State.takeDeadline
      rw [kind]
      have same : (s.removeDeadline d.index (.silence stage)).context? d.index = s.context? d.index := rfl
      rw [same]
      split
      next vacant => exact h.change (h.toLinked.removeVacant vacant up _) rfl rfl
      next c hc =>
        split
        · rw [s.failIntegrity_removeDeadline _ _ _ hc]
          exact h.failIntegrity _ _
        split
        next station =>
          refine h.change (Linked.congr ?_ (State.handOn_links _ _ _))
          have armed := (h.toLinked.touch hc (c' := { c with station := .due }) (station := nofun)).armSilence
            (s.writeContext_self _ _) .lostWait (later d.expiry (lostInterval s.settings.active c.key.channel))
          rw [← State.arm_removeDeadline _ _ (kind' := .silence stage) _ rfl] at armed
          exact armed
        · unfold State.releaseStation
          rw [s.release_removeDeadline _ _ _ _ _ hc]
          exact h.releaseStation _ _ _ _
    · exact h
  · exact h

theorem Joined.fireConfirm (h : Joined loose s) : Joined loose s.fireConfirm := by
  unfold State.fireConfirm
  split
  next d running _ =>
    have up : s.part ≠ .setup := by
      intro e
      simp [State.running, e] at running
    split
    · exact h
    next kind =>
      unfold State.expireConfirm State.takeDeadline
      rw [kind]
      have same : (s.removeDeadline d.index .confirm).context? d.index = s.context? d.index := rfl
      rw [same]
      split
      next vacant => exact h.change (h.toLinked.removeVacant vacant up _) rfl rfl
      next c hc =>
        have unsent : c.correction.isSent = false → Joined loose (s.removeDeadline d.index .confirm) := fun e =>
          h.change (h.toLinked.removeUnsent hc e) rfl rfl
        split
        · rw [s.failIntegrity_removeDeadline _ _ _ hc]
          exact h.failIntegrity _ _
        split
        next was => exact unsent (by rw [was]; rfl)
        next was => exact unsent (by rw [was]; rfl)
        next was => exact unsent (by rw [was]; rfl)
        next was =>
          refine h.change (Linked.congr ?_ (State.handOn_links _ _ _))
          exact h.toLinked.unsend hc was
  · exact h

theorem Joined.fireAgeingTimer (h : Joined loose s) : Joined loose s.fireAgeingTimer := by
  unfold State.fireAgeingTimer
  dsimp only
  split
  · exact h.ageingStep.congr rfl
  · exact h

end Sys2Proof.Machine
end

section
/-!
The agreement of the records within a step, of applies, commands and requests; and that every step keeps it.
-/

namespace Sys2Proof.Machine

set_option Elab.async false

variable {s t u : State} {loose : Bool} {i j : Nat} {c : Context}

theorem Joined.ite {p : Prop} [Decidable p] (hs : Joined loose s) (ht : Joined loose t) :
    Joined loose (if p then s else t) := by
  split <;> assumption

theorem Joined.issueUnless {p : Prop} [Decidable p] (h : Joined loose s) (word : Nat) :
    Joined loose (if p then s else s.issueStatus word) := h.ite (h.congr (State.issueStatus_links _ _))

theorem Joined.emptyPointer {p : Prop} [Decidable p] (h : Joined loose s) (word : Nat) :
    Joined loose (if p then State.issueStatus { s with events := { s.events with firstPointer := none } } word else s) :=
  Joined.ite (h.congr rfl) h

/-! ### Closing a local channel -/

theorem Linked.releaseSilently (h : Linked loose s) (i : Nat) : Linked loose (s.releaseSilently i) := by
  unfold State.releaseSilently
  split
  · exact h
  next hc =>
    split
    · exact h.vacate hc _
    · exact (h.vacate hc _).congr (State.setError_links _ _ _)

theorem Linked.discardReports (h : Linked loose s) (channel : Nat) : Linked loose (s.discardReports channel) :=
  ⟨fun i => (h.at_ i).of_same ⟨rfl, fun _ => .rfl, fun _ => .rfl, fun _ => rfl, fun _ _ => .rfl, id⟩, h.directoryWf,
    h.slotMapWf, fun e he => h.reports e (List.mem_filter.mp he).1, h.held, h.outside, h.setup⟩

theorem Joined.closeChannel (h : Joined loose s) (channel cause : Nat) : Joined loose (s.closeChannel channel cause) := by
  have released : Linked loose ((s.contextsOf channel).foldl State.releaseSilently s) :=
    foldl_keeps _ (fun _ i _ hu => hu.releaseSilently i) h.toLinked
  have joined := (released.discardReports channel).settle
  unfold State.closeChannel
  dsimp only
  generalize State.settleHeld _ = u at joined
  have closed : ∀ f time, Joined loose (State.handOn { u with
      settings := { u.settings with active := withChannelOff u.settings.active channel } } f time) := fun f time =>
    Joined.congr (s := { u with
      settings := { u.settings with active := withChannelOff u.settings.active channel } }) (joined.congr rfl)
      (State.handOn_links _ _ _)
  exact Joined.issueUnless (Joined.issueUnless (closed _ _) _) _

/-! ### The staging area moved (R96) -/

theorem Joined.loosen (h : Joined false s) : Joined true s where
  at_ i :=
    have a := h.at_ i
    ⟨a.keys, a.directory, a.mapped, nofun, a.silence, a.confirm, a.busy, a.flight, a.full, a.quarantine⟩
  directoryWf := h.directoryWf
  slotMapWf := h.slotMapWf
  reports := h.reports
  held := h.held
  outside := h.outside
  setup := h.setup
  settled := h.settled

/-- Between these states no correction has become ISSUED. -/
def NoneIssued (s t : State) : Prop :=
  ∀ i d k, t.context? i = some d → d.correction.slot? = some k → ∃ c, s.context? i = some c ∧ c.correction.slot? = some k

theorem NoneIssued.refl (s : State) : NoneIssued s s := fun _ d _ hd e => ⟨d, hd, e⟩

theorem NoneIssued.trans (h : NoneIssued s t) (g : NoneIssued t u) : NoneIssued s u := fun i d k hd e => by
  obtain ⟨c, hc, e⟩ := g i d k hd e
  exact h i c k hc e

theorem NoneIssued.of_eq (e : t.table.contexts = s.table.contexts) : NoneIssued s t := fun i d k hd h =>
  ⟨d, by rw [State.context?, ← e]; exact hd, h⟩

theorem NoneIssued.foldl {α : Type} {f : State → α → State} (h : ∀ s b, NoneIssued s (f s b)) (l : List α) (s : State) :
    NoneIssued s (l.foldl f s) :=
  foldl_keeps (P := NoneIssued s) l (fun u b _ hu => hu.trans (h u b)) (NoneIssued.refl s)

theorem NoneIssued.writeContext (s : State) (i : Nat) {c : Context} (e : c.correction.slot? = none) :
    NoneIssued s (s.writeContext i c) := by
  intro j d k hd hk
  rw [State.writeContext_get] at hd
  split at hd
  · cases hd
    rw [show (Context.correction { c with intact := true }) = c.correction from rfl, e] at hk
    cases hk
  · exact ⟨d, hd, hk⟩

theorem NoneIssued.vacate (s : State) (i : Nat) (reason : ReleaseReason) : NoneIssued s (s.vacate i reason) := by
  intro j d k hd hk
  have gone := s.vacate_released i reason
  by_cases e : j = i
  · subst e
    rw [gone.gone] at hd
    cases hd
  · exact ⟨d, (gone.others j e) ▸ hd, hk⟩

theorem NoneIssued.integrityRelease (s : State) (i : Nat) (time : Time) : NoneIssued s (s.integrityRelease i time) := by
  unfold State.integrityRelease State.release
  split
  · exact NoneIssued.of_eq (by simp)
  · exact (NoneIssued.vacate s i .integrity).trans (NoneIssued.of_eq (by simp))

theorem NoneIssued.unmapSlot (s : State) (slot : Nat) : NoneIssued s (s.unmapSlot slot) := by
  unfold State.unmapSlot
  split
  · exact NoneIssued.refl s
  · dsimp only
    have erased : NoneIssued s { s with slotMap := Table.erase s.slotMap slot } := NoneIssued.of_eq rfl
    split
    · exact erased
    · split
      · exact erased
      · exact erased
      · exact erased.trans (NoneIssued.writeContext _ _ rfl)
      · exact erased

theorem NoneIssued.notTaken (s : State) (r : Request) : NoneIssued s (s.notTaken r) := by
  have unmapped : NoneIssued s (s.unmapOverlapped r) := NoneIssued.foldl NoneIssued.unmapSlot _ s
  unfold State.notTaken
  split
  · dsimp only
    split
    · exact unmapped.trans (NoneIssued.of_eq (by simp))
    · exact unmapped
  · exact NoneIssued.refl s

/-- A held write whose key is unknown issues nothing. -/
theorem NoneIssued.fillHeldWrite (s : State) (x : HeldWrite)
    (unknown : Table.get? s.table.directory x.key.number = none) : NoneIssued s (s.fillHeldWrite x) := by
  have begun : NoneIssued s s.beginForward := NoneIssued.of_eq (by simp)
  unfold State.fillHeldWrite
  dsimp only
  split
  · exact (begun.trans (NoneIssued.notTaken _ x.request)).trans (NoneIssued.of_eq rfl)
  next slot _ =>
    have none_ : ∀ time, s.beginForward.lookup x.key time = (s.beginForward, none) := fun time =>
      State.lookup_unknown _ _ _ (by simpa [State.unknown] using unknown)
    rw [none_]
    dsimp only
    have owner : NoneIssued s.beginForward (s.beginForward.settleOwner slot none) := by
      unfold State.settleOwner
      split
      · exact NoneIssued.refl _
      · split
        · exact NoneIssued.refl _
        · exact NoneIssued.unmapSlot _ _
    exact (begun.trans owner).trans (NoneIssued.of_eq rfl)

/-- The writes held for a station whose check has failed find it unknown, and issue nothing. -/
theorem NoneIssued.settleHeld_failed (h : Joined loose s) (hc : s.context? i = some c) (time : Time) :
    (s.integrityRelease i time).context? i = none ∧
      NoneIssued (s.integrityRelease i time) (s.failIntegrity i time) := by
  have gone : Released s (s.integrityRelease i time) i := by
    refine (s.vacate_released i .integrity).congr ?_ ?_ ?_ ?_ ?_ <;> simp [State.integrityRelease, State.release, hc]
  have port : (s.integrityRelease i time).forwarder = s.forwarder := by simp
  unfold State.failIntegrity
  generalize s.integrityRelease i time = v at *
  refine ⟨gone.gone, ?_⟩
  unfold State.settleHeld
  split
  next idle =>
    have unknown : ∀ x ∈ v.forwarder.held, Table.get? v.table.directory x.key.number = none := by
      intro x hx
      rw [port] at hx
      cases hf : s.flight with
      | none =>
        rw [h.settled hf] at hx
        cases hx
      | some f =>
        have own : f.index = i := by
          by_contra ne
          simp [gone.flight, hf, Option.filter, ne] at idle
        have key := h.held x hx f hf
        have a := h.toLinked.occupied hc
        rw [gone.directory, Table.get?_filter _ _ _ h.directoryWf, key, ← a.flight f hf own,
          (a.directory c.key.number).mpr rfl]
        simp [Option.filter]
    have all : ∀ (l : List HeldWrite) (w : State),
        (∀ x ∈ l, Table.get? w.table.directory x.key.number = none) → NoneIssued w (l.foldl State.fillHeldWrite w) := by
      intro l
      induction l with
      | nil => exact fun w _ => NoneIssued.refl w
      | cons x l ih =>
        intro w hw
        refine (NoneIssued.fillHeldWrite w x (hw x (by simp))).trans (ih _ fun y hy => ?_)
        exact (Shrinks.fillHeldWrite w x).unknown _ (hw y (by simp [hy]))
    exact (NoneIssued.of_eq rfl).trans (all v.forwarder.held { v with forwarder := { v.forwarder with held := [] } } unknown)
  · exact NoneIssued.refl v

theorem Joined.returnToReady (h : Joined true s) (i : Nat) : Joined true (s.returnToReady i) := by
  unfold State.returnToReady
  split
  · exact h
  next c hc =>
    split
    · exact h.failIntegrity _ _
    split
    · exact h
    · exact h
    next issued slot was =>
      refine h.change (h.toLinked.rewrite hc rfl rfl (by rw [was]; rfl) (.inr ⟨rfl, rfl⟩) fun f hf e full => ?_)
      have := ((h.toLinked.occupied hc).full f hf e full).1
      rw [was] at this
      cases this
    · exact h

/-- A context returned to READY is not ISSUED, and none has become so. -/
theorem State.returnToReady_issued (h : Joined true s) (i : Nat) :
    NoneIssued s (s.returnToReady i) ∧ ∀ d, (s.returnToReady i).context? i = some d → d.correction.slot? = none := by
  unfold State.returnToReady
  split
  next vacant => exact ⟨NoneIssued.refl s, fun d hd => by rw [vacant] at hd; cases hd⟩
  next c hc =>
    have only : ∀ k, c.correction = k → k.slot? = none → ∀ d, s.context? i = some d → d.correction.slot? = none := by
      rintro k rfl e d hd
      cases hc.symm.trans hd
      exact e
    split
    · obtain ⟨gone, settled⟩ := NoneIssued.settleHeld_failed h hc s.time.counter
      refine ⟨(NoneIssued.integrityRelease s i _).trans settled, fun d hd => ?_⟩
      cases e : d.correction.slot? with
      | none => rfl
      | some k =>
        obtain ⟨_, hv, -⟩ := settled i d k hd e
        rw [gone] at hv
        cases hv
    split
    next was => exact ⟨NoneIssued.refl s, only _ was rfl⟩
    next was => exact ⟨NoneIssued.refl s, only _ was rfl⟩
    next issued slot was =>
      refine ⟨NoneIssued.writeContext _ _ rfl, fun d hd => ?_⟩
      simp only [State.writeContext_get, if_true, Option.some.injEq] at hd
      rw [← hd]
      rfl
    next was => exact ⟨NoneIssued.refl s, only _ was rfl⟩

/-- Once every context that the slot map names is READY again, none is ISSUED. -/
theorem returnAll (l : List Nat) (h : Joined true s)
    (named : ∀ i c k, s.context? i = some c → c.correction.slot? = some k → i ∈ l) :
    Joined true (l.foldl State.returnToReady s) ∧
      ∀ i c, (l.foldl State.returnToReady s).context? i = some c → c.correction.slot? = none := by
  induction l generalizing s with
  | nil =>
    refine ⟨h, fun i c hc => ?_⟩
    cases e : c.correction.slot? with
    | none => rfl
    | some k => exact absurd (named i c k hc e) (by simp)
  | cons index l ih =>
    obtain ⟨none_, own⟩ := State.returnToReady_issued h index
    refine ih (h.returnToReady index) fun i d k hd e => ?_
    obtain ⟨c, hc, g⟩ := none_ i d k hd e
    rcases List.mem_cons.mp (named i c k hc g) with rfl | m
    · rw [own d hd] at e
      cases e
    · exact m

theorem Joined.clearSlotMap (h : Joined false s) : Joined false s.clearSlotMap := by
  obtain ⟨joined, none_⟩ := returnAll (s.slotMap.map fun p => p.2) h.loosen fun i c k hc e =>
    List.mem_map.mpr ⟨(k, i), Table.mem_keys_of_get? _ _ _ ((h.at_ i).mapped c k hc e), rfl⟩
  refine ⟨⟨fun i => ?_, joined.directoryWf, rfl, joined.reports, joined.held, joined.outside, joined.setup⟩,
    joined.settled⟩
  have a := joined.at_ i
  refine ⟨a.keys, a.directory, fun c k hc e => ?_, fun _ k e => ?_, a.silence, a.confirm, a.busy, a.flight, a.full,
    a.quarantine⟩
  · rw [none_ i c hc] at e
    cases e
  · cases e

/-! ### Applies -/

theorem Joined.rejudgeHeld (h : Joined loose s) : Joined loose s.rejudgeHeld := by
  refine ⟨h.toLinked.withHeld fun x hx => ?_, fun e => ?_⟩
  · obtain ⟨y, hy, rfl⟩ := List.mem_map.mp hx
    exact h.held y hy
  · simp only [State.rejudgeHeld]
    rw [h.settled e]
    rfl

theorem Joined.restartRing (h : Joined loose s) : Joined loose s.restartRing := h.congr rfl

/-- An apply that passes starts a part in SETUP, and leaves one that is STOPPED as it is. -/
theorem Joined.afterApply (h : Joined loose s) : Joined loose { s with part := s.part.afterApply } := by
  refine ⟨⟨fun i => (h.at_ i).of_same ⟨rfl, fun _ => .rfl, fun _ => .rfl, fun _ => rfl, fun _ _ => .rfl, id⟩,
    h.directoryWf, h.slotMapWf, h.reports, h.held, fun e => h.outside ?_, fun e => ?_⟩, h.settled⟩
  · intro running
    simp [running, PartState.afterApply] at e
  · cases g : s.part <;> simp [g, PartState.afterApply] at e

theorem Joined.adoptSettings (h : Joined false s) : Joined false s.adoptSettings := by
  have h1 : Joined false { s with settings := { s.settings with active := adoptedWords s.settings.staging } } := h.congr rfl
  have h2 := Joined.ite (p := stagingMoved s.settings.active (adoptedWords s.settings.staging) = true) h1.rejudgeHeld h1
  have h3 := foldl_keeps (P := Joined false) (f := fun u c => u.closeChannel c 2)
    ((List.range Config.channelCount).filter fun c =>
      channelOpen s.settings.active c && !channelOpen (adoptedWords s.settings.staging) c)
    (fun u c _ h => h.closeChannel c 2) h2
  have h4 := foldl_keeps (P := Joined false) (f := State.openChannel)
    ((List.range Config.channelCount).filter fun c =>
      !channelOpen s.settings.active c && channelOpen (adoptedWords s.settings.staging) c)
    (fun u c _ h => h.congr rfl) h3
  have h5 := Joined.ite (p := stagingMoved s.settings.active (adoptedWords s.settings.staging) = true) h4.clearSlotMap h4
  have h6 := Joined.ite (p := eventRingMoved s.settings.active (adoptedWords s.settings.staging) = true) h5.restartRing h5
  exact h6.afterApply.congr rfl

theorem Joined.takeApply (h : Joined false s) : Joined false s.takeApply := by
  unfold State.takeApply State.applySettings
  split
  · exact h.congr (State.applyAnswer_links _ _ _)
  · split
    · exact h.adoptSettings.congr (State.applyAnswer_links _ _ _)
    · exact h.congr (State.applyAnswer_links _ _ _)

/-! ### Commands -/

theorem Joined.findStation (h : Joined loose s) (n : StationName) : Joined loose (s.findStation n).1 := by
  unfold State.findStation
  split
  · exact h
  · exact (h.toLinked.lookup _ _).settle

theorem Joined.stationDrop (h : Joined loose s) (n : StationName) : Joined loose (s.stationDrop n).1 := by
  have found := h.findStation n
  unfold State.stationDrop
  split
  · exact h
  split
  next e => rwa [e] at found
  next e =>
    rw [e] at found
    exact found.toLinked.releaseStation _ _ _ _

theorem Joined.stationRestart (h : Joined loose s) (n : StationName) : Joined loose (s.stationRestart n).1 := by
  have found := h.findStation n
  unfold State.stationRestart
  split
  · exact h
  split
  next e => rwa [e] at found
  next e =>
    rw [e] at found
    exact ((found.toLinked.abandonFor _).restart _ _ _ _).settle

/-- A station that an open channel's number and a tag do not find has no directory entry. -/
theorem Linked.findStation_none (h : Linked loose s) {n : StationName} {channel : Nat}
    (claimed : claimant s.settings.active n.number = some channel) (e : s.findStation n = (t, none)) :
    Table.get? t.table.directory (Key.number { channel := channel, tag := n.tag }) = none := by
  unfold State.findStation at e
  rw [claimed] at e
  dsimp only at e
  cases hl : s.lookup { channel := channel, tag := n.tag } s.time.counter with
  | mk u found =>
    rw [hl] at e
    cases e
    exact (Shrinks.settleHeld u).unknown _ (h.lookup_none hl)

theorem Joined.moveStation (h : Joined loose s) (source : Nat) (c : Context) {target : Key}
    (running : s.part = .running) (tag : tagInRange target.tag = true)
    (unknown : Table.get? s.table.directory target.number = none) : Joined loose (s.moveStation source c target) := by
  unfold State.moveStation
  dsimp only
  have released := h.toLinked.releaseStation source .moved s.time.counter 0
  have shrunk := Shrinks.releaseStation s source .moved s.time.counter 0
  split
  · exact released
  next free =>
    obtain ⟨vacant, healthy⟩ := State.lowestFree_vacant free
    refine released.change (Linked.congr ?_ (State.handOn_links _ _ _))
    exact released.toLinked.occupy vacant healthy (by simpa using running) tag (shrunk.unknown _ unknown) _ _ _ _ _ _

theorem Joined.stationMove (h : Joined loose s) (running : s.part = .running) (origin target : StationName) :
    Joined loose (s.stationMove origin target).1 := by
  have first := h.findStation origin
  have part1 := (s.findStation_frame origin).2.2.1
  unfold State.stationMove
  split
  · exact h
  next inRange =>
    have tag : tagInRange target.tag = true := by
      simp only [StationName.inRange, Bool.not_eq_true', Bool.not_eq_false, Bool.and_eq_true] at inRange
      exact inRange.2.2
    split
    next e => rwa [e] at first
    next t source e =>
      rw [e] at first part1
      have second := first.findStation target
      have settings2 : (State.findStation t target).1.settings = t.settings := by simp
      have part2 := (State.findStation_frame t target).2.2.1
      split
      next e => rwa [e] at second
      next u e =>
        rw [e] at second settings2 part2
        replace second : Joined loose u := second
        split
        · exact second
        · exact second
        next channel c claimed _ =>
          split
          · have claimed : claimant t.settings.active target.number = some channel := by
              rw [← settings2]
              exact claimed
            dsimp only
            exact second.moveStation source c (part2.trans (part1.trans running)) tag
              (first.toLinked.findStation_none claimed e)
          · exact second

theorem Joined.errorClear (h : Joined loose s) (argument : Word) : Joined loose (s.errorClear argument) := by
  unfold State.errorClear
  let errors := s.events.errors &&& ~~~(argument.setWidth 10 : BitVec 10)
  let cleared : State := { s with events := { s.events with errors := errors } }
  have h1 : Joined loose cleared := h.congr rfl
  have healed : Joined loose { cleared with table := { cleared.table with quarantined := [] } } :=
    ⟨⟨fun i => (h1.at_ i).of_same ⟨rfl, fun _ => .rfl, fun _ => .rfl, fun _ => rfl, fun _ _ => .rfl, nofun⟩,
      h1.directoryWf, h1.slotMapWf, h1.reports, h1.held, h1.outside, h1.setup⟩, h1.settled⟩
  have h2 := Joined.ite (p := (argument.setWidth 10 : BitVec 10).getLsbD ErrorKind.contextIntegrity.code = true)
    (healed.congr (State.issueStatus_links _ Config.freeCountWord)) h1
  have h3 := Joined.ite (p := errors = s.events.errors) h2 (h2.congr (State.issueStatus_links _ Config.errorStatusWord))
  exact h3.emptyPointer _

theorem State.clearForSetup_joined (empty : s.forwarder.held = []) : Joined loose s.clearForSetup := by
  refine ⟨⟨fun i => VacantAt.linked ⟨?_, ?_, ?_, ?_, ?_⟩ rfl, rfl, rfl, ?_, ?_, fun _ => rfl, fun _ => rfl⟩, ?_⟩
  · exact nofun
  · exact nofun
  · exact fun _ => rfl
  · rfl
  · exact nofun
  · simp [State.clearForSetup]
  · simp [State.clearForSetup]
  · exact fun _ => empty

theorem State.softReset_joined (s : State) (sequence : BitVec 16) : Joined loose (s.softReset sequence) := by
  have cleared : Joined loose s.endFlight.forwardHeldUnfilled.clearForSetup :=
    State.clearForSetup_joined (State.forwardHeldUnfilled_forwarder_held _)
  unfold State.softReset
  refine foldl_keeps _ (fun u word _ h => h.congr (State.issueStatus_links _ _))
    (Joined.congr ?_ (State.commandAnswer_links _ _ _ _ _))
  split
  · exact cleared
  · exact cleared.congr (State.commandAnswer_links _ _ _ _ _)

theorem Joined.answerCommand (h : Joined loose s) (code : Nat) (first second : Word) :
    Joined loose (s.answerCommand code first second).1 := by
  have whenRunning : ∀ f : State → Answered, (s.part = .running → Joined loose (f s).1) →
      Joined loose (s.whenRunning f).1 := by
    intro f hf
    unfold State.whenRunning
    split
    next running => exact hf (by simpa [State.running] using running)
    · exact h
  unfold State.answerCommand
  split
  · refine whenRunning _ fun _ => ?_
    unfold State.channelClose
    split
    · exact h
    split
    · exact h
    · exact h.closeChannel _ 1
  split
  · exact whenRunning _ fun _ => h.stationDrop _
  split
  · exact whenRunning _ fun _ => h.stationRestart _
  split
  · exact whenRunning _ fun running => h.stationMove running _ _
  · exact h.errorClear _

theorem Joined.takeCommand (h : Joined loose s) : Joined loose s.takeCommand := by
  unfold State.takeCommand
  dsimp only
  split
  · exact h
  split
  · exact h.congr rfl
  split
  · exact s.softReset_joined _
  split
  · exact h.congr rfl
  split
  · split
    · exact h.congr rfl
    · unfold State.startDrain
      split <;> exact h.congr rfl
  · exact (h.answerCommand _ _ _).congr rfl

theorem Joined.writeOutHeld (h : Joined loose s) : Joined loose s.writeOutHeld := h.congr (by simp [State.links])

theorem Joined.offerConsumer (h : Joined loose s) : Joined loose s.offerConsumer := by
  unfold State.offerConsumer
  dsimp only
  split
  · refine Joined.writeOutHeld ?_
    split <;> exact h.congr rfl
  · exact h

/-! ### Requests -/

theorem Joined.settingsWrite (h : Joined false s) (r : Request) : Joined false (s.settingsWrite r) := by
  have stop : ∀ t, Joined false t → Joined false (State.stopIfDue t) := fun t h => h.stopIfDue
  have copied : Joined false (s.copySettings r) := h.congr rfl
  unfold State.settingsWrite
  split
  · exact State.onControl_keeps stop (State.onControl_keeps stop (State.onControl_keeps stop copied r _
      Joined.takeApply) r _ Joined.takeCommand) r _ Joined.offerConsumer
  · exact h

theorem Joined.blockWrite (h : Joined loose s) (r : Request) : Joined loose (s.blockWrite r) := by
  refine h.congr ?_
  unfold State.blockWrite
  exact State.setError_links _ _ _

theorem Joined.passed (h : Joined loose s) (serial : Nat) (r : Request) :
    Joined loose (s.beginForward.forwardAs serial r) := h.congr (by simp)

theorem Joined.passWrite (h : Joined false s) (r : Request) : Joined false (s.passWrite r) :=
  Joined.settingsWrite (Joined.congr (((h.passed _ r).intakeWrite r).notTaken r).stopIfDue (State.withCause_links _ _)) r

theorem Joined.passResponse (h : Joined loose s) (r : Request) (slot : Nat) : Joined loose (s.passResponse r slot) := by
  have begun : Joined loose s.beginForward := h.congr (by simp)
  have filled : ∀ u serial key found, Joined loose u → Joined loose (State.fillAndForward u serial r key slot found) :=
    fun u serial key found hu => hu.change (hu.toLinked.fillAndForward _ _ _ _ _)
  unfold State.passResponse
  split
  next key _ _ =>
    split
    · refine filled _ _ _ _ (Joined.congr (Linked.settle ?_) (State.withCause_links _ _))
      exact begun.toLinked.lookup _ _
    · exact filled _ _ _ _ begun
  · exact begun.change (Linked.congr (begun.toLinked.unmapSlot _) (State.forwardAs_links _ _ _))

theorem Joined.deliver (h : Joined false s) (slot : Nat) : Joined false (s.deliver slot) := by
  unfold State.deliver
  dsimp only
  split
  · exact h
  next mapped =>
    split
    · exact h
    next hc =>
      split
      · exact h.failIntegrity _ _
      split
      · exact h
      · exact h
      next was =>
        split
        · exact h.releaseStation _ _ _ _
        · exact h.change (h.toLinked.deliver hc mapped was _ _) rfl rfl
      · exact h

theorem Joined.passRead (h : Joined false s) (r : Request) : Joined false (s.passRead r) := by
  have passed : Joined false ((s.beginForward.forwardAs s.forwarder.nextSerial r).withCause none) :=
    (h.passed _ r).congr rfl
  unfold State.passRead
  dsimp only
  split
  · exact passed
  · exact passed.deliver _

theorem State.stallPort_links (s : State) (o : Origin) : (s.stallPort o).links = s.links := by
  cases o <;> rfl

/-- A response that wants a held place is of the station in flight. -/
theorem Linked.wantsHold (h : Linked loose s) {r : Request} {key : Key} (e : s.wantsHold r = some key) :
    ∃ f, s.flight = some f ∧ key = f.report.key := by
  unfold State.wantsHold at e
  split at e
  · split at e
    · cases e
    split at e
    · cases e
    next c found =>
      split at e
      next busy =>
        cases e
        simp only [Bool.and_eq_true] at busy
        obtain ⟨⟨tag, -⟩, busy⟩ := busy
        obtain ⟨index, known, hc⟩ := Option.bind_eq_some_iff.mp found
        obtain ⟨d, hd, key⟩ := h.found tag known
        cases hc.symm.trans hd
        have a := h.occupied hc
        obtain ⟨f, hf, at_⟩ := a.busy.mp busy
        exact ⟨f, hf, key.symm.trans (a.flight f hf at_)⟩
      · cases e
  · cases e

theorem Joined.settleResponse (h : Joined loose s) (o : Origin) (r : Request) (slot : Nat) :
    Joined loose (s.settleResponse o r slot) := by
  have left : Joined loose (s.leaving o) := h.congr (State.leaving_links _ _)
  unfold State.settleResponse
  split
  next key wants =>
    obtain ⟨f, hf, e⟩ := h.toLinked.wantsHold wants
    split
    · have busy : (s.leaving o).flight = some f := by simpa using hf
      refine ⟨left.toLinked.withHeld fun x hx g hg => ?_, fun idle => ?_⟩
      · rcases List.mem_append.mp hx with hx | hx
        · exact left.held x hx g hg
        · rw [List.mem_singleton.mp hx]
          cases busy.symm.trans hg
          exact e
      · have idle : (s.leaving o).flight = none := idle
        rw [busy] at idle
        cases idle
    · exact h.congr (State.stallPort_links _ _)
  · exact left.passResponse r slot

theorem State.joinWaiting_links (s : State) (o : Origin) (r : Request) : (s.joinWaiting o r).links = s.links := by
  cases o with
  | waiting source => rfl
  | port q =>
    simp only [State.joinWaiting]
    split <;> rfl
  | stalled =>
    simp only [State.joinWaiting]
    split <;> rfl

theorem Joined.settlePass (h : Joined false s) (o : Origin) (kind : Request → Bool) : Joined false (s.settlePass o kind) :=
  State.settle_keeps h fun r _ _ _ => Joined.passWrite (h.congr (State.leaving_links _ _)) r

theorem Joined.ackOwn (h : Joined loose s) (tag : BitVec 8) (status : CompletionStatus) : Joined loose (s.ackOwn tag status) := by
  refine h.congr ?_
  unfold State.ackOwn
  split
  · rfl
  · dsimp only
    split
    · exact State.setError_links _ _ _
    · rfl

/-! ### Every step -/

/-- Every effect keeps the agreement. -/
theorem Joined.effect (h : Joined false s) (c : Instr) : Joined false (effect c s) := by
  have left : ∀ o, Joined false (s.leaving o) := fun o => h.congr (State.leaving_links _ _)
  cases c with
  | powerOnReset straps | rstnLow => exact h
  | syncLoad | pclkTick => exact h.congr rfl
  | requestWait o =>
    simp only [Machine.effect]
    split
    · exact h
    · split
      · exact h
      · exact h.congr (State.joinWaiting_links _ _ _)
  | forwardRead o | deliveryRead o => exact State.settle_keeps h fun r _ _ _ => (left o).passRead r
  | blockedWrite o => exact State.settle_keeps h fun r _ _ _ => (left o).blockWrite r
  | responseWrite o => exact State.settle_keeps h fun r _ _ _ => h.settleResponse o r _
  | forwardWrite o | reportWrite o | tornWrite o | responseNotTaken o | settingsWrite o | applyWrite o
  | consumerIndexWrite o | softReset o | channelClose o | stationDrop o | stationRestart o | stationMove o | drain o
  | errorClear o => exact h.settlePass o _
  | drainDone =>
    simp only [Machine.effect, State.finishDrain]
    split
    · exact h
    · split
      · exact h.congr rfl
      · exact h
  | memoryCompletion c =>
    refine h.congr ?_
    simp only [Machine.effect, State.returnCompletion]
    (repeat' split) <;> rfl
  | ownWriteSend => exact h.congr (by simp [Machine.effect, State.links])
  | ownWriteAck tag status => exact h.ackOwn tag status
  | eventWriteOut => exact h.congr (by simp [Machine.effect, State.links])
  | takeHead => exact h.takeHead
  | ageingCount =>
    simp only [Machine.effect]
    split
    · exact h.ageByCount
    · exact h
  | notedCompletion => exact h.completeNoted
  | fullCompletion => exact h.completeFull
  | silenceExpiry => exact h.fireSilence
  | confirmExpiry => exact h.fireConfirm
  | ageingTimer => exact h.fireAgeingTimer

theorem Joined.holdInReset (h : Joined loose s) : Joined loose s.holdInReset := by
  have empty : Joined loose { s with forwarder := { s.forwarder with held := [] } } :=
    ⟨h.toLinked.withHeld nofun, fun _ => rfl⟩
  exact empty.congr rfl

/-- At power-on there is nothing to disagree about. -/
theorem powerOn_joined (straps : Straps) (pending : List Instr) : Joined loose (State.powerOn straps pending) := by
  refine ⟨⟨fun i => VacantAt.linked ⟨nofun, nofun, fun _ => rfl, rfl, nofun⟩ rfl, rfl, rfl, ?_, ?_, fun _ => rfl,
    fun _ => rfl⟩, fun _ => rfl⟩ <;> simp [State.powerOn]

theorem Joined.exec {c : Instr} (h : Joined false s) (ran : exec c s = .next t) : Joined false t := by
  rcases exec_cases ran with ⟨straps, -, rfl⟩ | ⟨-, rfl⟩ | ⟨-, rfl⟩ | ⟨-, -, -, rfl⟩
  · exact powerOn_joined _ _
  · exact h.holdInReset
  · exact h
  · exact (h.effect c).finish

/-! ### Between steps -/

/-- What the statements call agreement is what a step keeps within it. -/
theorem joined_iff (canonical : Canonical s) : Joined false s ↔ Agrees s := by
  constructor
  · intro h
    exact
      { keys := fun i => (h.at_ i).keys
        reports := h.reports
        directory := fun n i => (h.at_ i).directory n
        slotMap := fun slot i => by
          constructor
          · intro e
            obtain ⟨c, hc, k⟩ := (h.at_ i).owner rfl slot e
            obtain ⟨issued, k⟩ := Correction.slot?_eq_some.mp k
            exact ⟨c, issued, hc, k⟩
          · rintro ⟨c, issued, hc, k⟩
            exact (h.at_ i).mapped c slot hc (Correction.slot?_eq_some.mpr ⟨issued, k⟩)
        silence := fun i => (h.at_ i).silence
        confirm := fun i => (h.at_ i).confirm
        busy := fun i => (h.at_ i).busy
        flight := fun f hf => (h.at_ f.index).flight f hf rfl
        full := fun f c hf => (h.at_ f.index).full f c hf rfl
        held := fun x hx => by
          cases hf : s.flight with
          | none => rw [h.settled hf] at hx; cases hx
          | some f => exact ⟨f, rfl, h.held x hx f hf⟩
        quarantine := fun i => (h.at_ i).quarantine
        outside := h.outside
        setup := h.setup }
  · intro h
    refine ⟨⟨fun i => ?_, canonical.directory, canonical.slotMap, h.reports, ?_, h.outside, h.setup⟩, ?_⟩
    · refine ⟨h.keys i, fun n => h.directory n i, fun c slot hc k => ?_, fun _ slot e => ?_, h.silence i, h.confirm i,
        h.busy i, ?_, ?_, h.quarantine i⟩
      · obtain ⟨issued, k⟩ := Correction.slot?_eq_some.mp k
        exact (h.slotMap slot i).mpr ⟨c, issued, hc, k⟩
      · obtain ⟨c, issued, hc, k⟩ := (h.slotMap slot i).mp e
        exact ⟨c, hc, Correction.slot?_eq_some.mpr ⟨issued, k⟩⟩
      · rintro f hf rfl
        exact h.flight f hf
      · rintro f c hf rfl
        exact h.full f c hf
    · intro x hx f hf
      obtain ⟨g, hg, e⟩ := h.held x hx
      cases hf.symm.trans hg
      exact e
    · intro idle
      refine List.eq_nil_iff_forall_not_mem.mpr fun x hx => ?_
      obtain ⟨f, hf, -⟩ := h.held x hx
      rw [idle] at hf
      cases hf

/-- Settles O8: the agreement is kept by every operation of a step, held writes being settled where a correction ends. -/
theorem stepKeepsAgreement : Obligations.StepKeepsAgreement := by
  intro s t bounded canonical agrees ran
  have after := (stepKeepsCapacities s t bounded canonical ran).2
  rcases step_cases ran with rfl | ⟨c, rest, -, ran⟩
  · exact agrees
  have within : Joined false { s with pending := rest } := ((joined_iff canonical).mpr agrees).congr rfl
  exact (joined_iff after).mp (within.exec ran)

end Sys2Proof.Machine
end

section
/-!
Requests in the part: what a fill leaves of a request, how held writes leave, and that no operation forgets one.
-/

namespace Sys2Proof.Machine

set_option Elab.async false

variable {s t u : State}

/-! ### What a fill leaves of a request (R102, R137) -/

theorem Fill.patch_length (f : Fill) (main j : Nat) (ws : List LaneWord) : (f.patch main j ws).length = ws.length := by
  induction ws generalizing j with
  | nil => rfl
  | cons w ws ih => simp [Fill.patch, ih]

theorem Fill.patch_getElem? (f : Fill) (main j k : Nat) (ws : List LaneWord) :
    (f.patch main j ws)[k]? = ws[k]?.map fun w => { w with data := f.word main (j + k) w.data } := by
  induction ws generalizing j k with
  | nil => rfl
  | cons w ws ih =>
    cases k with
    | zero => rfl
    | succ k =>
      simp only [Fill.patch, List.getElem?_cons_succ, ih]
      rw [show j + 1 + k = j + (k + 1) by omega]

/-- Words before the third and after the 22nd stay as they were. -/
theorem Fill.word_other (f : Fill) (main : Nat) {k : Nat} (h : ¬(2 ≤ k ∧ k ≤ 21)) (old : Word) : f.word main k old = old := by
  unfold Fill.word
  rw [if_neg (by omega), if_neg (by omega), if_neg (by omega), if_neg (by omega), if_neg (by omega)]

theorem Fill.laneWords_request (f : Fill) (main : Nat) (r : Request) :
    Request.laneWords (f.request main r) = f.patch main 0 (Request.laneWords r) := by
  obtain ⟨address, source, tag, body⟩ := r
  cases body <;> rfl

/-- Word by word, what a fill makes of a request. -/
theorem Fill.request_getElem? (f : Fill) (main : Nat) (r : Request) (k : Nat) :
    (Request.laneWords (f.request main r))[k]? =
      (Request.laneWords r)[k]?.map fun w => { w with data := f.word main k w.data } := by
  rw [f.laneWords_request, f.patch_getElem?, Nat.zero_add]

/-- A fill leaves address, source, tag, kind and length. -/
theorem Fill.request_frame (f : Fill) (main : Nat) (r : Request) :
    (f.request main r).address = r.address ∧ (f.request main r).source = r.source ∧ (f.request main r).tag = r.tag ∧
      (f.request main r).words = r.words ∧ Request.isWrite (f.request main r) = Request.isWrite r := by
  obtain ⟨address, source, tag, body⟩ := r
  cases body with
  | read n => exact ⟨rfl, rfl, rfl, rfl, rfl⟩
  | write ws => exact ⟨rfl, rfl, rfl, f.patch_length main 0 ws, rfl⟩

theorem Request.carries_self (r : Request) : Request.carries r r = true := by simp [Request.carries]

theorem Fill.request_carries (f : Fill) (main : Nat) (r : Request) : Request.carries (f.request main r) r = true := by
  obtain ⟨h1, h2, h3, h4, h5⟩ := f.request_frame main r
  have lanes : (Request.laneWords (f.request main r)).map LaneWord.lanes = (Request.laneWords r).map LaneWord.lanes := by
    refine List.ext_getElem? fun k => ?_
    simp [f.request_getElem? main r k, Function.comp_def]
  have data : ∀ k, ¬(2 ≤ k ∧ k ≤ 21) → (Request.laneWords (f.request main r))[k]? = (Request.laneWords r)[k]? := by
    intro k hk
    simp [f.request_getElem? main r k, f.word_other main hk]
  unfold Request.carries
  simp only [h1, h2, h3, h4, h5, lanes, beq_self_eq_true, Bool.true_and, List.all_eq_true, Bool.or_eq_true,
    Bool.and_eq_true, decide_eq_true_eq, beq_iff_eq]
  intro k _
  by_cases hk : 2 ≤ k ∧ k ≤ 21
  · exact .inl hk
  · exact .inr (data k hk)

/-! ### Held writes leave together, or stay -/

/-- Between these states the held writes have all been forwarded, each as a request that carries it, or all are still held;
no own write has been sent unless they have been. -/
structure Releases (s t : State) : Prop where
  forwards : ∃ out, Forwards s t out ∧
    (out = [] → t.own.nextTag = s.own.nextTag ∧ t.own.outstanding = s.own.outstanding) ∧
    (t.forwarder.held.map HeldWrite.request = s.forwarder.held.map HeldWrite.request ∧ out = [] ∨
      t.forwarder.held = [] ∧
        List.Forall₂ (fun q r => Request.carries q r = true) out (s.forwarder.held.map HeldWrite.request))

/-- What touches neither the forwarder nor what has been sent. -/
theorem Releases.quiet (forwarder : t.forwarder = s.forwarder := by simp)
    (nextTag : t.own.nextTag = s.own.nextTag := by simp)
    (outstanding : t.own.outstanding = s.own.outstanding := by simp)
    (straps : t.pins.straps = s.pins.straps := by simp) : Releases s t :=
  ⟨[], (Forwards.none s s.forwarder.held).congr rfl rfl rfl forwarder outstanding straps,
    fun _ => ⟨nextTag, outstanding⟩, .inl ⟨by rw [forwarder], rfl⟩⟩

theorem Releases.refl (s : State) : Releases s s := Releases.quiet rfl rfl rfl rfl

theorem Releases.trans (h : Releases s t) (g : Releases t u) : Releases s u := by
  obtain ⟨x, fx, ox, hx⟩ := h.forwards
  obtain ⟨y, fy, oy, hy⟩ := g.forwards
  refine ⟨x ++ y, fx.trans fy, fun e => ?_, ?_⟩
  · obtain ⟨ex, ey⟩ := List.append_eq_nil_iff.mp e
    exact ⟨(oy ey).1.trans (ox ex).1, (oy ey).2.trans (ox ex).2⟩
  · rcases hx with ⟨hx, rfl⟩ | ⟨hx, cx⟩
    · rw [hx] at hy
      exact hy
    · rw [hx] at hy
      rcases hy with ⟨hy, rfl⟩ | ⟨hy, cy⟩
      · exact .inr ⟨List.map_eq_nil_iff.mp hy, by rw [List.append_nil]; exact cx⟩
      · cases cy
        exact .inr ⟨hy, by rw [List.append_nil]; exact cx⟩

theorem Releases.foldl {α : Type} {f : State → α → State} (h : ∀ s b, Releases s (f s b)) (l : List α) (s : State) :
    Releases s (l.foldl f s) :=
  foldl_keeps (P := Releases s) l (fun u b _ hu => hu.trans (h u b)) (Releases.refl s)

theorem Releases.goOn {f : State → State} (h : Releases s t) (g : Releases t (f t)) : Releases s (t.goOn f) :=
  h.trans (State.goOn_keeps (P := Releases t) (Releases.refl t) fun _ => g)

/-- Held writes leave one after another. -/
theorem Releases.held {f : State → HeldWrite → State}
    (one : ∀ (u : State) h, ∃ q, Forwards u (f u h) [q] ∧ Request.carries q h.request = true)
    (kept : ∀ (u : State) h, (f u h).forwarder.held = u.forwarder.held) (s : State) :
    Releases s (s.forwarder.held.foldl f { s with forwarder := { s.forwarder with held := [] } }) := by
  have all : ∀ (l : List HeldWrite) (u : State), u.forwarder.held = [] → ∃ out, Forwards u (l.foldl f u) out ∧
      (l.foldl f u).forwarder.held = [] ∧
      List.Forall₂ (fun q r => Request.carries q r = true) out (l.map HeldWrite.request) := by
    intro l
    induction l with
    | nil => exact fun u e => ⟨[], (Forwards.none u u.forwarder.held), e, .nil⟩
    | cons h l ih =>
      intro u e
      obtain ⟨q, fq, cq⟩ := one u h
      obtain ⟨out, fo, eo, co⟩ := ih (f u h) ((kept u h).trans e)
      exact ⟨q :: out, fq.trans fo, eo, .cons cq co⟩
  obtain ⟨out, fo, eo, co⟩ := all s.forwarder.held { s with forwarder := { s.forwarder with held := [] } } rfl
  refine ⟨out, (Forwards.none s []).trans fo, fun e => ?_, .inr ⟨eo, co⟩⟩
  subst e
  have none_ : s.forwarder.held = [] := List.map_eq_nil_iff.mp (List.forall₂_nil_left_iff.mp co)
  rw [none_]
  exact ⟨rfl, rfl⟩

theorem Releases.forwardHeldUnfilled (s : State) : Releases s s.forwardHeldUnfilled := by
  refine Releases.held (f := State.forwardUnfilled) (fun u h => ⟨h.request, ?_, Request.carries_self _⟩) (fun u h => by simp) s
  exact (Forwards.one u u.beginForward h.request rfl rfl (by simp)).congr rfl rfl rfl rfl rfl rfl

/-- A fill forwards a request that carries the response. -/
theorem Forwards.fillAndForward (s v : State) (r : Request) (key : Key) (slot : Nat) (found : Option Nat)
    (hf : v.forwarder = s.beginForward.forwarder) (ho : v.own.outstanding = s.beginForward.own.outstanding)
    (hp : v.pins.straps = s.pins.straps) :
    ∃ q, Forwards s (v.fillAndForward s.forwarder.nextSerial r key slot found) [q] ∧ Request.carries q r = true := by
  unfold State.fillAndForward
  refine ⟨_, Forwards.one s _ _ ?_ ?_ ?_, Fill.request_carries _ _ r⟩ <;> (repeat' split) <;> simp [hf, ho, hp]

/-- A held write is filled and forwarded as a request that carries it. -/
theorem Forwards.fillHeldWrite (s : State) (h : HeldWrite) :
    ∃ q, Forwards s (s.fillHeldWrite h) [q] ∧ Request.carries q h.request = true := by
  unfold State.fillHeldWrite
  dsimp only
  split
  · refine ⟨h.request, ?_, Request.carries_self _⟩
    exact (Forwards.one s (s.beginForward.notTaken h.request) h.request (by simp) (by simp) (by simp)).congr
      rfl rfl rfl rfl rfl rfl
  · obtain ⟨q, fq, cq⟩ := Forwards.fillAndForward s _ h.request h.key _ _
      (by simp : (s.beginForward.lookup h.key s.beginForward.time.counter).1.forwarder = s.beginForward.forwarder)
      (by simp) (by simp)
    exact ⟨q, fq.congr rfl rfl rfl rfl rfl rfl, cq⟩

/-! ### What own steps leave -/

/-- What is read and written through the window alone: the consumer index, and the results of applies and commands. -/
def State.registers (s : State) := (s.events.consumer, s.events.applyResult, s.events.commandResult)

@[simp] theorem State.markError_registers (s : State) (k : ErrorKind) :
    (s.markError k).1.events.applyResult = s.events.applyResult ∧
      (s.markError k).1.events.commandResult = s.events.commandResult := by
  and_intros <;>
    (simp only [State.markError]
     (repeat' split) <;> simp)

@[simp] theorem State.handOn_registers (s : State) (f : EventFields) (time : Time) :
    (s.handOn f time).events.applyResult = s.events.applyResult ∧
      (s.handOn f time).events.commandResult = s.events.commandResult :=
  ⟨State.handOn_leaves (fun t => t.events.applyResult) (fun _ _ => by simp) (fun _ _ => by simp) s f time,
    State.handOn_leaves (fun t => t.events.commandResult) (fun _ _ => by simp) (fun _ _ => by simp) s f time⟩

@[simp] theorem State.setError_registers (s : State) (k : ErrorKind) (time : Time) :
    (s.setError k time).events.applyResult = s.events.applyResult ∧
      (s.setError k time).events.commandResult = s.events.commandResult :=
  ⟨State.setError_leaves (fun t => t.events.applyResult) (fun _ _ => by simp) (fun _ _ _ => by simp) s k time,
    State.setError_leaves (fun t => t.events.commandResult) (fun _ _ => by simp) (fun _ _ _ => by simp) s k time⟩

@[simp] theorem State.release_registers (s : State) (i : Nat) (reason : ReleaseReason) (time : Time) (stage : Nat) :
    (s.release i reason time stage).registers = s.registers := by
  unfold State.release State.registers
  split <;> simp

@[simp] theorem State.integrityRelease_registers (s : State) (i : Nat) (time : Time) :
    (s.integrityRelease i time).registers = s.registers := by
  have h := s.release_registers i .integrity time 0
  simp only [State.registers, Prod.mk.injEq] at h
  simp [State.registers, State.integrityRelease, h]

@[simp] theorem State.lookup_registers (s : State) (key : Key) (time : Time) :
    (s.lookup key time).1.registers = s.registers := by
  unfold State.lookup
  (repeat' split) <;> simp

@[simp] theorem State.restart_registers (s : State) (i : Nat) (a : Table Word) (time : Time) (reason : Nat) :
    (s.restart i a time reason).registers = s.registers := by
  unfold State.restart State.registers
  split <;> simp

@[simp] theorem State.confirm_registers (s : State) (i : Nat) (c : Context) (issued : Issued) (delivered time : Time) :
    (s.confirm i c issued delivered time).registers = s.registers := by
  simp [State.confirm, State.registers]

@[simp] theorem State.withdraw_registers (s : State) (i : Nat) (c : Context) (issued : Issued) (delivered time : Time) :
    (s.withdraw i c issued delivered time).registers = s.registers := by
  simp [State.withdraw, State.registers]

@[simp] theorem State.markFull_registers (s : State) : s.markFull.registers = s.registers := rfl

@[simp] theorem State.writeContext_registers (s : State) (i : Nat) (c : Context) :
    (s.writeContext i c).registers = s.registers := rfl

@[simp] theorem State.testCorrection_registers (s : State) (i : Nat) (a : Table Word) (report : Report) (time : Time) :
    (s.testCorrection i a report time).registers = s.registers := by
  unfold State.testCorrection
  (repeat' split) <;> simp

@[simp] theorem State.setFallback_registers (s : State) (f : Fallback) : (s.setFallback f).registers = s.registers := by
  cases f <;> simp [State.setFallback, State.registers]

/-- Between these states the part has made steps of its own: held writes leave together, or stay, and the registers that are
written through the window stay. -/
structure Internal (s t : State) : Prop extends Releases s t where
  registers : t.registers = s.registers

theorem Internal.quiet (forwarder : t.forwarder = s.forwarder := by simp)
    (nextTag : t.own.nextTag = s.own.nextTag := by simp)
    (outstanding : t.own.outstanding = s.own.outstanding := by simp)
    (straps : t.pins.straps = s.pins.straps := by simp)
    (registers : t.registers = s.registers := by simp [State.registers]) : Internal s t :=
  ⟨Releases.quiet forwarder nextTag outstanding straps, registers⟩

theorem Internal.refl (s : State) : Internal s s := ⟨Releases.refl s, rfl⟩

theorem Internal.trans (h : Internal s t) (g : Internal t u) : Internal s u :=
  ⟨h.toReleases.trans g.toReleases, g.registers.trans h.registers⟩

theorem Internal.foldl {α : Type} {f : State → α → State} (h : ∀ s b, Internal s (f s b)) (l : List α) (s : State) :
    Internal s (l.foldl f s) :=
  foldl_keeps (P := Internal s) l (fun u b _ hu => hu.trans (h u b)) (Internal.refl s)

theorem Internal.goOn {f : State → State} (h : Internal s t) (g : Internal t (f t)) : Internal s (t.goOn f) :=
  h.trans (State.goOn_keeps (P := Internal t) (Internal.refl t) fun _ => g)

theorem Internal.release (s : State) (i : Nat) (reason : ReleaseReason) (time : Time) (stage : Nat) :
    Internal s (s.release i reason time stage) := Internal.quiet (registers := by simp)

theorem Internal.integrityRelease (s : State) (i : Nat) (time : Time) : Internal s (s.integrityRelease i time) :=
  Internal.quiet (registers := by simp)

theorem Internal.lookup (s : State) (key : Key) (time : Time) : Internal s (s.lookup key time).1 :=
  Internal.quiet (registers := by simp)

theorem State.notTaken_registers (s : State) (r : Request) : (s.notTaken r).registers = s.registers := by
  unfold State.notTaken State.registers
  dsimp only
  (repeat' split) <;> simp

theorem State.fillHeldWrite_registers (s : State) (h : HeldWrite) : (s.fillHeldWrite h).registers = s.registers := by
  have begun : s.beginForward.registers = s.registers := by simp [State.registers]
  have filled : ∀ (u : State) serial r key slot found cause,
      ((u.fillAndForward serial r key slot found).withCause cause).registers = u.registers := by
    intros
    simp [State.registers]
  unfold State.fillHeldWrite
  dsimp only
  split
  · exact (State.notTaken_registers _ h.request).trans begun
  · exact (filled _ _ _ _ _ _ _).trans ((State.lookup_registers _ _ _).trans begun)

theorem Internal.settleHeld (s : State) : Internal s s.settleHeld := by
  unfold State.settleHeld
  split
  · refine ⟨Releases.held Forwards.fillHeldWrite (fun u h => by simp) s, ?_⟩
    exact (foldl_leaves State.fillHeldWrite State.registers State.fillHeldWrite_registers s.forwarder.held
      { s with forwarder := { s.forwarder with held := [] } }).trans rfl
  · exact Internal.refl s

/-! ### Releases and ageing -/

theorem Internal.releaseStation (s : State) (i : Nat) (reason : ReleaseReason) (time : Time) (stage : Nat) :
    Internal s (s.releaseStation i reason time stage) :=
  Internal.trans (Internal.release s i reason time stage) (Internal.settleHeld _)

theorem Internal.failIntegrity (s : State) (i : Nat) (time : Time) : Internal s (s.failIntegrity i time) :=
  Internal.trans (Internal.integrityRelease s i time) (Internal.settleHeld _)

theorem Internal.ageContext (s : State) (i : Nat) : Internal s (s.ageContext i) := by
  unfold State.ageContext
  split
  · exact Internal.refl s
  · split
    · exact Internal.quiet
    · exact Internal.failIntegrity _ _ _

theorem Internal.ageingStep (s : State) : Internal s s.ageingStep := Internal.foldl Internal.ageContext _ s

theorem Internal.ageByCount (s : State) : Internal s s.ageByCount := by
  unfold State.ageByCount
  dsimp only
  split
  · exact (Internal.ageingStep s).trans (Internal.quiet rfl rfl rfl rfl)
  · exact Internal.refl s

theorem Internal.countReport (s : State) : Internal s s.countReport := by
  unfold State.countReport
  split
  · exact Internal.refl s
  · exact Internal.trans (t := { s with table := { s.table with ageing := s.table.ageing + 1 } })
      (Internal.quiet rfl rfl rfl rfl) (Internal.ageByCount _)

/-! ### The corrector -/

theorem Internal.refuse (s : State) (report : Report) (cause : RefusalCause) : Internal s (s.refuse report cause) :=
  Internal.quiet (registers := by simp [State.refuse, State.registers])

theorem Internal.setFallback (s : State) (f : Fallback) : Internal s (s.setFallback f) :=
  Internal.quiet (registers := by simp)

theorem Internal.withdraw (s : State) (i : Nat) (c : Context) (issued : Issued) (delivered time : Time) :
    Internal s (s.withdraw i c issued delivered time) := Internal.quiet (registers := by simp)

theorem Internal.restart (s : State) (i : Nat) (a : Table Word) (time : Time) (reason : Nat) :
    Internal s (s.restart i a time reason) := Internal.quiet (registers := by simp)

theorem Internal.bindReport (s : State) (i age : Nat) (report : Report) : Internal s (s.bindReport i age report) := by
  unfold State.bindReport
  dsimp only
  split
  · exact Internal.refl s
  · refine Internal.goOn (Internal.trans ?_ (Internal.countReport _)) ?_
    · exact Internal.quiet rfl rfl rfl rfl
    · split
      · exact Internal.refl _
      · refine Internal.goOn (Internal.quiet ?_ ?_ ?_ ?_ ?_) Internal.quiet <;> split <;> simp

theorem Internal.allocate (s : State) (i : Nat) (report : Report) : Internal s (s.allocate i report) := by
  unfold State.allocate
  exact Internal.goOn Internal.quiet (Internal.bindReport _ _ _ _)

theorem Internal.adopt (s : State) (i : Nat) (report : Report) : Internal s (s.adopt i report) := by
  unfold State.adopt
  exact Internal.goOn Internal.quiet (Internal.bindReport _ _ _ _)

theorem Internal.reclaimScan (channel : Nat) (l : List Nat) (s : State) : Internal s (State.reclaimScan channel l s).1 := by
  induction l generalizing s with
  | nil => exact Internal.refl s
  | cons index rest ih =>
    unfold State.reclaimScan
    split
    · exact ih s
    · split
      · split
        · exact Internal.refl s
        · exact ih s
      · dsimp only
        split
        · exact Internal.failIntegrity _ _ _
        · exact (Internal.failIntegrity _ _ _).trans (ih _)

theorem Internal.admitFirstContact (s : State) (report : Report) : Internal s (s.admitFirstContact report) := by
  unfold State.admitFirstContact
  dsimp only
  split
  · exact Internal.allocate _ _ _
  · have scanned := Internal.reclaimScan report.channel s.table.contexts.keys s
    split
    next e =>
      rw [e] at scanned
      exact scanned.goOn (Internal.refuse _ _ _)
    next e =>
      rw [e] at scanned
      exact (scanned.trans (Internal.releaseStation _ _ _ _ _)).goOn (Internal.allocate _ _ _)

theorem Internal.admitKeepalive (s : State) (report : Report) : Internal s (s.admitKeepalive report) := by
  unfold State.admitKeepalive
  dsimp only
  split
  · exact Internal.refuse _ _ _
  split
  · exact Internal.refuse _ _ _
  split
  · exact Internal.refuse _ _ _
  split
  · exact Internal.adopt _ _ _
  · exact Internal.refuse _ _ _

theorem Internal.admitReport (s : State) (found : Option Nat) (report : Report) : Internal s (s.admitReport found report) := by
  unfold State.admitReport
  split
  · split
    · exact Internal.refl s
    · split
      · exact Internal.goOn (Internal.restart _ _ _ _ _) (Internal.bindReport _ _ _ _)
      · exact Internal.bindReport _ _ _ _
      · exact Internal.bindReport _ _ _ _
  · split
    · exact Internal.admitFirstContact _ _
    · exact Internal.admitKeepalive _ _
    · exact Internal.refl s

theorem Internal.takeHead (s : State) : Internal s s.takeHead := by
  unfold State.takeHead
  split
  next rest _ _ _ =>
    dsimp only
    refine Internal.goOn (Internal.trans (t := { s with intake := { s.intake with queue := rest } })
      (Internal.quiet rfl rfl rfl rfl rfl) (Internal.lookup _ _ _)) (Internal.admitReport _ _ _)
  · exact Internal.refl s

theorem Internal.completeNoted (s : State) : Internal s s.completeNoted := by
  unfold State.completeNoted
  split
  · exact Internal.refl s
  · split
    · exact Internal.refl s
    · split
      · exact Internal.trans (t := s.endFlight) Internal.quiet (Internal.settleHeld _)
      · split
        · refine Internal.trans ?_ (Internal.settleHeld _)
          exact Internal.quiet rfl rfl rfl rfl
        · exact Internal.failIntegrity _ _ _

theorem Internal.completeFull (s : State) : Internal s s.completeFull := by
  unfold State.completeFull
  split
  · exact Internal.refl s
  · split
    · exact Internal.refl s
    · split
      · exact Internal.trans (t := s.endFlight) Internal.quiet (Internal.settleHeld _)
      · split
        · dsimp only
          refine Internal.trans (Internal.trans ?_ (Internal.setFallback _ _)) (Internal.settleHeld _)
          split <;> exact Internal.quiet
        · exact Internal.failIntegrity _ _ _

/-! ### Expiries -/

theorem Internal.expireSilence (s : State) (i : Nat) (stage : Stage) (expiry : Time) :
    Internal s (s.expireSilence i stage expiry) := by
  unfold State.expireSilence
  split
  · exact Internal.refl s
  · split
    · exact Internal.failIntegrity _ _ _
    · split
      · exact Internal.quiet
      · exact Internal.releaseStation _ _ _ _ _

theorem Internal.expireConfirm (s : State) (i : Nat) (expiry : Time) : Internal s (s.expireConfirm i expiry) := by
  unfold State.expireConfirm
  split
  · exact Internal.refl s
  · split
    · exact Internal.failIntegrity _ _ _
    · split
      · exact Internal.refl s
      · exact Internal.refl s
      · exact Internal.refl s
      · exact Internal.withdraw _ _ _ _ _ _

theorem Internal.fireSilence (s : State) : Internal s s.fireSilence := by
  unfold State.fireSilence
  split
  · split
    · refine Internal.trans ?_ (Internal.expireSilence _ _ _ _)
      exact Internal.quiet rfl rfl rfl rfl
    · exact Internal.refl s
  · exact Internal.refl s

theorem Internal.fireConfirm (s : State) : Internal s s.fireConfirm := by
  unfold State.fireConfirm
  split
  · split
    · exact Internal.refl s
    · refine Internal.trans ?_ (Internal.expireConfirm _ _ _)
      exact Internal.quiet rfl rfl rfl rfl
  · exact Internal.refl s

theorem Internal.fireAgeingTimer (s : State) : Internal s s.fireAgeingTimer := by
  unfold State.fireAgeingTimer
  dsimp only
  split
  · exact (Internal.ageingStep s).trans (Internal.quiet rfl rfl rfl rfl)
  · exact Internal.refl s

/-! ### Closing channels, and commands -/

theorem Internal.releaseSilently (s : State) (i : Nat) : Internal s (s.releaseSilently i) := by
  refine Internal.quiet (registers := ?_)
  unfold State.releaseSilently State.registers
  (repeat' split) <;> simp

theorem Internal.closeChannel (s : State) (channel cause : Nat) : Internal s (s.closeChannel channel cause) := by
  have settled := ((Internal.foldl Internal.releaseSilently (s.contextsOf channel) s).trans
    (Internal.quiet (t := State.discardReports _ channel) rfl rfl rfl rfl)).trans (Internal.settleHeld _)
  refine settled.trans ?_
  unfold State.closeChannel
  dsimp only
  generalize State.settleHeld _ = u
  refine Internal.quiet ?_ ?_ ?_ ?_ ?_ <;> (repeat' split) <;> simp [State.registers]

theorem Internal.returnToReady (s : State) (i : Nat) : Internal s (s.returnToReady i) := by
  unfold State.returnToReady
  split
  · exact Internal.refl s
  · split
    · exact Internal.failIntegrity _ _ _
    · split <;> exact Internal.quiet

theorem Internal.clearSlotMap (s : State) : Internal s s.clearSlotMap :=
  (Internal.foldl Internal.returnToReady _ s).trans (Internal.quiet rfl rfl rfl rfl rfl)

theorem Internal.findStation (s : State) (n : StationName) : Internal s (s.findStation n).1 := by
  unfold State.findStation
  split
  · exact Internal.refl s
  next channel _ =>
    exact (Internal.lookup s { channel := channel, tag := n.tag } s.time.counter).trans (Internal.settleHeld _)

theorem Internal.stationDrop (s : State) (n : StationName) : Internal s (s.stationDrop n).1 := by
  have found := Internal.findStation s n
  unfold State.stationDrop
  split
  · exact Internal.refl s
  split
  next e => rwa [e] at found
  next e =>
    rw [e] at found
    exact found.trans (Internal.releaseStation _ _ _ _ _)

theorem Internal.stationRestart (s : State) (n : StationName) : Internal s (s.stationRestart n).1 := by
  have found := Internal.findStation s n
  unfold State.stationRestart
  split
  · exact Internal.refl s
  split
  next e => rwa [e] at found
  next e =>
    rw [e] at found
    exact ((found.trans Internal.quiet).trans (Internal.restart _ _ _ _ _)).trans (Internal.settleHeld _)

theorem Internal.moveStation (s : State) (source : Nat) (c : Context) (target : Key) :
    Internal s (s.moveStation source c target) := by
  unfold State.moveStation
  dsimp only
  split
  · exact Internal.releaseStation _ _ _ _ _
  · refine (Internal.releaseStation s source .moved s.time.counter 0).trans ?_
    exact Internal.quiet

theorem Internal.stationMove (s : State) (origin target : StationName) : Internal s (s.stationMove origin target).1 := by
  have first := Internal.findStation s origin
  unfold State.stationMove
  split
  · exact Internal.refl s
  split
  next e => rwa [e] at first
  next t source e =>
    rw [e] at first
    have second := first.trans (Internal.findStation t target)
    split
    next e => rwa [e] at second
    next u e =>
      rw [e] at second
      replace second : Internal s u := second
      split
      · exact second
      · exact second
      next channel c _ _ =>
        split
        · dsimp only
          exact second.trans (Internal.moveStation _ _ _ _)
        · exact second

theorem Internal.answerCommand (s : State) (code : Nat) (first second : Word) :
    Internal s (s.answerCommand code first second).1 := by
  have whenRunning : ∀ f : State → Answered, Internal s (f s).1 → Internal s (s.whenRunning f).1 := by
    intro f hf
    unfold State.whenRunning
    split
    · exact hf
    · exact Internal.refl s
  unfold State.answerCommand
  split
  · refine whenRunning _ ?_
    unfold State.channelClose
    split
    · exact Internal.refl s
    split
    · exact Internal.refl s
    · exact Internal.closeChannel _ _ _
  split
  · exact whenRunning _ (Internal.stationDrop _ _)
  split
  · exact whenRunning _ (Internal.stationRestart _ _)
  split
  · exact whenRunning _ (Internal.stationMove _ _ _)
  · exact Internal.quiet

/-! ### Part state -/

theorem Releases.enterStopped (s : State) : Releases s s.enterStopped := by
  have ended : Releases s s.abandonDrain.endFlight := Releases.quiet
  exact (ended.trans (Releases.forwardHeldUnfilled _)).trans (Releases.quiet rfl rfl rfl rfl)

theorem Releases.stopIfDue (s : State) : Releases s s.stopIfDue := by
  unfold State.stopIfDue
  have cleared : Releases s { s with now := { s.now with stopDue := false } } := Releases.quiet rfl rfl rfl rfl
  dsimp only
  split
  · exact cleared.trans (Releases.enterStopped _)
  · exact cleared

theorem Releases.finish (s : State) : Releases s s.finish := (Releases.stopIfDue s).trans (Releases.quiet rfl rfl rfl rfl)

/-! ### Applies -/

theorem Releases.rejudgeHeld (s : State) : Releases s s.rejudgeHeld :=
  ⟨[], (Forwards.none s s.rejudgeHeld.forwarder.held).congr rfl rfl rfl rfl rfl rfl, fun _ => ⟨rfl, rfl⟩,
    .inl ⟨by simp [State.rejudgeHeld, Function.comp_def], rfl⟩⟩

theorem Releases.ite {p : Prop} [Decidable p] (h : Releases s t) (g : Releases t u) :
    Releases s (if p then u else t) := by
  split
  · exact h.trans g
  · exact h

theorem Releases.adoptSettings (s : State) : Releases s s.adoptSettings := by
  have h1 : Releases s { s with settings := { s.settings with active := adoptedWords s.settings.staging } } :=
    Releases.quiet rfl rfl rfl rfl
  have h2 := Releases.ite (p := stagingMoved s.settings.active (adoptedWords s.settings.staging) = true) h1
    (Releases.rejudgeHeld _)
  have h3 := h2.trans (Releases.foldl (fun u c => (Internal.closeChannel u c 2).toReleases)
    ((List.range Config.channelCount).filter fun c =>
      channelOpen s.settings.active c && !channelOpen (adoptedWords s.settings.staging) c) _)
  have h4 := h3.trans (Releases.foldl (f := State.openChannel) (fun u c => Releases.quiet rfl rfl rfl rfl)
    ((List.range Config.channelCount).filter fun c =>
      !channelOpen s.settings.active c && channelOpen (adoptedWords s.settings.staging) c) _)
  have h5 := Releases.ite (p := stagingMoved s.settings.active (adoptedWords s.settings.staging) = true) h4
    (Internal.clearSlotMap _).toReleases
  have h6 := Releases.ite (p := eventRingMoved s.settings.active (adoptedWords s.settings.staging) = true) h5
    (Releases.quiet (t := State.restartRing _) rfl rfl rfl rfl)
  exact h6.trans (Releases.quiet rfl rfl rfl rfl)

theorem Releases.takeApply (s : State) : Releases s s.takeApply := by
  unfold State.takeApply State.applySettings
  split
  · exact Releases.quiet
  · split
    · exact (Releases.adoptSettings s).trans Releases.quiet
    · exact Releases.quiet

end Sys2Proof.Machine
end

section
/-!
No request is forgotten: what each operation carries on, and every command.
-/

namespace Sys2Proof.Machine

set_option Elab.async false

variable {s t u : State} {r : Request}

/-! ### Requests carried on -/

/-- Since this state, a request that carries `r` has gone to the memory port. -/
def State.Issued (s t : State) (r : Request) : Prop :=
  ∃ q ∈ t.forwarder.toMemory.drop s.forwarder.toMemory.length, Request.carries q r = true

/-- Between these states no request has been forgotten: what was issued stays issued, and each request is still in the part
or has been issued. -/
structure Carried (s t : State) : Prop where
  issued : s.forwarder.toMemory <+: t.forwarder.toMemory
  serial : s.forwarder.nextSerial ≤ t.forwarder.nextSerial
  fate : ∀ r ∈ s.inPart, r ∈ t.inPart ∨ s.Issued t r

theorem State.Issued.extend (h : s.Issued t r) (g : t.forwarder.toMemory <+: u.forwarder.toMemory) : s.Issued u r := by
  obtain ⟨q, hq, carried⟩ := h
  exact ⟨q, List.mem_drop_of_prefix _ g q hq, carried⟩

theorem State.Issued.since (h : t.Issued u r) (g : s.forwarder.toMemory <+: t.forwarder.toMemory) : s.Issued u r := by
  obtain ⟨q, hq, carried⟩ := h
  exact ⟨q, List.drop_subset_drop_left _ g.length_le hq, carried⟩

theorem Carried.trans (h : Carried s t) (g : Carried t u) : Carried s u := by
  refine ⟨h.issued.trans g.issued, h.serial.trans g.serial, fun r hr => ?_⟩
  rcases h.fate r hr with hr | hr
  · exact (g.fate r hr).imp id fun e => e.since h.issued
  · exact .inr (hr.extend g.issued)

/-- What leaves places and serial number, and at most adds to what is issued. -/
theorem Carried.keeps (issued : s.forwarder.toMemory <+: t.forwarder.toMemory)
    (serial : s.forwarder.nextSerial ≤ t.forwarder.nextSerial) (held : t.forwarder.held = s.forwarder.held := by simp)
    (waiting : t.forwarder.waiting = s.forwarder.waiting := by simp)
    (stalled : t.forwarder.stalled = s.forwarder.stalled := by simp) : Carried s t :=
  ⟨issued, serial, fun r hr => .inl (by simpa only [State.inPart, held, waiting, stalled] using hr)⟩

theorem Carried.quiet (e : t.forwarder = s.forwarder := by simp) : Carried s t :=
  Carried.keeps (by rw [e]) (by rw [e]) (by rw [e]) (by rw [e]) (by rw [e])

theorem Carried.refl (s : State) : Carried s s := Carried.quiet rfl

theorem Releases.carried (h : Releases s t) : Carried s t := by
  obtain ⟨out, f, -, held⟩ := h.forwards
  obtain ⟨sent, e, sub, -, -⟩ := f.toMemory
  refine ⟨by rw [e]; exact List.prefix_append _ _, by rw [f.nextSerial]; omega, fun r hr => ?_⟩
  have issued : ∀ q ∈ out, q ∈ t.forwarder.toMemory.drop s.forwarder.toMemory.length := fun q hq => by
    rw [e, List.drop_left]
    exact sub.subset hq
  simp only [State.inPart, List.mem_append, f.waiting, f.stalled] at hr ⊢
  rcases hr with (hr | hr) | hr
  · rcases held with ⟨same, -⟩ | ⟨-, each⟩
    · exact .inl (.inl (.inl (same ▸ hr)))
    · obtain ⟨k, hk, rfl⟩ := List.mem_iff_getElem.mp hr
      have hk' : k < out.length := by rw [each.length_eq]; exact hk
      exact .inr ⟨out[k], issued _ (List.getElem_mem hk'), List.Forall₂.get each hk' hk⟩
  · exact .inl (.inl (.inr hr))
  · exact .inl (.inr hr)

theorem Carried.withCause (s : State) (cause : Option Nat) : Carried s (s.withCause cause) := Carried.quiet rfl

theorem Carried.sendOwn (s : State) : Carried s s.sendOwn := by
  obtain ⟨sent, e, -⟩ := s.sendOwn_sends
  exact Carried.keeps (by rw [e]; exact List.prefix_append _ _) (by simp)

theorem Carried.beginForward (s : State) : Carried s s.beginForward := by
  obtain ⟨sent, e, -⟩ := State.sendUpTo_sends Config.ownOutstanding s
  refine Carried.keeps ?_ (by simp)
  have e : s.beginForward.forwarder.toMemory = s.forwarder.toMemory ++ sent := e
  rw [e]
  exact List.prefix_append _ _

theorem Carried.forwardAs (s : State) (serial : Nat) (q : Request) : Carried s (s.forwardAs serial q) :=
  Carried.keeps (List.prefix_append _ _) (Nat.le_refl _)

theorem State.issued_forwardAs (s : State) (serial : Nat) {q : Request} (h : Request.carries q r = true) :
    s.Issued (s.forwardAs serial q) r := ⟨q, by simp, h⟩

/-! ### A request passed -/

/-- Between these states `r` has been forwarded under a number of its own, and no request in the part forgotten. -/
structure PassedOn (s t : State) (r : Request) : Prop extends Carried s t where
  passed : s.Issued t r
  numbered : s.forwarder.nextSerial < t.forwarder.nextSerial

theorem PassedOn.andThen (h : PassedOn s t r) (g : Carried t u) : PassedOn s u r :=
  ⟨h.toCarried.trans g, h.passed.extend g.issued, Nat.lt_of_lt_of_le h.numbered g.serial⟩

/-- A number taken, and then the request, or what carries it, forwarded. -/
theorem PassedOn.of_begin (serial : Nat) {q : Request} (h : Carried s.beginForward t)
    (carries : Request.carries q r = true) : PassedOn s (t.forwardAs serial q) r := by
  have begun := Carried.beginForward s
  refine ⟨(begun.trans h).trans (Carried.forwardAs t serial q),
    (t.issued_forwardAs serial carries).since (begun.trans h).issued, ?_⟩
  have := h.serial
  simp only [State.beginForward_forwarder_nextSerial] at this
  exact this

theorem Carried.softReset (s : State) (sequence : BitVec 16) : Carried s (s.softReset sequence) := by
  have ended : Releases s s.endFlight.forwardHeldUnfilled :=
    Releases.trans (t := s.endFlight) Releases.quiet (Releases.forwardHeldUnfilled _)
  refine ended.carried.trans ?_
  unfold State.softReset
  dsimp only
  refine Carried.quiet ?_
  simp only [State.foldl_issueStatus_frame, State.commandAnswer_frame]
  split
  · rfl
  · simp only [State.commandAnswer_frame]
    rfl

theorem Carried.commandAnswer (h : Carried s t) (q : BitVec 16) (code flags : Nat) (result : CommandResult) :
    Carried s (t.commandAnswer q code flags result) := h.trans (Carried.quiet rfl)

theorem Carried.takeCommand (s : State) : Carried s s.takeCommand := by
  unfold State.takeCommand
  dsimp only
  split
  · exact Carried.refl s
  split
  · exact Carried.quiet
  split
  · exact Carried.softReset s _
  split
  · exact Carried.quiet
  split
  · split
    · exact Carried.quiet
    · exact Carried.quiet
  · exact Carried.commandAnswer (Internal.answerCommand s _ _ _).carried _ _ _ _

theorem Carried.settingsWrite (s : State) (r : Request) : Carried s (s.settingsWrite r) := by
  have control : ∀ {t : State} {word : Nat} {f : State → State}, Carried s t → Carried t (f t) →
      Carried s (t.onControl r word f) := fun h g =>
    State.onControl_keeps (P := Carried s) (fun _ h => h.trans (Releases.stopIfDue _).carried) h r _ fun _ => h.trans g
  unfold State.settingsWrite
  split
  · have copied : Carried s (s.copySettings r) := Carried.quiet
    exact control (control (control copied (Releases.takeApply _).carried) (Carried.takeCommand _)) Carried.quiet
  · exact Carried.refl s

theorem PassedOn.passWrite (s : State) (r : Request) : PassedOn s (s.passWrite r) r := by
  unfold State.passWrite
  dsimp only
  have forwarded := PassedOn.of_begin (s := s) s.forwarder.nextSerial (Carried.refl s.beginForward) (Request.carries_self r)
  have taken : PassedOn s (((s.beginForward.forwardAs s.forwarder.nextSerial r).intakeWrite r).notTaken r) r :=
    forwarded.andThen Carried.quiet
  have stopped := taken.andThen (Releases.stopIfDue _).carried
  exact (stopped.andThen (Carried.withCause _ none)).andThen (Carried.settingsWrite _ r)

theorem Internal.deliver (s : State) (slot : Nat) : Internal s (s.deliver slot) := by
  unfold State.deliver
  dsimp only
  split
  · exact Internal.refl s
  split
  · exact Internal.refl s
  split
  · exact Internal.failIntegrity _ _ _
  split
  · exact Internal.refl s
  · exact Internal.refl s
  · split
    · exact Internal.releaseStation _ _ _ _ _
    · exact Internal.quiet rfl rfl rfl rfl
  · exact Internal.refl s

theorem PassedOn.passRead (s : State) (r : Request) : PassedOn s (s.passRead r) r := by
  have forwarded := PassedOn.of_begin (s := s) s.forwarder.nextSerial (Carried.refl s.beginForward) (Request.carries_self r)
  replace forwarded := forwarded.andThen (Carried.withCause _ none)
  unfold State.passRead
  dsimp only
  split
  · exact forwarded
  · exact forwarded.andThen (Internal.deliver _ _).carried

theorem PassedOn.fillAndForward (h : Carried s.beginForward t) (serial : Nat) (r : Request) (key : Key) (slot : Nat)
    (found : Option Nat) : PassedOn s (t.fillAndForward serial r key slot found) r := by
  unfold State.fillAndForward
  refine PassedOn.of_begin serial (h.trans (Carried.quiet ?_)) (Fill.request_carries _ _ r)
  (repeat' split) <;> simp

theorem PassedOn.passResponse (s : State) (r : Request) (slot : Nat) : PassedOn s (s.passResponse r slot) r := by
  unfold State.passResponse
  split
  next key _ _ =>
    split
    · refine PassedOn.fillAndForward ?_ _ r key slot _
      exact ((Carried.quiet : Carried s.beginForward (s.beginForward.lookup key s.beginForward.time.counter).1).trans
        (Internal.settleHeld _).carried).trans (Carried.quiet rfl)
    · exact PassedOn.fillAndForward (Carried.refl _) _ r key slot none
  · exact PassedOn.of_begin s.forwarder.nextSerial Carried.quiet (Request.carries_self r)

/-! ### Where a request stands -/

/-- Once the request of a step has left where it stood, every other still stands. -/
theorem State.leaving_inPart {o : Origin} (h : s.requestAt o = some r) {x : Request} (hx : x ∈ s.inPart) :
    x = r ∨ x ∈ (s.leaving o).inPart := by
  simp only [State.inPart, State.leaving_frame, List.mem_append] at hx ⊢
  cases o with
  | port q => exact .inr hx
  | stalled =>
    rcases hx with hx | hx
    · exact .inr (.inl hx)
    · have h : s.forwarder.stalled = some r := h
      rw [h] at hx
      simp only [Option.toList_some, List.mem_singleton] at hx
      exact .inl hx
  | waiting source =>
    rcases hx with (hx | hx) | hx
    · exact .inr (.inl (.inl hx))
    · have h : s.forwarder.waiting.find? (fun r => r.source == source) = some r := h
      by_cases e : x = r
      · exact .inl e
      · refine .inr (.inl (.inr ?_))
        obtain ⟨before, after, h1, h2⟩ : ∃ before after, s.forwarder.waiting = before ++ r :: after ∧
            s.forwarder.waiting.eraseP (fun r => r.source == source) = before ++ after := by
          obtain ⟨isSource, before, after, split_, none_⟩ := List.find?_eq_some_iff_append.mp h
          refine ⟨before, after, split_, ?_⟩
          rw [split_, List.eraseP_append_right]
          · simp [isSource]
          · simpa using none_
        show x ∈ s.forwarder.waiting.eraseP fun r => r.source == source
        rw [h2]
        rw [h1] at hx
        simp only [List.mem_append, List.mem_cons] at hx ⊢
        rcases hx with hx | hx | hx
        · exact .inl hx
        · exact absurd hx e
        · exact .inr hx
    · exact .inr (.inr hx)

/-- A request taken from where it stood and passed on. -/
theorem Carried.leaving {o : Origin} (h : s.requestAt o = some r) (g : PassedOn (s.leaving o) t r) : Carried s t := by
  have same : (s.leaving o).forwarder.toMemory = s.forwarder.toMemory := by simp
  have since : ∀ {x}, (s.leaving o).Issued t x → s.Issued t x := by
    unfold State.Issued
    rw [same]
    exact id
  refine ⟨by rw [← same]; exact g.issued, by simpa using g.serial, fun x hx => ?_⟩
  rcases State.leaving_inPart h hx with rfl | hx
  · exact .inr (since g.passed)
  · exact (g.fate x hx).imp id since

theorem Carried.stallPort {o : Origin} (h : s.requestAt o = some r) : Carried s (s.stallPort o) := by
  cases o with
  | stalled => exact Carried.refl s
  | waiting source => exact Carried.refl s
  | port q =>
    refine ⟨List.prefix_rfl, Nat.le_refl _, fun x hx => .inl ?_⟩
    have empty : s.forwarder.stalled = none := by
      simp only [State.requestAt] at h
      split at h
      next free => exact Option.isNone_iff_eq_none.mp ((Bool.and_eq_true _ _).mp free).1
      · cases h
    simp only [State.inPart, empty, Option.toList_none, List.append_nil] at hx
    exact List.mem_append_left _ hx

theorem Carried.joinWaiting {o : Origin} (h : s.requestAt o = some r) : Carried s (s.joinWaiting o r) := by
  cases o with
  | waiting source => exact Carried.refl s
  | port q =>
    simp only [State.joinWaiting]
    split
    · refine ⟨List.prefix_rfl, Nat.le_refl _, fun x hx => .inl ?_⟩
      simp only [State.inPart, List.mem_append] at hx ⊢
      exact hx.imp (Or.imp_right .inl) id
    · exact Carried.stallPort h
  | stalled =>
    simp only [State.joinWaiting]
    split
    · refine ⟨List.prefix_rfl, Nat.le_refl _, fun x hx => .inl ?_⟩
      have h : s.forwarder.stalled = some r := h
      simp only [State.inPart, List.mem_append, h, Option.toList_some] at hx ⊢
      exact .inl (hx.elim (Or.imp_right .inl) fun e => .inr (.inr e))
    · exact Carried.refl s

theorem Carried.settleResponse {o : Origin} (h : s.requestAt o = some r) (slot : Nat) :
    Carried s (s.settleResponse o r slot) := by
  unfold State.settleResponse
  split
  · split
    · refine ⟨by simp [State.hold], by simp [State.hold], fun x hx => .inl ?_⟩
      rcases State.leaving_inPart h hx with rfl | hx
      · simp [State.hold, State.inPart]
      · simp only [State.inPart, State.hold, List.map_append, List.mem_append] at hx ⊢
        exact hx.imp (Or.imp_left .inl) id
    · exact Carried.stallPort h
  · exact Carried.leaving h (PassedOn.passResponse _ r slot)

theorem Carried.settlePass (s : State) (o : Origin) (kind : Request → Bool) : Carried s (s.settlePass o kind) :=
  State.settle_keeps (P := Carried s) (Carried.refl s) fun r h _ _ => Carried.leaving h (PassedOn.passWrite _ r)

/-! ### Every command -/

/-- Every effect but a blocked write forgets no request. -/
theorem Carried.effect (c : Instr) (s : State) (blocked : ∀ o, c ≠ .blockedWrite o) : Carried s (effect c s) := by
  cases c with
  | powerOnReset straps | rstnLow => exact Carried.refl s
  | syncLoad | pclkTick => exact Carried.quiet rfl
  | requestWait o =>
    simp only [Machine.effect]
    split
    · exact Carried.refl s
    next h =>
      split
      · exact Carried.refl s
      · exact Carried.joinWaiting h
  | forwardRead o | deliveryRead o =>
    exact State.settle_keeps (P := Carried s) (Carried.refl s) fun r h _ _ => Carried.leaving h (PassedOn.passRead _ r)
  | blockedWrite o => exact absurd rfl (blocked o)
  | responseWrite o =>
    exact State.settle_keeps (P := Carried s) (Carried.refl s) fun r h _ _ => Carried.settleResponse h _
  | forwardWrite o | reportWrite o | tornWrite o | responseNotTaken o | settingsWrite o | applyWrite o
  | consumerIndexWrite o | softReset o | channelClose o | stationDrop o | stationRestart o | stationMove o | drain o
  | errorClear o => exact Carried.settlePass s o _
  | drainDone => exact Carried.quiet (by simp [Machine.effect])
  | memoryCompletion c =>
    simp only [Machine.effect, State.returnCompletion]
    (repeat' split)
    · exact Carried.refl s
    · exact Carried.keeps List.prefix_rfl (Nat.le_refl _)
    · exact Carried.refl s
  | ownWriteSend => exact Carried.sendOwn s
  | ownWriteAck tag status => exact Carried.quiet (by simp [Machine.effect])
  | eventWriteOut => exact Carried.quiet (by simp [Machine.effect])
  | takeHead => exact (Internal.takeHead s).carried
  | ageingCount =>
    simp only [Machine.effect]
    split
    · exact (Internal.ageByCount s).carried
    · exact Carried.refl s
  | notedCompletion => exact (Internal.completeNoted s).carried
  | fullCompletion => exact (Internal.completeFull s).carried
  | silenceExpiry => exact (Internal.fireSilence s).carried
  | confirmExpiry => exact (Internal.fireConfirm s).carried
  | ageingTimer => exact (Internal.fireAgeingTimer s).carried

/-- Held writes released leave what has been returned to the initiators. -/
theorem Releases.toInitiator (h : Releases s t) : t.forwarder.toInitiator = s.forwarder.toInitiator := by
  obtain ⟨out, f, -⟩ := h.forwards
  exact f.toInitiator

/-- A blocked write leaves its place and is answered; nothing is issued, and every other request stands. -/
theorem State.blockWrite_fate {o : Origin} (h : s.requestAt o = some r) :
    ((s.leaving o).blockWrite r).forwarder.toMemory = s.forwarder.toMemory ∧
      (∃ a : Completion, ((s.leaving o).blockWrite r).forwarder.toInitiator = s.forwarder.toInitiator ++ [a] ∧
        a.source = r.source ∧ a.tag = r.tag ∧ a.status = .error) ∧
      ∀ x ∈ s.inPart, x = r ∨ x ∈ ((s.leaving o).blockWrite r).inPart := by
  refine ⟨by simp [State.blockWrite], ⟨{ source := r.source, tag := r.tag, status := .error, data := [] },
    by simp [State.blockWrite], rfl, rfl, rfl⟩, fun x hx => ?_⟩
  refine (State.leaving_inPart h hx).imp id fun e => ?_
  simpa [State.blockWrite, State.inPart] using e

/-- What the statement asks of a step that blocks nothing. -/
theorem Carried.fates (h : Carried s t) :
    s.forwarder.toMemory <+: t.forwarder.toMemory ∧
      ∀ r ∈ s.inPart, r ∈ t.inPart ∨ s.Issued t r ∨
        (s.guardFails r = true ∧ ∃ a ∈ t.forwarder.toInitiator.drop s.forwarder.toInitiator.length,
          a.source = r.source ∧ a.tag = r.tag ∧ a.status = .error) :=
  ⟨h.issued, fun r hr => (h.fate r hr).imp id .inl⟩

/-- What it asks of one that blocks a write. -/
theorem State.blockWrite_fates {o : Origin} (h : s.requestAt o = some r) (fails : s.guardFails r = true)
    (ended : Releases ((s.leaving o).blockWrite r) t) :
    s.forwarder.toMemory <+: t.forwarder.toMemory ∧
      ∀ r ∈ s.inPart, r ∈ t.inPart ∨ s.Issued t r ∨
        (s.guardFails r = true ∧ ∃ a ∈ t.forwarder.toInitiator.drop s.forwarder.toInitiator.length,
          a.source = r.source ∧ a.tag = r.tag ∧ a.status = .error) := by
  obtain ⟨port, ⟨a, answered, isFor⟩, others⟩ := State.blockWrite_fate h
  refine ⟨port ▸ ended.carried.issued, fun x hx => ?_⟩
  rcases others x hx with rfl | hx
  · refine .inr (.inr ⟨fails, a, ?_, isFor⟩)
    simp [ended.toInitiator, answered]
  · refine (ended.carried.fate x hx).imp id fun e => .inl ?_
    unfold State.Issued at e ⊢
    rwa [port] at e

/-- Settles O6: a request leaves its place to be passed on, or blocked and answered; held writes leave all together. -/
theorem noRequestIsForgotten : Obligations.NoRequestIsForgotten := by
  intro c s t reset low ran
  rcases exec_cases ran with ⟨straps, e, -⟩ | ⟨e, -⟩ | ⟨-, rfl⟩ | ⟨-, -, -, rfl⟩
  · exact absurd e (reset straps)
  · exact absurd e low
  · exact (Carried.refl _).fates
  · by_cases blocked : ∃ o, c = .blockedWrite o
    · obtain ⟨o, rfl⟩ := blocked
      have still := (Releases.finish s).carried.fates
      simp only [effect]
      unfold State.settle
      split
      · exact still
      next stands =>
        split
        next fails => exact State.blockWrite_fates stands ((Bool.and_eq_true _ _).mp fails).2 (Releases.finish _)
        · exact still
    · exact ((Carried.effect c s fun o e => blocked ⟨o, e⟩).trans (Releases.finish _).carried).fates

end Sys2Proof.Machine
end

section
/-!
Requests that the blocks leave alone, wait, or are turned back, and completions returned.
-/

namespace Sys2Proof.Machine

set_option Elab.async false

/-! ### Commands whose effect is known -/

/-- A command whose effect touches neither events, nor pins, nor the active settings answers its effect. -/
theorem exec_quiet {c : Instr} {s t : State} (between : s.between = true) (does : effect c s = t)
    (reset : ∀ straps, c ≠ .powerOnReset straps := by nofun) (low : c ≠ .rstnLow := by nofun)
    (hp : t.pins = s.pins := by simp) (hn : t.now = s.now := by simp) (he : t.events = s.events := by simp)
    (ha : t.settings.active = s.settings.active := by simp) : exec c s = .next t := by
  rw [exec_eq_act c s reset low]
  exact s.act_quiet _ between t does hp hn he ha

/-- The end of a step that set no fatal error: the cause is dropped and ATTN judged (R173). -/
def State.ended (s : State) : State :=
  { s with now := { cause := none, stopDue := false }
           pins := { s.pins with attention := s.attentionLevel } }

@[simp] theorem State.ended_frame (s : State) :
    s.ended.pending = s.pending ∧ s.ended.pins.straps = s.pins.straps ∧ s.ended.part = s.part ∧
    s.ended.forwarder = s.forwarder ∧ s.ended.own = s.own ∧ s.ended.settings = s.settings ∧ s.ended.intake = s.intake ∧
    s.ended.flight = s.flight ∧ s.ended.table = s.table ∧ s.ended.slotMap = s.slotMap ∧ s.ended.time = s.time ∧
    s.ended.events = s.events := by
  simp [State.ended]

theorem State.ended_attention (s : State) : s.ended.pins.attention = s.ended.attentionLevel := rfl
@[simp] theorem State.ended_withCause (s : State) (cause : Option Nat) : (s.withCause cause).ended = s.ended := rfl
@[simp] theorem State.ended_reports (s : State) (f : EventFields) (time : Time) (cause : Option Nat) :
    s.ended.reports f time cause = s.reports f time cause := rfl
@[simp] theorem State.ended_reportsSince (s u : State) (f : EventFields) (time : Time) (cause : Option Nat) :
    s.ended.reportsSince u f time cause = s.reportsSince u f time cause := rfl
@[simp] theorem State.ended_context? (s : State) (index : Nat) : s.ended.context? index = s.context? index := rfl
@[simp] theorem State.ended_lastIssued (s : State) (word : Nat) (value : Word) :
    s.ended.lastIssued word value = s.lastIssued word value := rfl
@[simp] theorem State.ended_deadlinesFor (s : State) (index : Nat) (kind : DeadlineKind) :
    s.ended.deadlinesFor index kind = s.deadlinesFor index kind := rfl
@[simp] theorem State.ended_counts (s : State) (channel : Nat) :
    s.ended.freeCount = s.freeCount ∧ s.ended.occupiedCount channel = s.occupiedCount channel := ⟨rfl, rfl⟩

/-- A command whose effect sets no fatal error answers its effect, with the cause dropped and ATTN judged. -/
theorem exec_calm {c : Instr} {s u : State} (between : s.between = true) (does : effect c s = u)
    (calm : u.now.stopDue = false)
    (reset : ∀ straps, c ≠ .powerOnReset straps := by nofun) (low : c ≠ .rstnLow := by nofun) :
    exec c s = .next u.ended := by
  subst does
  rw [exec_eq_act c s reset low]
  exact s.act_calm _ between calm

/-! ### A request on its way -/

@[simp] theorem State.withForwarded_frame (s : State) (o : Origin) (r q : Request) :
    (s.withForwarded o r q).pending = s.pending ∧ (s.withForwarded o r q).pins = s.pins ∧
    (s.withForwarded o r q).part = s.part ∧ (s.withForwarded o r q).own = s.own ∧
    (s.withForwarded o r q).settings = s.settings ∧ (s.withForwarded o r q).intake = s.intake ∧
    (s.withForwarded o r q).flight = s.flight ∧ (s.withForwarded o r q).table = s.table ∧
    (s.withForwarded o r q).slotMap = s.slotMap ∧ (s.withForwarded o r q).time = s.time ∧
    (s.withForwarded o r q).events = s.events ∧ (s.withForwarded o r q).now = s.now ∧
    (s.withForwarded o r q).forwarder.held = s.forwarder.held ∧
    (s.withForwarded o r q).forwarder.nextSerial = s.forwarder.nextSerial + 1 := by
  simp [State.withForwarded]

/-- Once it has been passed, own writes wait for nothing more. -/
theorem State.passing_passed (s : State) (o : Origin) (r : Request) (h : s.now = { cause := none, stopDue := false }) :
    (s.passing o r).withCause none = s.withForwarded o r r := by
  obtain ⟨pending, pins, part, forwarder, own, settings, intake, flight, table, slotMap, time, events, now⟩ := s
  cases h
  cases o <;> rfl

theorem State.clearOfAreas_iff (s : State) (r : Request) : s.clearOfAreas r = true ↔
    s.guardFails r = false ∧ s.reportSlot? r = none ∧ s.tornWrite r = false ∧ s.responseSlot? r = none ∧
      s.responseNotTaken r = false := by
  simp [State.clearOfAreas, and_assoc]

theorem State.tornWrite_congr (s t : State) (r : Request) (hp : t.part = s.part)
    (ha : t.settings.active = s.settings.active) : t.tornWrite r = s.tornWrite r := by
  simp [State.tornWrite, State.running, State.reportSlot?_congr s t r hp ha, hp, ha]

/-- Whether a read is a delivery read is read from the part state and the active settings alone (R110). -/
theorem State.deliverySlot?_congr (s t : State) (r : Request) (hp : t.part = s.part)
    (ha : t.settings.active = s.settings.active) : t.deliverySlot? r = s.deliverySlot? r := by
  simp [State.deliverySlot?, State.running, hp, ha]

/-- The report intake leaves a write alone that is none of its own. -/
theorem State.intakeWrite_clear (s : State) (r : Request) (slot : s.reportSlot? r = none) (torn : s.tornWrite r = false) :
    s.intakeWrite r = s := by
  simp [State.intakeWrite, slot, torn]

/-- The fill unit leaves a write alone that is none of its own. -/
theorem State.notTaken_clear (s : State) (r : Request) (h : s.responseNotTaken r = false) : s.notTaken r = s := by
  simp [State.notTaken, h]

/-- Of the blocks, the settings intake alone acts on a write clear of the areas (R139). -/
theorem State.passWrite_clear (s : State) (o : Origin) (r : Request) (idle : s.now = { cause := none, stopDue := false })
    (ho : s.ownReady = false) (hr : s.clearOfAreas r = true) :
    (s.leaving o).passWrite r = (s.withForwarded o r r).settingsWrite r := by
  obtain ⟨-, noReport, noTorn, -, taken⟩ := (s.clearOfAreas_iff r).mp hr
  have forwarded : (s.leaving o).beginForward.forwardAs (s.leaving o).forwarder.nextSerial r = s.passing o r := by
    simpa using s.beginForward_forwardAs o r ho
  have intake : (s.passing o r).intakeWrite r = s.passing o r :=
    State.intakeWrite_clear _ r (by rw [State.reportSlot?_congr s _ r (by simp) (by simp), noReport])
      (by rw [State.tornWrite_congr s _ r (by simp) (by simp), noTorn])
  have fill : (s.passing o r).notTaken r = s.passing o r :=
    State.notTaken_clear _ r (by rw [State.responseNotTaken_congr s _ r (by simp) (by simp), taken])
  unfold State.passWrite
  dsimp only
  rw [forwarded, intake, fill, State.stopIfDue_calm _ (by simp [idle]), s.passing_passed o r idle]

/-- A write that its row passes is passed. -/
theorem State.settlePass_next (s : State) (o : Origin) (r : Request) (kind : Request → Bool) (h : s.presents o r = true)
    (hw : Request.isWrite r = true) (hg : s.guardFails r = false) (hs : s.responseSlot? r = none) (hk : kind r = true) :
    s.settlePass o kind = (s.leaving o).passWrite r := by
  obtain ⟨stands, turn⟩ := (s.presents_iff o r).mp h
  exact s.settle_next o r _ _ stands turn (by simp [hw, hg, hs, hk])

/-- A read that is no delivery read is passed. -/
theorem State.passRead_plain (s : State) (o : Origin) (r : Request) (idle : s.now = { cause := none, stopDue := false })
    (ho : s.ownReady = false) (hs : s.deliverySlot? r = none) : (s.leaving o).passRead r = s.withForwarded o r r := by
  have forwarded : (s.leaving o).beginForward.forwardAs (s.leaving o).forwarder.nextSerial r = s.passing o r := by
    simpa using s.beginForward_forwardAs o r ho
  simp only [State.passRead, State.deliverySlot?_congr s (s.leaving o) r (by simp) (by simp), hs]
  rw [forwarded, s.passing_passed o r idle]

/-- A delivery read is passed, and delivers what its slot names (R110). -/
theorem State.passRead_delivers (s : State) (o : Origin) (r : Request) (slot : Nat)
    (idle : s.now = { cause := none, stopDue := false }) (ho : s.ownReady = false) (hs : s.deliverySlot? r = some slot) :
    (s.leaving o).passRead r = (s.withForwarded o r r).deliver slot := by
  have forwarded : (s.leaving o).beginForward.forwardAs (s.leaving o).forwarder.nextSerial r = s.passing o r := by
    simpa using s.beginForward_forwardAs o r ho
  simp only [State.passRead, State.deliverySlot?_congr s (s.leaving o) r (by simp) (by simp), hs]
  rw [forwarded, s.passing_passed o r idle]

/-- Settles O13: no block acts on the request. -/
theorem unexaminedPassUnchanged : Obligations.UnexaminedPassUnchanged := by
  intro s o r between offered
  obtain ⟨presented, waiting⟩ := (s.offers_iff o r).mp offered
  obtain ⟨stands, turn⟩ := (s.presents_iff o r).mp presented
  obtain ⟨-, idle, -⟩ := s.between_iff.mp between
  constructor
  · intro write clear plain
    obtain ⟨guard, noReport, noTorn, noResponse, taken⟩ := (s.clearOfAreas_iff r).mp clear
    have unexamined : (!s.examined r) = true := by simp [State.examined, noReport, noTorn, noResponse, taken, plain]
    refine exec_quiet between ?_
    simp only [effect]
    rw [s.settlePass_next o r _ presented write guard noResponse unexamined, s.passWrite_clear o r idle waiting clear]
    simp [State.settingsWrite, State.settingsRequest_congr s (s.withForwarded o r r) r (by simp), plain]
  · intro read noSlot
    refine exec_quiet between ?_
    simp only [effect]
    rw [s.settle_next o r _ _ stands turn (by simp [read, noSlot]), s.passRead_plain o r idle waiting noSlot]

/-! ### Before its turn (R144, R145) -/

/-- Settles O12: by where the request stands, which is the port or the stopped port. -/
theorem earlyRequestWaits : Obligations.EarlyRequestWaits := by
  intro s o r between fromPort stands early
  have waits : effect (.requestWait o) s = s.joinWaiting o r := by simp [effect, stands, early]
  cases o with
  | waiting source => simp [Origin.fromPort] at fromPort
  | port q =>
    obtain ⟨⟨free, -⟩, rfl⟩ : (s.forwarder.stalled = none ∧ _) ∧ q = r := by simpa [State.requestAt] using stands
    refine ⟨fun room => exec_quiet between ?_, fun full => exec_quiet between ?_⟩
    · simp [waits, State.joinWaiting, room, ← free]
    · simp [waits, State.joinWaiting, Nat.not_lt.mpr full, State.stallPort]
  | stalled =>
    have stalled : s.forwarder.stalled = some r := stands
    refine ⟨fun room => exec_quiet between ?_, fun full => exec_quiet between ?_⟩
    · simp [waits, State.joinWaiting, room]
    · simp [waits, State.joinWaiting, Nat.not_lt.mpr full, ← stalled]

/-! ### Blocked (R142) -/

/-- The answer to a blocked write. -/
def blockedAnswer (r : Request) : Completion := { source := r.source, tag := r.tag, status := .error, data := [] }

/-- The state in which a blocked write has been answered. -/
def State.answered (s : State) (o : Origin) (r : Request) : State :=
  { s.leaving o with forwarder := { (s.leaving o).forwarder with
    toInitiator := s.forwarder.toInitiator ++ [blockedAnswer r] } }

/-- BLOCKED_WRITE answers the write and sets GUARD_BLOCK. -/
theorem effect_blockedWrite {s : State} {o : Origin} {r : Request} (h : s.presents o r = true)
    (hg : s.guardFails r = true) :
    effect (.blockedWrite o) s = (s.answered o r).setError .guardBlock s.time.counter := by
  obtain ⟨stands, turn⟩ := (s.presents_iff o r).mp h
  simp only [effect]
  rw [s.settle_next o r _ _ stands turn hg]
  simp [State.blockWrite, State.answered, blockedAnswer]

/-- Settles O14: the answer goes out, and GUARD_BLOCK alone is set. -/
theorem guardedWriteIsBlocked : Obligations.GuardedWriteIsBlocked := by
  intro s o r between presented fails tolerated room
  have place : (s.answered o r).events.holding.length < Config.holdingPlaces := by
    simpa [State.answered, State.eventRoom] using room
  have tolerates : (s.answered o r).tolerates .guardBlock = true := by
    simpa [State.answered, State.tolerates] using tolerated
  obtain ⟨now, errors, -⟩ := (s.answered o r).setError_calm .guardBlock s.time.counter tolerates place
  obtain ⟨-, idle, -⟩ := s.between_iff.mp between
  refine ⟨_, exec_calm between (effect_blockedWrite presented fails) (by rw [now]; simp [State.answered, idle]), ?_, ?_, ?_⟩
  · simpa [State.answered, ErrorKind.code] using errors
  · simp [State.answered, blockedAnswer]
  · simp [State.answered, State.ended_attention]

/-! ### Completions (R138, R147) -/

/-- Settles O16: the completion is not of an own write, so the requests in flight decide. -/
theorem completionIsReturned : Obligations.CompletionIsReturned := by
  intro s c between notOwn
  have other : s.ownCompletion c = false := by
    simpa [State.ownCompletion, Classical.or_iff_not_imp_left] using notOwn
  constructor
  · rintro ⟨q, inFlight, answers⟩
    refine exec_quiet between ?_
    have found : (s.forwarder.inFlight.any fun q => q.answeredBy c) = true :=
      List.any_eq_true.mpr ⟨q, inFlight, by simpa [InFlight.answeredBy] using answers⟩
    simp only [effect, State.returnCompletion, other, found]
    rfl
  · intro noneAnswered
    refine exec_quiet between ?_
    have missing : (s.forwarder.inFlight.any fun q => q.answeredBy c) = false :=
      List.any_eq_false.mpr fun q inFlight => by simpa [InFlight.answeredBy] using noneAnswered q inFlight
    simp [effect, State.returnCompletion, other, missing]

/-! ### Reset -/

/-- Settles O9: the power-on values meet what holds within a step, and between steps. -/
theorem resetMeetsInvariants : Obligations.ResetMeetsInvariants :=
  have sound := powerOn_sound { settingsBase := 0, settingsSource := 0, ownSource := 0 } []
  ⟨sound.bounded rfl (powerOn_attention _ _), sound.canonical, (joined_iff sound.canonical).mp (powerOn_joined _ _)⟩

end Sys2Proof.Machine
end

section
/-!
Reports accepted, refused and torn: what the report intake does about a write that meets the ring alone.
-/

namespace Sys2Proof.Machine

set_option Elab.async false

/-- A row of the report ring does what the report intake does once the write has been forwarded (R30, R31, R139). -/
theorem State.settlePass_meetsOnlyRing (s : State) (o : Origin) (r : Request) (kind : Request → Bool)
    (ho : s.offers o r = true) (hr : s.meetsOnlyRing r = true) (hw : Request.isWrite r = true) (hk : kind r = true)
    (calm : ((s.passing o r).intakeWrite r).now.stopDue = false) :
    s.settlePass o kind = ((s.passing o r).intakeWrite r).withCause none := by
  obtain ⟨presented, waiting⟩ := (s.offers_iff o r).mp ho
  obtain ⟨guard, noResponse, -, -⟩ := (s.meetsOnlyRing_iff r).mp hr
  rw [s.settlePass_next o r kind presented hw guard noResponse hk, s.passWrite_meetsOnlyRing o r waiting hr calm]

/-- REPORT_WRITE takes the report. -/
theorem effect_reportWrite (s : State) (o : Origin) (r : Request) (slot : Nat) (ho : s.offers o r = true)
    (hr : s.meetsOnlyRing r = true) (hs : s.reportSlot? r = some slot)
    (calm : ((s.passing o r).takeReport r slot).now.stopDue = false) :
    effect (.reportWrite o) s = ((s.passing o r).takeReport r slot).withCause none := by
  have taken : (s.passing o r).intakeWrite r = (s.passing o r).takeReport r slot := by
    simp [State.intakeWrite, State.reportSlot?_congr s (s.passing o r) r (by simp) (by simp), hs]
  rw [← taken] at calm ⊢
  exact s.settlePass_meetsOnlyRing o r _ ho hr (State.isWrite_of_reportSlot? hs) (by simp [hs]) calm

theorem State.passing_checkReport (s : State) (o : Origin) (r : Request) (slot : Nat) :
    (s.passing o r).checkReport r slot = s.checkReport r slot :=
  State.checkReport_congr s _ r slot (by simp) (by simp) (by simp)

/-- Settles O17: the report joins once it has been forwarded. -/
theorem acceptedReportJoins : Obligations.AcceptedReportJoins := by
  intro s o r slot e between offered ring stands accepted room
  obtain ⟨-, idle, -⟩ := s.between_iff.mp between
  have taken : (s.passing o r).takeReport r slot = (s.passing o r).joinIntake e := by
    simp [State.takeReport, s.passing_checkReport o r slot, accepted, State.enqueue, room]
  refine exec_quiet between ?_
  rw [effect_reportWrite s o r slot offered ring stands (by simp [taken, idle]), taken]
  rw [← s.passing_passed o r idle]
  simp [State.joinIntake, State.withCause]

/-! ### Refused (R35, R38) -/

/-- A rejected report hands REPORT_REJECTED on, and is malformed or sets no error. -/
theorem State.takeReport_rejected {s : State} {r : Request} {slot : Nat} {reason : RejectReason} {channel : Option Nat}
    (h : s.checkReport r slot = .rejected reason channel) :
    s.takeReport r slot =
      let t := s.handOn (rejectedFields (readHeader r) reason channel slot) s.time.counter
      if reason = .malformed then t.setError .malformedReport s.time.counter else t := by
  simp [State.takeReport, h]

/-- Settles O19: an ignored report is passed by, a rejected one reported. -/
theorem refusedReportChangesNoRecord : Obligations.RefusedReportChangesNoRecord := by
  intro s o r slot between offered ring stands
  obtain ⟨-, idle, -⟩ := s.between_iff.mp between
  constructor
  · intro ignored
    have taken : (s.passing o r).takeReport r slot = s.passing o r := by
      simp [State.takeReport, s.passing_checkReport o r slot, ignored]
    refine exec_quiet between ?_
    rw [effect_reportWrite s o r slot offered ring stands (by simp [taken, idle]), taken, s.passing_passed o r idle]
  · intro reason channel rejected room tolerated
    have taken : (s.passing o r).takeReport r slot =
        let t := (s.passing o r).handOn (rejectedFields (readHeader r) reason channel slot) s.time.counter
        if reason = .malformed then t.setError .malformedReport s.time.counter else t := by
      simpa using State.takeReport_rejected ((s.passing_checkReport o r slot).trans rejected)
    have places : (s.passing o r).events.holding.length + 2 ≤ Config.holdingPlaces := by
      simpa [State.eventRoom] using room
    have reported := (s.passing o r).handOn_reports (rejectedFields (readHeader r) reason channel slot)
      s.time.counter (by omega)
    obtain ⟨now, errors, -, holding⟩ := (s.passing o r).handOn_calm (rejectedFields (readHeader r) reason channel slot)
      s.time.counter (by omega)
    generalize ht : (s.passing o r).handOn (rejectedFields (readHeader r) reason channel slot)
      s.time.counter = t at taken reported now errors holding
    have tolerates : t.tolerates .malformedReport = true := by simpa [State.tolerates, ← ht] using tolerated
    obtain ⟨now', errors', -⟩ := t.setError_calm .malformedReport s.time.counter tolerates (by omega)
    have kept := State.reports_of_keeps t (t.setError .malformedReport s.time.counter)
      (fun e => t.setError_keeps .malformedReport _ e) (by simp) _ _ _ reported
    dsimp only at taken
    have calm : ((s.passing o r).takeReport r slot).now.stopDue = false := by
      rw [taken]
      split <;> simp [now', now, idle]
    refine ⟨_, exec_calm between (effect_reportWrite s o r slot offered ring stands calm) (by simpa using calm), ?_⟩
    rw [taken]
    by_cases malformed : reason = .malformed
    · rw [if_pos malformed, if_pos malformed]
      exact ⟨by simp [← ht], by simpa [errors, ErrorKind.code] using errors', by simpa using kept, by simp [← ht],
        by simp [← ht], by simp [← ht], by simp [← ht], by simp [← ht], by simp [← ht], by simp [← ht], by simp [← ht],
        rfl⟩
    · rw [if_neg malformed, if_neg malformed]
      exact ⟨by simp [← ht], by simp [errors], by simpa using reported, by simp [← ht], by simp [← ht], by simp [← ht],
        by simp [← ht], by simp [← ht], by simp [← ht], by simp [← ht], by simp [← ht], rfl⟩

/-! ### A full queue (R41) -/

theorem takeNewestData_none {l : List Report} (h : ∀ x ∈ l, x.kind ≠ .data) : takeNewestData l = none := by
  cases e : takeNewestData l with
  | none => rfl
  | some p =>
    obtain ⟨before, after, rfl, -, data, -⟩ := takeNewestData_spec e
    exact absurd data (h _ (by simp))

/-- The entry found is the last DATA entry, and the others keep their order. -/
theorem takeNewestData_newest (before after : List Report) (d : Report) (data : d.kind = .data)
    (last : ∀ x ∈ after, x.kind ≠ .data) :
    takeNewestData (before ++ d :: after) = some (d, before ++ after) := by
  induction before with
  | nil => simp [takeNewestData, takeNewestData_none last, data]
  | cons e before ih => simp [takeNewestData, ih]

/-- With no DATA entry to displace, the report is lost: its event, and INTAKE_OVERFLOW. -/
theorem State.enqueue_lost (s : State) (h : Header) (e : Report) (hk : e.kind ≠ .data)
    (hq : s.intake.queue.length = Config.intakePlaces) (hn : takeNewestData s.intake.queue = none) :
    s.enqueue h e =
      (s.handOn (rejectedFields h .overflow (some e.channel) e.slot) s.time.counter).setError .intakeOverflow
        s.time.counter := by
  cases kind : e.kind with
  | data => exact absurd kind hk
  | _ => simp [State.enqueue, hq, kind, hn]

/-- The newest DATA entry is displaced, and the report joins. -/
theorem State.enqueue_displaces (s : State) (h : Header) (e d : Report) (kept : List Report) (hk : e.kind ≠ .data)
    (hq : s.intake.queue.length = Config.intakePlaces) (hn : takeNewestData s.intake.queue = some (d, kept)) :
    s.enqueue h e =
      ((({ s with intake := { s.intake with queue := kept } } : State).handOn (s.displacedFields d) s.time.counter)).joinIntake
        e := by
  cases kind : e.kind with
  | data => exact absurd kind hk
  | _ =>
    simp [State.enqueue, hq, kind, hn]
    rfl

@[simp] theorem State.joinIntake_reports (s : State) (e : Report) (f : EventFields) (time : Time) (cause : Option Nat) :
    (s.joinIntake e).reports f time cause = s.reports f time cause := rfl

/-- Settles O21: by whether the queue holds a DATA entry. -/
theorem fullQueueDisplacesNewestData : Obligations.FullQueueDisplacesNewestData := by
  intro s o r slot e between offered ring stands accepted kind full room tolerated
  obtain ⟨-, idle, -⟩ := s.between_iff.mp between
  have taken : (s.passing o r).takeReport r slot = (s.passing o r).enqueue (readHeader r) e := by
    simp [State.takeReport, s.passing_checkReport o r slot, accepted]
  have places : (s.passing o r).events.holding.length + 2 ≤ Config.holdingPlaces := by
    simpa [State.eventRoom] using room
  have counter : (s.passing o r).time.counter = s.time.counter := by simp
  cases newest : takeNewestData s.intake.queue with
  | none =>
    have noData : ∀ before d after, s.intake.queue = before ++ d :: after → d.kind = .data →
        (∀ x ∈ after, x.kind ≠ .data) → False := by
      intro before d after queue data last
      rw [queue, takeNewestData_newest before after d data last] at newest
      cases newest
    rw [State.enqueue_lost _ _ e kind (by simpa using full) (by simpa using newest),
      State.slot_of_checkReport_accepted accepted, counter] at taken
    have reported := (s.passing o r).handOn_reports
      (rejectedFields (readHeader r) .overflow (some e.channel) slot) s.time.counter (by omega)
    obtain ⟨now, errors, -, holding⟩ := (s.passing o r).handOn_calm
      (rejectedFields (readHeader r) .overflow (some e.channel) slot) s.time.counter (by omega)
    generalize ht : (s.passing o r).handOn (rejectedFields (readHeader r) .overflow (some e.channel) slot)
      s.time.counter = t at taken reported now errors holding
    have tolerates : t.tolerates .intakeOverflow = true := by simpa [State.tolerates, ← ht] using tolerated
    obtain ⟨now', errors', -⟩ := t.setError_calm .intakeOverflow s.time.counter tolerates (by omega)
    have kept := State.reports_of_keeps t (t.setError .intakeOverflow s.time.counter)
      (fun e => t.setError_keeps .intakeOverflow _ e) (by simp) _ _ _ reported
    have calm : ((s.passing o r).takeReport r slot).now.stopDue = false := by simp [taken, now', now, idle]
    refine ⟨_, exec_calm between (effect_reportWrite s o r slot offered ring stands calm) (by simpa using calm),
      fun before d after queue data last => absurd (noData before d after queue data last) id, fun _ => ?_, ?_⟩
    · rw [taken]
      exact ⟨by simp [← ht], by simpa [errors, ErrorKind.code] using errors', by simpa using kept⟩
    · rw [taken]
      exact ⟨by simp [← ht], by simp [← ht], by simp [← ht], by simp [← ht], by simp [← ht], by simp [← ht],
        by simp [← ht], by simp [← ht], rfl⟩
  | some p =>
    obtain ⟨d, kept⟩ := p
    obtain ⟨before, after, queue, rest, data, last⟩ := takeNewestData_spec newest
    rw [State.enqueue_displaces _ _ e d kept kind (by simpa using full) (by simpa using newest), counter] at taken
    generalize hu : ({ s.passing o r with intake := { (s.passing o r).intake with queue := kept } } : State) = u at taken
    have uframe : u.events = s.events ∧ u.intake = { s.intake with queue := kept } ∧
        u.now.cause = some s.forwarder.nextSerial ∧ u.now.stopDue = s.now.stopDue := by simp [← hu]
    obtain ⟨uevents, uintake, ucause, udue⟩ := uframe
    have uplaces : u.events.holding.length < Config.holdingPlaces := by rw [← hu]; dsimp only; omega
    have fields : (s.passing o r).displacedFields d = s.displacedFields d := by simp [State.displacedFields]
    rw [fields] at taken
    have reported := u.handOn_reports (s.displacedFields d) s.time.counter uplaces
    obtain ⟨now, errors, -, -⟩ := u.handOn_calm (s.displacedFields d) s.time.counter uplaces
    have calm : ((s.passing o r).takeReport r slot).now.stopDue = false := by simp [taken, now, udue, idle]
    refine ⟨_, exec_calm between (effect_reportWrite s o r slot offered ring stands calm) (by simpa using calm),
      fun before' d' after' queue' data' last' => ?_, fun noData => absurd data (noData d (by simp [queue])), ?_⟩
    · have same := takeNewestData_newest before' after' d' data' last'
      rw [← queue', newest] at same
      cases same
      rw [taken]
      exact ⟨by simp [State.joinIntake, uintake], by simp [errors, uevents], by simpa [ucause] using reported⟩
    · rw [taken]
      exact ⟨by simp [← hu], by simp [← hu], by simp [← hu], by simp [← hu], by simp [← hu], by simp [← hu],
        by simp [← hu], by simp [← hu], rfl⟩

/-! ### Torn (R31) -/

/-- Settles O22: the intake sets TORN_REPORT once the write has been forwarded. -/
theorem tornWriteSetsError : Obligations.TornWriteSetsError := by
  intro s o r between offered ring torn room tolerated
  obtain ⟨-, idle, -⟩ := s.between_iff.mp between
  obtain ⟨⟨⟨⟨-, write⟩, -⟩, -⟩, noSlot⟩ : ((((_ ∧ Request.isWrite r = true) ∧ _) ∧ _) ∧ s.reportSlot? r = none) := by
    simpa [State.tornWrite] using torn
  have taken : (s.passing o r).intakeWrite r = (s.passing o r).setError .tornReport s.time.counter := by
    simp [State.intakeWrite, State.reportSlot?_congr s (s.passing o r) r (by simp) (by simp), noSlot,
      State.tornWrite_congr s (s.passing o r) r (by simp) (by simp), torn]
  have tolerates : (s.passing o r).tolerates .tornReport = true := by simpa [State.tolerates] using tolerated
  obtain ⟨now, errors, -⟩ := (s.passing o r).setError_calm .tornReport s.time.counter tolerates
    (by simpa [State.eventRoom] using room)
  have calm : ((s.passing o r).intakeWrite r).now.stopDue = false := by simp [taken, now, idle]
  refine ⟨_, exec_calm between (s.settlePass_meetsOnlyRing o r _ offered ring write torn calm) (by simpa using calm), ?_⟩
  rw [taken]
  exact ⟨by simp, by simpa [ErrorKind.code] using errors, by simp, by simp, by simp, by simp, by simp, by simp, by simp,
    by simp, rfl⟩

end Sys2Proof.Machine
end

section
/-!
What a report that passes every check is: the sub-block walk, read back as a chain of sub-blocks (R32 to R37).
-/

namespace Sys2Proof.Machine

set_option Elab.async false

/-! ### Fields -/

theorem bits_lt (w : Word) (hi lo : Nat) : bits w hi lo < 2 ^ (hi - lo + 1) := Nat.mod_lt _ (by positivity)

/-- A signed field is the value of its bits in two's complement. -/
theorem signedField_eq_toInt {width n : Nat} (hw : 0 < width) (h : n < 2 ^ width) :
    signedField width n = (BitVec.ofNat width n).toInt := by
  have power : 2 ^ width = 2 * 2 ^ (width - 1) := by
    rw [← Nat.pow_succ']
    congr 1
    omega
  rw [BitVec.toInt_eq_toNat_cond, BitVec.toNat_ofNat, Nat.mod_eq_of_lt h, signedField]
  by_cases small : n < 2 ^ (width - 1)
  · rw [if_pos small, if_pos (by omega)]
  · rw [if_neg small, if_neg (by omega)]
    norm_cast

/-! ### The walk (R33) -/

/-- Where the first sub-block of a type begins, in a chain that begins at this word. -/
def firstOf (type : Nat) : List (List Word) → Nat → Option Nat
  | [], _ => none
  | block :: rest, at_ => if subBlockType block = type then some at_ else firstOf type rest (at_ + block.length)

/-- The first sub-block of a type stands where it was found. -/
theorem firstOf_spec (type : Nat) (body : List Word) (blocks : List (List Word)) (at_ : Nat)
    (h : blocks.flatten = body.drop at_) :
    (firstOf type blocks at_ = none ∧ (blocks.find? fun b => subBlockType b == type) = none) ∨
      ∃ p b rest, firstOf type blocks at_ = some p ∧ (blocks.find? fun b => subBlockType b == type) = some b ∧
        body.drop p = b ++ rest := by
  induction blocks generalizing at_ with
  | nil => exact .inl ⟨rfl, rfl⟩
  | cons block blocks ih =>
    by_cases found : subBlockType block = type
    · exact .inr ⟨at_, block, blocks.flatten, by simp [firstOf, found], by simp [found], h.symm⟩
    · have rest : blocks.flatten = body.drop (at_ + block.length) := by
        rw [← List.drop_drop, ← h, List.flatten_cons, List.drop_left]
      simpa [firstOf, found] using ih _ rest

/-- A walk that passes reads the rest of the body as sub-blocks, and records the first of each type. -/
theorem walkBody_spec (body : List Word) (fuel at_ seen : Nat) (found walk : Walk)
    (h : walkBody body fuel at_ seen found = some walk) (few : seen ≤ 8) :
    ∃ blocks : List (List Word), blocks.flatten = body.drop at_ ∧ blocks.length + seen ≤ 8 ∧
      (∀ block ∈ blocks, SubBlock block) ∧
      walk = ⟨found.measures.or (firstOf 1 blocks at_), found.taps.or (firstOf 2 blocks at_)⟩ := by
  induction fuel generalizing at_ seen found with
  | zero => simp [walkBody] at h
  | succ fuel ih =>
    unfold walkBody at h
    split at h
    next atEnd =>
      cases h
      exact ⟨[], by simp [List.drop_eq_nil_of_le atEnd], by simpa using few, by simp, by simp [firstOf]⟩
    next inside =>
      dsimp only at h
      split at h
      · cases h
      next passes =>
        simp only [not_or, not_and, not_lt, not_le] at passes
        obtain ⟨positive, short, fits, room, measures, taps⟩ := passes
        generalize hl : bits (body.getD at_ 0) 7 0 = length at h positive short fits measures taps
        obtain ⟨blocks, flat, count, wellFormed, walked⟩ := ih _ _ _ h (by omega)
        have size : ((body.drop at_).take length).length = length := by simp; omega
        have head : ((body.drop at_).take length).getD 0 0 = body.getD at_ 0 := by
          simp [List.getD_eq_getElem?_getD, Nat.pos_of_ne_zero positive]
        refine ⟨(body.drop at_).take length :: blocks, ?_, by simp; omega, ?_, ?_⟩
        · rw [List.flatten_cons, flat, ← List.drop_drop, List.take_append_drop]
        · refine List.forall_mem_cons.mpr ⟨?_, wellFormed⟩
          unfold SubBlock subBlockType
          rw [head, size, hl]
          exact ⟨rfl, by omega, by omega, fun e => by simpa using measures e, fun e => by simpa using taps e⟩
        · rw [walked]
          simp only [firstOf, subBlockType, head, size]
          generalize bits (body.getD at_ 0) 31 24 = type
          by_cases one : type = 1
          · simp [one]
          · by_cases two : type = 2
            · simp [two]
            · simp [one, two]

/-! ### What the recorded sub-blocks say (R34) -/

theorem getD_of_drop {body b rest : List Word} {p k : Nat} (h : body.drop p = b ++ rest) (hk : k < b.length) :
    body.getD (p + k) 0 = b.getD k 0 := by
  have e : (body.drop p)[k]? = b[k]? := by rw [h, List.getElem?_append_left hk]
  simp only [List.getElem?_drop] at e
  simp [List.getD_eq_getElem?_getD, e]

theorem readMeasures_eq {body b rest : List Word} {p : Nat} (h : body.drop p = b ++ rest) (hb : b.length = 3) :
    readMeasures body p =
      { timingError := (BitVec.ofNat 16 (bits (b.getD 1 0) 31 16)).toInt
        frequencyError := (BitVec.ofNat 16 (bits (b.getD 1 0) 15 0)).toInt
        powerError := (BitVec.ofNat 8 (bits (b.getD 2 0) 31 24)).toInt
        mer := bits (b.getD 2 0) 23 16
        collision := (b.getD 2 0).getLsbD 0 } := by
  simp only [readMeasures, getD_of_drop h (show 1 < b.length by omega), getD_of_drop h (show 2 < b.length by omega)]
  rw [signedField_eq_toInt (by decide) (bits_lt _ 31 16), signedField_eq_toInt (by decide) (bits_lt _ 15 0),
    signedField_eq_toInt (by decide) (bits_lt _ 31 24)]

theorem readTap_eq (w : Word) :
    readTap w = ⟨(BitVec.ofNat 16 (bits w 31 16)).toInt, (BitVec.ofNat 16 (bits w 15 0)).toInt⟩ := by
  rw [readTap, signedField_eq_toInt (by decide) (bits_lt _ 31 16), signedField_eq_toInt (by decide) (bits_lt _ 15 0)]

theorem readTaps_eq {body b rest : List Word} {p : Nat} (h : body.drop p = b ++ rest) (hb : b.length = 17) :
    readTaps body p = b.tail.map readTap := by
  refine List.ext_getElem (by simp [readTaps, hb, Config.tapCount]) fun k h1 h2 => ?_
  have inside : 1 + k < b.length := by simp at h2; omega
  have word : body.getD (p + (1 + k)) 0 = b.tail[k]'(by simpa using h2) := by
    rw [getD_of_drop h inside, List.getD_eq_getElem?_getD, List.getElem?_eq_getElem inside]
    simp [Nat.add_comm]
  simp only [readTaps, List.getElem_map, List.getElem_range, Nat.add_assoc, word]

/-! ### The checks (R35 to R37) -/

/-- A burst kind is read from its own code. -/
theorem code_of_burstKind? {code : Nat} {kind : BurstKind} (h : burstKind? code = some kind) : kind.code = code := by
  unfold burstKind? at h
  split at h <;> cases h <;> rfl

/-- The checks an accepted report has passed, and its entry. -/
theorem State.checkReport_accepted {s : State} {r : Request} {slot : Nat} {e : Report}
    (h : s.checkReport r slot = .accepted e) :
    ∃ measures taps, walkBody (reportBody r) 10 0 0 ⟨none, none⟩ = some ⟨some measures, taps⟩ ∧
      (readHeader r).mark = 0xB7 ∧ (readHeader r).format = 1 ∧
      claimant s.settings.active (readHeader r).number = some e.channel ∧
      burstKind? (readHeader r).kindCode = some e.kind ∧ tagInRange (readHeader r).tag = true ∧
      Table.get? s.intake.lastSequence e.channel ≠ some (readHeader r).sequence ∧
      atOrAfter (readHeader r).arrival s.time.counter = false ∧
      (s.time.counter - (readHeader r).arrival).toNat ≤ reportAgeLimit s.settings.active ∧
      e = { channel := e.channel, kind := e.kind, tag := (readHeader r).tag, sequence := (readHeader r).sequence
            arrival := (readHeader r).arrival, measures := readMeasures (reportBody r) measures
            taps := taps.map (readTaps (reportBody r)), slot := slot } := by
  unfold State.checkReport at h
  dsimp only at h
  split at h
  · cases h
  next format =>
    split at h
    · cases h
    next channel claims =>
      split at h
      next kind measures taps isKind inRange walked =>
        split at h
        · cases h
        next fresh =>
          split at h
          · cases h
          next before =>
            split at h
            · cases h
            next young =>
              cases h
              simp only [not_or, not_not] at format
              exact ⟨measures, taps, walked, format.1, format.2, claims, isKind, inRange, fresh, by simpa using before,
                by simpa using young, rfl⟩
      · cases h

/-- Settles O18: the checks passed, and the chain that the walk has read. -/
theorem acceptedReportPassesChecks : Obligations.AcceptedReportPassesChecks := by
  intro s r slot e accepted
  obtain ⟨measures, taps, walked, mark, format, claims, kind, inRange, fresh, before, young, entry⟩ :=
    State.checkReport_accepted accepted
  have channel := List.find?_some claims
  obtain ⟨isOpen, number⟩ : channelOpen s.settings.active e.channel = true ∧ _ := by simpa using channel
  obtain ⟨low, high⟩ : 1 ≤ (readHeader r).tag ∧ (readHeader r).tag ≤ 16383 := by simpa [tagInRange] using inRange
  obtain ⟨blocks, flat, count, wellFormed, walk⟩ := walkBody_spec _ _ _ _ _ _ walked (Nat.zero_le _)
  simp only [Option.none_or, Walk.mk.injEq] at walk
  obtain ⟨someMeasures, theTaps⟩ := walk
  have tag : e.tag = (readHeader r).tag := by rw [entry]
  have sequence : e.sequence = (readHeader r).sequence := by rw [entry]
  have arrival : e.arrival = (readHeader r).arrival := by rw [entry]
  have lowerHalf : (readHeader r).sequence.toNat = bits (Request.word r 1) 31 16 := by
    show (BitVec.ofNat 16 (bits (Request.word r 1) 31 16)).toNat = _
    rw [BitVec.toNat_ofNat, Nat.mod_eq_of_lt (bits_lt _ 31 16)]
  refine ⟨mark, format, claimant_lt claims, isOpen, number, code_of_burstKind? kind, tag, tag ▸ low, tag ▸ high,
    by rw [sequence, lowerHalf], sequence ▸ fresh, arrival, ?_, arrival ▸ young, by rw [entry], blocks, flat, count,
    wellFormed, ?_, ?_⟩
  · rw [arrival]
    simpa [atOrAfter] using before
  · rcases firstOf_spec 1 (reportBody r) blocks 0 flat with ⟨none1, -⟩ | ⟨p, b, rest, first, found, stands⟩
    · rw [none1] at someMeasures
      cases someMeasures
    · have three := (wellFormed b (List.mem_of_find?_eq_some found)).2.2.2.1 (by simpa using List.find?_some found)
      rw [first] at someMeasures
      cases someMeasures
      exact ⟨b, found, by rw [entry, ← readMeasures_eq stands three]⟩
  · have taken : e.taps = taps.map (readTaps (reportBody r)) := by rw [entry]
    rw [taken, theTaps]
    rcases firstOf_spec 2 (reportBody r) blocks 0 flat with ⟨none2, found⟩ | ⟨p, b, rest, first, found, stands⟩
    · rw [none2, found]
      rfl
    · have seventeen := (wellFormed b (List.mem_of_find?_eq_some found)).2.2.2.2 (by simpa using List.find?_some found)
      rw [first, found]
      simp only [Option.map_some, readTaps_eq stands seventeen]
      congr 2
      exact funext readTap_eq

end Sys2Proof.Machine
end

section
/-!
The arithmetic of a correction, the chain of its verdict, and the order in which deadlines fire.
-/

namespace Sys2Proof.Machine

set_option Elab.async false

/-! ### Clamps (R64 to R66) -/

/-- A clamped adjustment keeps the sum within the window. -/
theorem clampAdjustment_sum {low high committed adjustment : Int} (h : low ≤ high) :
    low ≤ committed + (clampAdjustment low high committed adjustment).1 ∧
      committed + (clampAdjustment low high committed adjustment).1 ≤ high := by
  unfold clampAdjustment
  dsimp only
  split
  · constructor <;> simp [h]
  · split
    · constructor <;> simp [h]
    · simp only
      omega

/-- From within the window, an adjustment is reduced toward 0. -/
theorem clampAdjustment_between {low high committed adjustment : Int} (h1 : low ≤ committed) (h2 : committed ≤ high) :
    min adjustment 0 ≤ (clampAdjustment low high committed adjustment).1 ∧
      (clampAdjustment low high committed adjustment).1 ≤ max adjustment 0 := by
  unfold clampAdjustment
  dsimp only
  split
  · simp only
    omega
  · split <;> simp only <;> omega

/-- A clamped sum stands at an end of the window. -/
theorem clampAdjustment_clamped {low high committed adjustment : Int}
    (h : (clampAdjustment low high committed adjustment).2 = true) :
    committed + (clampAdjustment low high committed adjustment).1 = low ∨
      committed + (clampAdjustment low high committed adjustment).1 = high := by
  unfold clampAdjustment at h ⊢
  dsimp only at h ⊢
  split at h
  next below => simp [below]
  next notBelow =>
    split at h
    next above => simp [notBelow, above]
    · cases h

theorem deadZoned_cases (zone : Nat) (e : Int) : deadZoned zone e = 0 ∨ deadZoned zone e = e := by
  unfold deadZoned
  split
  · exact .inl rfl
  · exact .inr rfl

/-- The frequency adjustment is a clamped adjustment, of at most 32,767. -/
theorem frequencyStage_clamp (zone limit : Nat) (committed f : Int) :
    ∃ wanted, (wanted = 0 ∨ wanted = -f ∨ wanted = 32767) ∧ wanted ≤ 32767 ∧
      (frequencyStage zone limit committed f).1 = (clampAdjustment (-limit) limit committed wanted).1 := by
  unfold frequencyStage
  dsimp only
  split
  · exact ⟨32767, by simp, by simp, rfl⟩
  next fits =>
    refine ⟨-(deadZoned zone f), ?_, by omega, rfl⟩
    rcases deadZoned_cases zone f with e | e <;> simp [e]

/-- The frequency sum stays within its limit. -/
theorem frequencyStage_sum (zone limit : Nat) (committed f : Int) :
    -(limit : Int) ≤ committed + (frequencyStage zone limit committed f).1 ∧
      committed + (frequencyStage zone limit committed f).1 ≤ limit := by
  obtain ⟨wanted, -, -, e⟩ := frequencyStage_clamp zone limit committed f
  rw [e]
  exact clampAdjustment_sum (by omega)

/-- An unclamped frequency adjustment is the opposite of the error. -/
theorem frequencyStage_unclamped {zone limit : Nat} {committed f : Int}
    (h : (frequencyStage zone limit committed f).2 = false) :
    (frequencyStage zone limit committed f).1 = -(deadZoned zone f) := by
  unfold frequencyStage at h ⊢
  dsimp only at h ⊢
  split at h
  · cases h
  next fits =>
    rw [if_neg fits]
    exact clampAdjustment_unclamped h

/-- An 8-bit field's value. -/
theorem signedField_byte {n : Nat} (h : n < 2 ^ 8) : -128 ≤ signedField 8 n ∧ signedField 8 n ≤ 127 := by
  unfold signedField
  split <;> omega

/-- Settles O55: each stage is a clamp into a window that the committed value is in. -/
theorem adjustmentsKeepBounds : Obligations.AdjustmentsKeepBounds := by
  intro snapshot channel m taps v ceiling limit low high r t1 t2 p1 p2 p3 p4 f1 f2 g1 g2 e1 e2
  have lowByte : -128 ≤ low := (signedField_byte (bits_lt _ 7 0)).1
  have highByte : high ≤ 127 := (signedField_byte (bits_lt _ 15 8)).2
  have timing : -ceiling ≤ v.timing + r.timing ∧ v.timing + r.timing ≤ ceiling := clampAdjustment_sum (by omega)
  have power : low ≤ v.power + r.power ∧ v.power + r.power ≤ high := clampAdjustment_sum (by omega)
  have frequency : -limit ≤ v.frequency + r.frequency ∧ v.frequency + r.frequency ≤ limit :=
    frequencyStage_sum _ _ _ _
  refine ⟨by omega, fun clamped => ?_, by omega, fun unclamped => clampAdjustment_unclamped unclamped, ?_,
    fun unclamped => frequencyStage_unclamped unclamped, fun error zone => ?_⟩
  · have ends := clampAdjustment_clamped clamped
    refine ⟨?_, ends.symm⟩
    show (if r.timingClamped then 0 else _) = 0
    simp [clamped]
  · obtain ⟨wanted, choices, small, e⟩ := frequencyStage_clamp (frequencyDeadZone snapshot channel)
      (frequencyLimit snapshot channel) v.frequency m.frequencyError
    have between := clampAdjustment_between (adjustment := wanted) f1 f2
    have same : r.frequency = (clampAdjustment (-limit) limit v.frequency wanted).1 := e
    rw [← same] at between
    omega
  · have beyond : deadZoned (frequencyDeadZone snapshot channel) m.frequencyError = -32768 := by
      rw [error, deadZoned, if_neg (by omega)]
    show (frequencyStage _ _ _ _).2 = true
    unfold frequencyStage
    simp [beyond]

/-! ### New coefficients (R58 to R63) -/

theorem saturate_bounds (x : Int) : -32768 ≤ saturate x ∧ saturate x ≤ 32767 := by
  unfold saturate
  split
  · omega
  · split <;> omega

/-- The law of committed coefficients: 16 taps, the main tap at unity, every component in range (R4). -/
def CoefficientLaw (n : List Tap) (main : Nat) : Prop :=
  n.length = Config.tapCount ∧ tapAt n main = ⟨8192, 0⟩ ∧
    ∀ k, -32768 ≤ (tapAt n k).re ∧ (tapAt n k).re ≤ 32767 ∧ -32768 ≤ (tapAt n k).im ∧ (tapAt n k).im ≤ 32767

theorem normalised_length (v : List Tap) (main : Nat) : (normalised v main).length = Config.tapCount := by
  simp [normalised]

theorem normalised_main (v : List Tap) {main : Nat} (h : main < Config.tapCount) :
    (normalised v main)[main]? = some ⟨Config.unity, 0⟩ := by
  simp [normalised, h]

/-- Saturated, normalised taps obey it. -/
theorem saturated_normalised (v : List Tap) {main : Nat} (h : main < Config.tapCount) :
    CoefficientLaw (saturated (normalised v main)) main := by
  refine ⟨by simp [saturated, normalised_length], ?_, fun k => ?_⟩
  · simp [tapAt, saturated, List.getD_eq_getElem?_getD, normalised_main v h, saturate]
  · simp only [tapAt, saturated, List.getD_eq_getElem?_getD, List.getElem?_map]
    cases (normalised v main)[k]? with
    | none => simp
    | some t => exact ⟨(saturate_bounds _).1, (saturate_bounds _).2, (saturate_bounds _).1, (saturate_bounds _).2⟩

/-- What the coefficient stage hands on with new coefficients, and without. -/
theorem coefficientsOf_spec (committed burst : List Tap) (main period recentre : Nat) (h : main < Config.tapCount) :
    let stage := coefficientsOf committed burst main period recentre
    (∃ n, stage.coefficients = some n ∧ CoefficientLaw n main ∧ stage.nullMain = false ∧
      stage.spread = some (spreadOf n main)) ∨
    (stage.coefficients = none ∧ stage.nullMain = true ∧ stage.spread = none ∧ stage.saturatedTap = false) := by
  unfold coefficientsOf
  dsimp only
  split
  · exact .inr ⟨rfl, rfl, rfl, rfl⟩
  · split
    all_goals
      split
      · exact .inr ⟨rfl, rfl, rfl, rfl⟩
      · exact .inl ⟨_, rfl, saturated_normalised _ h, rfl, rfl⟩

/-- Settles O56: by whether the stage hands coefficients on. -/
theorem newCoefficientsObeyTheLaw : Obligations.NewCoefficientsObeyTheLaw := by
  intro committed burst main period recentre bound stage
  rcases coefficientsOf_spec committed burst main period recentre bound with
    ⟨n, coefficients, ⟨length, unity, range⟩, null, spread⟩ | ⟨coefficients, null, spread, saturatedTap⟩
  · refine ⟨fun n' e => ?_, fun e => by simp [stage, coefficients] at e⟩
    cases coefficients.symm.trans e
    exact ⟨length, unity, range, null, _, spread, Nat.min_le_left _ _⟩
  · exact ⟨fun n' e => (by simp [stage, coefficients] at e), fun _ => ⟨null, spread, saturatedTap⟩⟩

/-- Coefficients that a correction hands on obey the law. -/
theorem arithmetic_coefficients {snapshot : Table Word} {channel : Nat} {m : Measures} {taps : Option (List Tap)}
    {v : Committed} {n : List Tap} (h : (arithmetic snapshot channel m taps v).stage2.coefficients = some n) :
    CoefficientLaw n (mainPosition snapshot channel) := by
  have bound : mainPosition snapshot channel < Config.tapCount := bits_lt _ 3 0
  cases taps with
  | none => cases h
  | some burst =>
    rcases coefficientsOf_spec v.coefficients burst (mainPosition snapshot channel) (symbolPeriod snapshot channel)
      (recentreLimit snapshot channel) bound with ⟨n', e, law, -⟩ | ⟨e, -⟩
    · cases e.symm.trans h
      exact law
    · cases e.symm.trans h

/-- Settles O57: each committed value takes a clamped adjustment or none, and the coefficients new ones or none. -/
theorem confirmationKeepsCommittedLaws : Obligations.ConfirmationKeepsCommittedLaws := by
  intro snapshot channel m taps v verdict conditions main laws low high ⟨coefficients, timing, power1, power2, f1, f2⟩
  obtain ⟨t1, t2, residue⟩ := timing
  generalize hr : arithmetic snapshot channel m taps v = r
  have timingSum : -(timingCeiling snapshot channel : Int) ≤ v.timing + r.timing ∧
      v.timing + r.timing ≤ timingCeiling snapshot channel := by
    rw [← hr]
    exact clampAdjustment_sum (by omega)
  have residueBound : r.residue ≤ 255 := by
    rw [← hr]
    simp only [arithmetic]
    split <;> omega
  have powerSum : powerLow snapshot channel ≤ v.power + r.power ∧ v.power + r.power ≤ powerHigh snapshot channel := by
    rw [← hr]
    exact clampAdjustment_sum (by omega)
  have frequencySum : -(frequencyLimit snapshot channel : Int) ≤ v.frequency + r.frequency ∧
      v.frequency + r.frequency ≤ frequencyLimit snapshot channel := by
    rw [← hr]
    exact frequencyStage_sum _ _ _ _
  refine ⟨?_, ?_, ?_⟩
  · show CoefficientLaw ((if verdict.coefficients then r.stage2.coefficients else none).getD v.coefficients) main
    split
    · cases e : r.stage2.coefficients with
      | none => exact coefficients
      | some n => exact arithmetic_coefficients (hr ▸ e)
    · exact coefficients
  · simp only [Committed.confirm, buildIssued]
    split <;> simp_all
  · simp only [Committed.confirm, buildIssued]
    refine ⟨?_, ?_, ?_, ?_⟩ <;> split <;> simp_all

/-! ### The chain (R81 to R86) -/

/-- How a chain ends from one lookup on. -/
theorem chain_spec (snapshot : Table Word) (channel : Nat) (conditions : BitVec 18) (left made row selector : Nat) :
    let j := chain snapshot channel conditions left made row selector
    let default := readFinal (defaultVerdictWord snapshot channel)
    made ≤ j.lookups ∧ j.lookups ≤ made + left ∧
    (j.fallback = .none → ∃ row entry, j.ended = some (row, entry) ∧ row ≤ 255 ∧ entry ≤ 7 ∧ made < j.lookups ∧
      readEntry (Words.read snapshot (Config.verdictTable + 8 * row + entry)) = .final j.verdict) ∧
    (j.fallback = .rowOverrun → j.ended = none ∧ j.lookups < made + left ∧ j.verdict = default) ∧
    (j.fallback = .chainLong → j.ended = none ∧ j.lookups = made + left ∧ j.verdict = default) := by
  induction left generalizing made row selector with
  | zero => exact ⟨le_refl _, le_refl _, nofun, nofun, fun _ => ⟨rfl, rfl, rfl⟩⟩
  | succ left ih =>
    unfold chain
    dsimp only
    split
    · exact ⟨le_refl _, Nat.le_add_right _ _, nofun, fun _ => ⟨rfl, Nat.lt_add_of_pos_right (Nat.succ_pos _), rfl⟩, nofun⟩
    next inside =>
      split
      next verdict entry =>
        exact ⟨Nat.le_succ _, by simp only; omega, fun _ => ⟨_, _, rfl, Nat.not_lt.mp inside,
          Nat.le_of_lt_succ (Nat.mod_lt _ (by decide)), Nat.lt_succ_self _, entry⟩, nofun, nofun⟩
      next row' selector' entry =>
        obtain ⟨low, high, ended, overrun, long⟩ := ih (made + 1) row' selector'
        refine ⟨by omega, by omega, fun e => ?_, fun e => ?_, fun e => ?_⟩
        · obtain ⟨row, at_, h1, h2, h3, h4, h5⟩ := ended e
          exact ⟨row, at_, h1, h2, h3, by omega, h5⟩
        · obtain ⟨h1, h2, h3⟩ := overrun e
          exact ⟨h1, by omega, h3⟩
        · obtain ⟨h1, h2, h3⟩ := long e
          exact ⟨h1, by omega, h3⟩

/-- A word of 0 ends the chain, SILENT. -/
theorem readEntry_zero : readEntry 0 = .final silentVerdict := by decide

/-- A chain whose first lookup reads 0 ends there. -/
theorem chain_zero {snapshot : Table Word} {channel : Nat} {conditions : BitVec 18} {left made row selector : Nat}
    (inside : row + selectorKey conditions (selectorList snapshot selector) / 8 ≤ 255)
    (zero : Words.read snapshot (Config.verdictTable +
      8 * (row + selectorKey conditions (selectorList snapshot selector) / 8) +
      selectorKey conditions (selectorList snapshot selector) % 8) = 0) :
    let j := chain snapshot channel conditions (left + 1) made row selector
    j.lookups = made + 1 ∧ j.fallback = .none ∧ j.verdict = silentVerdict := by
  unfold chain
  dsimp only
  rw [if_neg (Nat.not_lt.mpr inside), zero, readEntry_zero]
  exact ⟨rfl, rfl, rfl⟩

/-- A key is below 64. -/
theorem selectorKey_selectorList_lt (conditions : BitVec 18) (snapshot : Table Word) (selector : Nat) :
    selectorKey conditions (selectorList snapshot selector) < 64 :=
  calc selectorKey conditions (selectorList snapshot selector)
      < 2 ^ (selectorList snapshot selector).length := selectorKey_lt _ _
    _ ≤ 2 ^ 6 := Nat.pow_le_pow_right (by decide) (selectorList_length_le _ _)

/-- Settles O59: the chain from its first lookup on, with four allowed. -/
theorem chainEndsWithinFourLookups : Obligations.ChainEndsWithinFourLookups := by
  intro snapshot channel kind conditions j default
  obtain ⟨-, most, ended, overrun, long⟩ := chain_spec snapshot channel conditions 4 0 (startRow snapshot channel kind)
    (startSelector snapshot channel kind)
  refine ⟨most, ended, fun e => ?_, long, fun zeroed low => ?_⟩
  · obtain ⟨h1, h2, h3⟩ := overrun e
    exact ⟨h1, Nat.le_of_lt_succ h2, h3⟩
  · have key := selectorKey_selectorList_lt conditions snapshot (startSelector snapshot channel kind)
    obtain ⟨lookups, fallback, verdict⟩ := chain_zero (snapshot := snapshot) (channel := channel)
      (conditions := conditions) (left := 3) (made := 0) (row := startRow snapshot channel kind)
      (selector := startSelector snapshot channel kind) (by omega) (by
        rw [Nat.add_assoc]
        exact zeroed _ (by omega))
    have silent : j.verdict = silentVerdict := verdict
    exact ⟨lookups, fallback, by rw [silent]; rfl, by rw [silent]; rfl, by rw [silent]; rfl, by rw [silent]; rfl⟩

/-! ### Deadlines (R124, R127) -/

/-- The order of the deadline list. -/
def Before (counter : Time) (d e : Deadline) : Prop := remaining d.expiry counter ≤ remaining e.expiry counter

theorem insertByRemaining_mem (counter : Time) (d x : Deadline) (l : List Deadline) :
    x ∈ insertByRemaining counter d l ↔ x = d ∨ x ∈ l := by
  induction l with
  | nil => simp [insertByRemaining]
  | cons e l ih =>
    unfold insertByRemaining
    split
    · simp
    · simp only [List.mem_cons, ih]
      tauto

theorem insertByRemaining_sorted (counter : Time) (d : Deadline) (l : List Deadline) (h : l.Pairwise (Before counter)) :
    (insertByRemaining counter d l).Pairwise (Before counter) := by
  induction l with
  | nil => simp [insertByRemaining]
  | cons e l ih =>
    obtain ⟨first, rest⟩ := List.pairwise_cons.mp h
    unfold insertByRemaining
    split
    next le => exact List.pairwise_cons.mpr ⟨List.forall_mem_cons.mpr ⟨le, fun x hx => le.trans (first x hx)⟩, h⟩
    next gt =>
      refine List.pairwise_cons.mpr ⟨fun x hx => ?_, ih rest⟩
      rcases (insertByRemaining_mem counter d x l).mp hx with rfl | hx
      · exact Nat.le_of_not_le gt
      · exact first x hx

/-- An entry goes before those of its own expiry. -/
theorem insertByRemaining_filter (counter : Time) (d : Deadline) (l : List Deadline) (expiry : Time) :
    (insertByRemaining counter d l).filter (fun x => x.expiry == expiry) =
      (d :: l).filter fun x => x.expiry == expiry := by
  induction l with
  | nil => rfl
  | cons e l ih =>
    unfold insertByRemaining
    split
    · rfl
    next gt =>
      rw [List.filter_cons, ih]
      by_cases same : e.expiry = expiry
      · have other : d.expiry ≠ expiry := fun h => gt (by rw [h, same])
        simp [same, other]
      · simp [List.filter_cons, same]

theorem State.deadlineList_mem (s : State) (x : Deadline) : x ∈ s.deadlineList ↔ x ∈ s.time.deadlines := by
  unfold State.deadlineList
  induction s.time.deadlines with
  | nil => simp
  | cons d l ih => simp [insertByRemaining_mem, ih]

theorem State.deadlineList_sorted (s : State) : s.deadlineList.Pairwise (Before s.time.counter) := by
  unfold State.deadlineList
  induction s.time.deadlines with
  | nil => exact List.Pairwise.nil
  | cons d l ih => exact insertByRemaining_sorted _ d _ ih

/-- Entries of one expiry stand in the order of insertion. -/
theorem State.deadlineList_filter (s : State) (expiry : Time) :
    s.deadlineList.filter (fun x => x.expiry == expiry) = s.time.deadlines.filter fun x => x.expiry == expiry := by
  unfold State.deadlineList
  induction s.time.deadlines with
  | nil => rfl
  | cons d l ih => rw [List.foldr_cons, insertByRemaining_filter, List.filter_cons, List.filter_cons, ih]

/-- An entry found first by its expiry was inserted first among the entries of that expiry, and of those so found its
remaining time is the least. -/
theorem State.deadlineList_first {s : State} {d : Deadline} {p : Deadline → Bool} (h : s.deadlineList.find? p = some d)
    (hp : ∀ x y : Deadline, x.expiry = y.expiry → p x = p y) :
    (∀ x ∈ s.time.deadlines, p x = true → remaining d.expiry s.time.counter ≤ remaining x.expiry s.time.counter) ∧
      ∃ before after, s.time.deadlines = before ++ d :: after ∧ ∀ x ∈ before, x.expiry ≠ d.expiry := by
  obtain ⟨found, as, bs, split, others⟩ := List.find?_eq_some_iff_append.mp h
  constructor
  · intro x hx px
    have mem := (s.deadlineList_mem x).mpr hx
    rw [split, List.mem_append, List.mem_cons] at mem
    rcases mem with mem | rfl | mem
    · exact absurd px (by simpa using others x mem)
    · exact le_refl _
    · have sorted := s.deadlineList_sorted
      rw [split] at sorted
      exact (List.pairwise_cons.mp (List.pairwise_append.mp sorted).2.1).1 x mem
  · have none1 : as.filter (fun x => x.expiry == d.expiry) = [] := by
      refine List.filter_eq_nil_iff.mpr fun x hx e => ?_
      have same := hp x d (by simpa using e)
      have no := others x hx
      simp [same, found] at no
    have head : s.time.deadlines.filter (fun x => x.expiry == d.expiry) =
        d :: bs.filter fun x => x.expiry == d.expiry := by
      rw [← s.deadlineList_filter, split, List.filter_append, none1]
      simp
    obtain ⟨before, after, e, none2, -⟩ := List.filter_eq_cons_iff.mp head
    exact ⟨before, after, e, fun x hx => by simpa using none2 x hx⟩

/-- How long an entry has been due is what is left of 2^32 ticks. -/
theorem State.overdue_eq (s : State) (d : Deadline) :
    s.overdue d = (2 ^ 32 - remaining d.expiry s.time.counter) % 2 ^ 32 := by
  unfold State.overdue remaining
  simp only [BitVec.toNat_sub]
  omega

/-- Settles O60: the order of the list, then arming. -/
theorem deadlinesFireLongestDueFirst : Obligations.DeadlinesFireLongestDueFirst := by
  refine ⟨fun s d fires => ?_, fun s idle x hx => ?_, fun s index kind ticks => ?_⟩
  · unfold State.nextDue at fires
    split at fires
    next past found =>
      cases fires
      obtain ⟨least, first⟩ := State.deadlineList_first found fun x y e => by simp [State.isPast, e]
      have isPast := List.find?_some found
      refine ⟨by simp [State.isDue, isPast], fun x hx due => ?_, first⟩
      have late : 2 ^ 31 ≤ remaining d.expiry s.time.counter := by simpa [State.isPast] using isPast
      rw [s.overdue_eq, s.overdue_eq]
      rcases (Bool.or_eq_true _ _).mp due with now | past
      · have zero : remaining x.expiry s.time.counter = 0 := by simpa using now
        simp [zero]
      · have order := least x hx past
        have bound : remaining x.expiry s.time.counter < 2 ^ 32 := BitVec.isLt _
        omega
    next nonePast =>
      have nothingPast := List.find?_eq_none.mp nonePast
      obtain ⟨least, first⟩ := State.deadlineList_first fires fun x y e => by simp [e]
      have now := List.find?_some fires
      refine ⟨by simp [State.isDue, now], fun x hx due => ?_, first⟩
      rcases (Bool.or_eq_true _ _).mp due with now | past
      · have zero : remaining x.expiry s.time.counter = 0 := by simpa using now
        rw [s.overdue_eq, zero]
        simp
      · exact absurd past (nothingPast x ((s.deadlineList_mem x).mpr hx))
  · unfold State.nextDue at idle
    split at idle
    · cases idle
    next nonePast =>
      have mem := (s.deadlineList_mem x).mpr hx
      have notPast := List.find?_eq_none.mp nonePast x mem
      have notNow := List.find?_eq_none.mp idle x mem
      simpa [State.isDue, notPast] using notNow
  · have apart : ticks ≤ Config.maxInterval → remaining (later s.time.counter ticks) s.time.counter = ticks := by
      intro short
      unfold remaining later
      rw [BitVec.add_comm, BitVec.add_sub_cancel, BitVec.toNat_ofNat, Nat.mod_eq_of_lt (Nat.lt_of_le_of_lt short (by decide))]
    refine ⟨rfl, s.deadlinesFor_arm (by cases kind <;> rfl), fun m other h => s.deadlinesFor_arm_other h,
      fun some short => ⟨apart short, ?_⟩⟩
    have below : ticks < 2 ^ 31 := Nat.lt_of_le_of_lt short (by decide)
    simp only [State.isDue, State.isPast, apart short, Bool.or_eq_false_iff, beq_eq_false_iff_ne, decide_eq_false_iff_not]
    omega

/-! ### What a fill writes (R102) -/

/-- A word of a filled response. -/
theorem Fill.word_request (f : Fill) (main : Nat) (r : Request) {k : Nat} (h : k < (Request.laneWords r).length) :
    Request.word (f.request main r) k = f.word main k (Request.word r k) := by
  unfold Request.word
  rw [f.request_getElem?, List.getElem?_eq_getElem h]
  rfl

/-- Settles O24: word by word. -/
theorem fillWritesWordsTwoToTwentyOne : Obligations.FillWritesWordsTwoToTwentyOne := by
  intro f main r write long
  have words : 22 ≤ (Request.laneWords r).length := by
    obtain ⟨address, source, tag, body⟩ := r
    cases body with
    | read n => cases write
    | write ws => exact long
  refine ⟨f.request_carries main r, ?_, f.word_request main r (by omega), f.word_request main r (by omega),
    f.word_request main r (by omega), fun k hk => ?_⟩
  · rw [f.word_request main r (by omega)]
    cases e : f.status <;> simp [Fill.word, packed, e]
  · have inside : k < 16 := hk
    rw [f.word_request main r (by omega)]
    unfold Fill.word
    rw [if_neg (by omega), if_neg (by omega), if_neg (by omega), if_neg (by omega), if_pos (by omega),
      Nat.add_sub_cancel_left]

end Sys2Proof.Machine
end

section
/-!
Who may change what: the registers of the window, what has been sent, the ageing counter, and the state STOPPED.
-/

namespace Sys2Proof.Machine

set_option Elab.async false

variable {s t u : State} {r : Request}

/-! ### What has been sent (R148, R149) -/

/-- Between these states own writes have been sent only as a request was forwarded. -/
structure Sends (s t : State) : Prop where
  serial : s.forwarder.nextSerial ≤ t.forwarder.nextSerial
  sends : t.own.nextTag ≠ s.own.nextTag ∨ t.own.outstanding ≠ s.own.outstanding →
    s.forwarder.nextSerial < t.forwarder.nextSerial

theorem Sends.quiet (serial : t.forwarder.nextSerial = s.forwarder.nextSerial := by simp)
    (nextTag : t.own.nextTag = s.own.nextTag := by simp)
    (outstanding : t.own.outstanding = s.own.outstanding := by simp) : Sends s t :=
  ⟨serial.ge, fun h => h.elim (absurd nextTag) (absurd outstanding)⟩

theorem Sends.passed (h : s.forwarder.nextSerial < t.forwarder.nextSerial) : Sends s t := ⟨h.le, fun _ => h⟩

theorem Sends.trans (h : Sends s t) (g : Sends t u) : Sends s u := by
  refine ⟨h.serial.trans g.serial, fun changed => ?_⟩
  by_cases first : t.own.nextTag ≠ s.own.nextTag ∨ t.own.outstanding ≠ s.own.outstanding
  · exact (h.sends first).trans_le g.serial
  · obtain ⟨nextTag, outstanding⟩ := not_or.mp first
    rw [← not_ne_iff.mp nextTag, ← not_ne_iff.mp outstanding] at changed
    exact h.serial.trans_lt (g.sends changed)

theorem Releases.sends (h : Releases s t) : Sends s t := by
  obtain ⟨out, f, same, -⟩ := h.forwards
  refine ⟨by rw [f.nextSerial]; omega, fun changed => ?_⟩
  cases out with
  | nil => exact absurd (same rfl) (fun e => changed.elim (absurd e.1) (absurd e.2))
  | cons q out => rw [f.nextSerial, List.length_cons]; omega

/-! ### The registers of the window (R153, R155, R158, R159, R162, R171) -/

/-- Between these states nothing that a settings write alone may change has changed; a DRAIN that an entry to STOPPED ended
has its result. -/
structure Guarded (s t : State) : Prop where
  staging : t.settings.staging = s.settings.staging
  active : t.settings.active = s.settings.active
  consumer : t.events.consumer = s.events.consumer
  applyResult : t.events.applyResult = s.events.applyResult
  stopped : s.part = .stopped → t.part = .stopped
  commandResult : t.events.commandResult = s.events.commandResult ∧ t.settings.draining = s.settings.draining ∨
    s.settings.draining ≠ none ∧ t.part = .stopped

theorem Guarded.trans (h : Guarded s t) (g : Guarded t u) : Guarded s u := by
  refine ⟨g.staging.trans h.staging, g.active.trans h.active, g.consumer.trans h.consumer,
    g.applyResult.trans h.applyResult, fun e => g.stopped (h.stopped e), ?_⟩
  rcases h.commandResult with ⟨result, draining⟩ | ⟨draining, stopped⟩
  · rw [← result, ← draining]
    exact g.commandResult
  · exact .inr ⟨draining, g.stopped stopped⟩

theorem Guarded.quiet (settings : t.settings = s.settings := by simp) (part : t.part = s.part := by simp)
    (registers : t.registers = s.registers := by simp [State.registers]) : Guarded s t := by
  obtain ⟨consumer, applyResult, commandResult⟩ : _ ∧ _ ∧ _ := by simpa [State.registers] using registers
  exact ⟨by rw [settings], by rw [settings], consumer, applyResult, fun e => part.trans e,
    .inl ⟨commandResult, by rw [settings]⟩⟩

theorem Guarded.refl (s : State) : Guarded s s := Guarded.quiet rfl rfl rfl

theorem Internal.guarded (h : Internal s t) (settings : t.settings = s.settings := by simp)
    (part : t.part = s.part := by simp) : Guarded s t := Guarded.quiet settings part h.registers

/-- The end of a DRAIN at an entry to STOPPED alone touches the command result (R180). -/
theorem Guarded.stopIfDue (s : State) : Guarded s s.stopIfDue := by
  unfold State.stopIfDue
  dsimp only
  split
  · cases e : s.settings.draining with
    | none => exact ⟨by simp, by simp, by simp [State.enterStopped, State.abandonDrain, e],
        by simp [State.enterStopped, State.abandonDrain, e], fun _ => rfl,
        .inl ⟨by simp [State.enterStopped, State.abandonDrain, e], by simp [State.enterStopped, State.abandonDrain, e]⟩⟩
    | some sequence => exact ⟨by simp, by simp, by simp [State.enterStopped, State.abandonDrain, e],
        by simp [State.enterStopped, State.abandonDrain, e], fun _ => rfl, .inr ⟨by simp [e], rfl⟩⟩
  · exact Guarded.quiet rfl rfl rfl

theorem Guarded.finish (s : State) : Guarded s s.finish := (Guarded.stopIfDue s).trans (Guarded.quiet rfl rfl rfl)

/-! ### A write that is no settings write -/

@[simp] theorem State.intakeWrite_registers (s : State) (r : Request) : (s.intakeWrite r).registers = s.registers := by
  unfold State.intakeWrite
  split
  · unfold State.takeReport State.enqueue
    (repeat' split) <;> simp [State.registers]
  · split <;> simp [State.registers]

/-- Such a write ends when the report intake and the fill unit have done with it. -/
theorem State.passWrite_unsettled (h : s.settingsRequest r = false) :
    s.passWrite r =
      ((((s.beginForward.forwardAs s.forwarder.nextSerial r).intakeWrite r).notTaken r).stopIfDue).withCause none := by
  unfold State.passWrite State.settingsWrite
  dsimp only
  rw [State.settingsRequest_congr s _ r (by simp), h]
  rfl

theorem Guarded.passWrite (h : s.settingsRequest r = false) : Guarded s (s.passWrite r) := by
  rw [State.passWrite_unsettled h]
  have intake : Guarded s ((s.beginForward.forwardAs s.forwarder.nextSerial r).intakeWrite r) :=
    Guarded.quiet (by simp) (by simp) (by rw [State.intakeWrite_registers]; simp [State.registers])
  exact ((intake.trans (Guarded.quiet (by simp) (by simp) (State.notTaken_registers _ r))).trans
    (Guarded.stopIfDue _)).trans (Guarded.quiet rfl rfl rfl)

theorem State.passWrite_ageing (h : s.settingsRequest r = false) : (s.passWrite r).table.ageing = s.table.ageing := by
  rw [State.passWrite_unsettled h]
  simp

/-- A row that passes no settings write. -/
theorem State.settlePass_unsettled {P : State → Prop} (o : Origin) (kind : Request → Bool) (idle : P s)
    (passes : ∀ r, s.settingsRequest r = false → P ((s.leaving o).passWrite r))
    (h : ∀ r, s.presents o r = true → kind r = true → s.settingsRequest r = false) : P (s.settlePass o kind) :=
  State.settle_keeps idle fun r stands turn ready =>
    passes r (h r ((s.presents_iff o r).mpr ⟨stands, turn⟩) ((Bool.and_eq_true _ _).mp ready).2)

theorem Guarded.settlePass (o : Origin) (kind : Request → Bool)
    (h : ∀ r, s.presents o r = true → kind r = true → s.settingsRequest r = false) : Guarded s (s.settlePass o kind) :=
  State.settlePass_unsettled o kind (Guarded.refl s)
    (fun r plain => (Guarded.quiet (by simp) (by simp) (by simp [State.registers])).trans
      (Guarded.passWrite (s := s.leaving o) (by rw [State.settingsRequest_congr s _ r (by simp), plain]))) h

theorem State.settlePass_ageing (o : Origin) (kind : Request → Bool)
    (h : ∀ r, s.presents o r = true → kind r = true → s.settingsRequest r = false) :
    (s.settlePass o kind).table.ageing = s.table.ageing :=
  State.settlePass_unsettled (P := fun t => t.table.ageing = s.table.ageing) o kind rfl
    (fun r plain => by
      rw [State.passWrite_ageing (s := s.leaving o) (by rw [State.settingsRequest_congr s _ r (by simp), plain])]
      simp) h

theorem Sends.settlePass (s : State) (o : Origin) (kind : Request → Bool) : Sends s (s.settlePass o kind) :=
  State.settle_keeps (Sends.quiet rfl rfl rfl) fun r _ _ _ =>
    Sends.passed (by simpa using (PassedOn.passWrite (s.leaving o) r).numbered)

/-! ### Every command -/

/-- A settings write is presented to a row by which it may pass. -/
def BySettings (c : Instr) (s : State) : Prop :=
  ∃ o r, settingsOriginOf c = some o ∧ s.presents o r = true ∧ s.settingsRequest r = true

/-- Without one, no row that passes settings writes passes one. -/
theorem unsettled_of_not {c : Instr} {o : Origin} (h : ¬BySettings c s) (ho : settingsOriginOf c = some o)
    (r : Request) (presented : s.presents o r = true) : s.settingsRequest r = false :=
  Bool.eq_false_iff.mpr fun settings => h ⟨o, r, ho, presented, settings⟩

theorem settingsRequest_of_unexamined (h : (!s.examined r) = true) : s.settingsRequest r = false := by
  simp only [State.examined, Bool.not_eq_true', Bool.or_eq_false_iff] at h
  exact h.2

theorem Guarded.passRead (s : State) (r : Request) : Guarded s (s.passRead r) := by
  have begun : Guarded s ((s.beginForward.forwardAs s.forwarder.nextSerial r).withCause none) :=
    Guarded.quiet (by simp) (by simp) (by simp [State.registers])
  unfold State.passRead
  dsimp only
  split
  · exact begun
  · exact begun.trans (Internal.deliver _ _).guarded

theorem Guarded.passResponse (s : State) (r : Request) (slot : Nat) : Guarded s (s.passResponse r slot) := by
  have begun : Guarded s s.beginForward := Guarded.quiet (by simp) (by simp) (by simp [State.registers])
  unfold State.passResponse
  dsimp only
  split
  next key _ _ =>
    split
    · refine begun.trans ?_
      refine Guarded.trans (Internal.lookup s.beginForward key s.beginForward.time.counter).guarded ?_
      refine Guarded.trans (Internal.settleHeld _).guarded ?_
      exact Guarded.quiet (by simp) (by simp) (by simp [State.registers])
    · exact begun.trans (Guarded.quiet (by simp) (by simp) (by simp [State.registers]))
  · exact begun.trans (Guarded.quiet (by simp) (by simp) (by simp [State.registers]))

theorem Guarded.leaving (o : Origin) (h : Guarded (s.leaving o) t) : Guarded s t :=
  (Guarded.quiet (by simp) (by simp) (by simp [State.registers])).trans h

/-- Commands that pass no settings write, but for DRAIN_DONE. -/
theorem Guarded.effect (c : Instr) (s : State) (h : ¬BySettings c s) (hd : c ≠ .drainDone) : Guarded s (effect c s) := by
  cases c with
  | drainDone => exact absurd rfl hd
  | requestWait o =>
    simp only [Machine.effect]
    (repeat' split) <;> exact Guarded.quiet (by simp) (by simp) (by simp [State.registers])
  | forwardWrite o => exact Guarded.settlePass o _ fun r _ => settingsRequest_of_unexamined
  | forwardRead o | deliveryRead o =>
    exact State.settle_keeps (Guarded.refl s) fun r _ _ _ => Guarded.leaving o (Guarded.passRead _ r)
  | blockedWrite o =>
    exact State.settle_keeps (Guarded.refl s) fun r _ _ _ =>
      Guarded.quiet (by simp) (by simp) (by simp [State.registers, State.blockWrite])
  | responseWrite o =>
    refine State.settle_keeps (Guarded.refl s) fun r _ _ _ => ?_
    unfold State.settleResponse
    split
    · split <;> exact Guarded.quiet (by simp) (by simp) (by simp [State.registers])
    · exact Guarded.leaving o (Guarded.passResponse _ r _)
  | reportWrite o | tornWrite o | responseNotTaken o | settingsWrite o | applyWrite o | consumerIndexWrite o | softReset o
  | channelClose o | stationDrop o | stationRestart o | stationMove o | drain o | errorClear o =>
    exact Guarded.settlePass o _ fun r presented _ => unsettled_of_not h rfl r presented
  | ageingCount =>
    simp only [Machine.effect]
    split
    · exact (Internal.ageByCount s).guarded
    · exact Guarded.refl s
  | takeHead => exact (Internal.takeHead s).guarded
  | notedCompletion => exact (Internal.completeNoted s).guarded
  | fullCompletion => exact (Internal.completeFull s).guarded
  | silenceExpiry => exact (Internal.fireSilence s).guarded
  | confirmExpiry => exact (Internal.fireConfirm s).guarded
  | ageingTimer => exact (Internal.fireAgeingTimer s).guarded
  | ownWriteAck tag status =>
    refine Guarded.quiet (by simp [Machine.effect]) (by simp [Machine.effect]) ?_
    simp only [Machine.effect]
    unfold State.ackOwn
    split
    · rfl
    · dsimp only
      split <;> simp [State.registers]
  | eventWriteOut =>
    refine Guarded.quiet (by simp [Machine.effect]) (by simp [Machine.effect]) ?_
    simp only [Machine.effect]
    unfold State.writeHeldEvent
    (repeat' split) <;> simp [State.registers]
  | _ => exact Guarded.quiet (by simp [Machine.effect]) (by simp [Machine.effect]) (by simp [Machine.effect, State.registers])

/-! ### The ageing counter (R24) -/

theorem State.deliver_ageing (s : State) (slot : Nat) : (s.deliver slot).table.ageing = s.table.ageing := by
  unfold State.deliver
  dsimp only
  (repeat' split) <;> simp

theorem State.passRead_ageing (s : State) (r : Request) : (s.passRead r).table.ageing = s.table.ageing := by
  unfold State.passRead
  dsimp only
  split <;> simp [State.deliver_ageing]

theorem State.settleResponse_ageing (s : State) (o : Origin) (r : Request) (slot : Nat) :
    (s.settleResponse o r slot).table.ageing = s.table.ageing := by
  unfold State.settleResponse State.passResponse
  dsimp only
  (repeat' split) <;> simp

theorem State.ageingStep_ageing (s : State) : s.ageingStep.table.ageing = s.table.ageing :=
  foldl_leaves _ (fun t => t.table.ageing) (fun s i => by
    unfold State.ageContext
    (repeat' split) <;> simp) _ s

theorem State.fireAgeingTimer_ageing (s : State) : s.fireAgeingTimer.table.ageing = s.table.ageing := by
  unfold State.fireAgeingTimer
  dsimp only
  split
  · exact s.ageingStep_ageing
  · rfl

theorem State.fire_ageing (s : State) :
    s.fireSilence.table.ageing = s.table.ageing ∧ s.fireConfirm.table.ageing = s.table.ageing := by
  unfold State.fireSilence State.fireConfirm State.expireSilence State.expireConfirm State.takeDeadline
  dsimp only
  constructor <;> (repeat' split) <;> simp

theorem State.completeNoted_ageing (s : State) : s.completeNoted.table.ageing = s.table.ageing := by
  unfold State.completeNoted
  dsimp only
  (repeat' split) <;> simp

theorem State.completeFull_ageing (s : State) : s.completeFull.table.ageing = s.table.ageing := by
  unfold State.completeFull State.rearmAfterSilent State.rearmSilence State.setFallback
  dsimp only
  (repeat' split) <;> simp

/-- Without a settings write, TAKE_HEAD and AGEING_COUNT alone touch it. -/
theorem effect_ageing (c : Instr) (s : State) (h : ¬BySettings c s) (h1 : c ≠ .takeHead) (h2 : c ≠ .ageingCount) :
    (effect c s).table.ageing = s.table.ageing := by
  have settled {o : Origin} {kind : Request → Bool} {f : Request → State} (hf : ∀ r, (f r).table.ageing = s.table.ageing) :
      (s.settle o kind f).table.ageing = s.table.ageing :=
    State.settle_leaves (fun t => t.table.ageing) s o kind f hf
  cases c with
  | takeHead => exact absurd rfl h1
  | ageingCount => exact absurd rfl h2
  | requestWait o =>
    simp only [Machine.effect]
    (repeat' split) <;> simp
  | forwardWrite o => exact State.settlePass_ageing o _ fun r _ => settingsRequest_of_unexamined
  | forwardRead o | deliveryRead o => exact settled fun r => by simp [State.passRead_ageing]
  | blockedWrite o => exact settled fun r => by simp [State.blockWrite]
  | responseWrite o => exact settled fun r => s.settleResponse_ageing o r _
  | notedCompletion => exact s.completeNoted_ageing
  | fullCompletion => exact s.completeFull_ageing
  | silenceExpiry => exact s.fire_ageing.1
  | confirmExpiry => exact s.fire_ageing.2
  | ageingTimer => exact s.fireAgeingTimer_ageing
  | reportWrite o | tornWrite o | responseNotTaken o | settingsWrite o | applyWrite o | consumerIndexWrite o | softReset o
  | channelClose o | stationDrop o | stationRestart o | stationMove o | drain o | errorClear o =>
    exact State.settlePass_ageing o _ fun r presented _ => unsettled_of_not h rfl r presented
  | _ => simp [Machine.effect]

theorem Sends.effect (c : Instr) (s : State) (h1 : c ≠ .ownWriteSend) (h2 : ∀ tag status, c ≠ .ownWriteAck tag status) :
    Sends s (effect c s) := by
  cases c with
  | ownWriteSend => exact absurd rfl h1
  | ownWriteAck tag status => exact absurd rfl (h2 tag status)
  | requestWait o =>
    simp only [Machine.effect]
    split
    · exact Sends.quiet rfl rfl rfl
    · split
      · exact Sends.quiet rfl rfl rfl
      · unfold State.joinWaiting
        (repeat' split) <;> exact Sends.quiet
  | forwardRead o | deliveryRead o =>
    exact State.settle_keeps (Sends.quiet rfl rfl rfl) fun r _ _ _ =>
      Sends.passed (by simpa using (PassedOn.passRead (s.leaving o) r).numbered)
  | blockedWrite o =>
    exact State.settle_keeps (Sends.quiet rfl rfl rfl) fun r _ _ _ =>
      Sends.quiet (by simp [State.blockWrite]) (by simp [State.blockWrite]) (by simp [State.blockWrite])
  | responseWrite o =>
    refine State.settle_keeps (Sends.quiet rfl rfl rfl) fun r _ _ _ => ?_
    unfold State.settleResponse
    split
    · split <;> exact Sends.quiet
    · exact Sends.passed (by simpa using (PassedOn.passResponse (s.leaving o) r _).numbered)
  | forwardWrite o | reportWrite o | tornWrite o | responseNotTaken o | settingsWrite o | applyWrite o
  | consumerIndexWrite o | softReset o | channelClose o | stationDrop o | stationRestart o | stationMove o | drain o
  | errorClear o => exact Sends.settlePass s o _
  | drainDone =>
    simp only [Machine.effect]
    unfold State.finishDrain State.drainAnswer
    (repeat' split) <;> exact Sends.quiet
  | ageingCount =>
    simp only [Machine.effect]
    split
    · exact (Internal.ageByCount s).sends
    · exact Sends.quiet rfl rfl rfl
  | takeHead => exact (Internal.takeHead s).sends
  | notedCompletion => exact (Internal.completeNoted s).sends
  | fullCompletion => exact (Internal.completeFull s).sends
  | silenceExpiry => exact (Internal.fireSilence s).sends
  | confirmExpiry => exact (Internal.fireConfirm s).sends
  | ageingTimer => exact (Internal.fireAgeingTimer s).sends
  | _ => exact Sends.quiet (by simp [Machine.effect]) (by simp [Machine.effect]) (by simp [Machine.effect])

/-! ### A part that is STOPPED (R178, R180) -/

/-- DRAIN_DONE touches the command result and the DRAIN alone. -/
theorem State.finishDrain_keeps (s : State) :
    s.finishDrain.settings.staging = s.settings.staging ∧ s.finishDrain.settings.active = s.settings.active ∧
      s.finishDrain.events.consumer = s.events.consumer ∧ s.finishDrain.events.applyResult = s.events.applyResult := by
  unfold State.finishDrain State.drainAnswer
  (repeat' split) <;> simp

/-- Settles O10: the effect of every other command keeps the register, and so does the end of its step. -/
theorem registersHaveTheirWriters : Obligations.RegistersHaveTheirWriters := by
  intro c s t reset ran bySettings forwards
  rcases exec_cases ran with ⟨straps, e, -⟩ | ⟨rfl, rfl⟩ | ⟨-, rfl⟩ | ⟨-, -, -, rfl⟩
  · exact absurd e (reset straps)
  · exact ⟨rfl, fun _ => rfl, absurd rfl, absurd rfl, fun _ => .inr (.inr (.inl rfl)),
      fun h => h.elim (absurd rfl) fun h => h.elim (absurd rfl) fun h => h.elim (absurd rfl) (absurd rfl), absurd rfl,
      absurd rfl⟩
  · exact ⟨rfl, absurd rfl, absurd rfl, absurd rfl, absurd rfl,
      fun h => h.elim (absurd rfl) fun h => h.elim (absurd rfl) fun h => h.elim (absurd rfl) (absurd rfl), absurd rfl,
      absurd rfl⟩
  · obtain ⟨-, pins, -, edge⟩ := effect_frame c s
    have ends := Guarded.finish (effect c s)
    have sent := (Releases.finish (effect c s)).sends
    have notSettings : ∀ {p : Prop}, p → (¬BySettings c s → ¬p) → bySettings := fun hp h =>
      Classical.byContradiction fun none1 => h none1 hp
    have sends : c ≠ .ownWriteSend → (∀ tag status, c ≠ .ownWriteAck tag status) → Sends s (effect c s).finish :=
      fun h1 h2 => (Sends.effect c s h1 h2).trans sent
    refine ⟨by simp [pins], fun h => absurd (by simp [pins]) h, fun h => ?_, fun h => ?_, fun h => ?_, fun h => ?_,
      fun h => ?_, fun h => ?_⟩
    · by_cases tick : c = .pclkTick
      · exact .inr tick
      · exact .inl (Classical.byContradiction fun load => h (by simp [edge tick load]))
    · by_cases send : c = .ownWriteSend
      · exact .inl send
      · by_cases ack : ∃ tag status, c = .ownWriteAck tag status
        · obtain ⟨tag, status, rfl⟩ := ack
          refine .inr (Nat.ne_of_gt (Nat.lt_of_le_of_lt ?_ (sent.sends (.inl ?_))))
          · simp [effect]
          · rw [show (effect (.ownWriteAck tag status) s).own.nextTag = s.own.nextTag by simp [effect]]
            exact h
        · exact .inr ((sends send fun tag status e => ack ⟨tag, status, e⟩).sends (.inl h)).ne'
    · by_cases send : c = .ownWriteSend
      · exact .inl send
      · by_cases ack : ∃ tag status, c = .ownWriteAck tag status
        · exact .inr (.inr (.inr (.inr ack)))
        · exact .inr (.inl ((sends send fun tag status e => ack ⟨tag, status, e⟩).sends (.inr h)).ne')
    · refine notSettings h fun plain => ?_
      have kept : (effect c s).settings.staging = s.settings.staging ∧ (effect c s).settings.active = s.settings.active ∧
          (effect c s).events.consumer = s.events.consumer ∧
          (effect c s).events.applyResult = s.events.applyResult := by
        by_cases done : c = .drainDone
        · subst done
          exact s.finishDrain_keeps
        · have g := Guarded.effect c s plain done
          exact ⟨g.staging, g.active, g.consumer, g.applyResult⟩
      rw [ends.staging, ends.active, ends.consumer, ends.applyResult]
      simp [kept]
    · by_cases done : c = .drainDone
      · exact .inr (.inl done)
      · by_cases settings : BySettings c s
        · exact .inl settings
        · rcases ((Guarded.effect c s settings done).trans ends).commandResult with same | stopped
          · exact absurd same.1 h
          · exact .inr (.inr stopped)
    · by_cases take : c = .takeHead
      · exact .inr (.inl take)
      · by_cases count : c = .ageingCount
        · exact .inr (.inr count)
        · exact .inl (notSettings h fun plain => by simp [effect_ageing c s plain take count])

/-! ### What may leave STOPPED -/

/-- STOPPED has been kept, or a SOFT_RESET that the condition allows has made SETUP. -/
def StaysStopped (allowed : Prop) (s : State) : Prop := s.part = .stopped ∨ s.part = .setup ∧ allowed

theorem StaysStopped.congr {p : Prop} (h : StaysStopped p s) (e : t.part = s.part := by simp) : StaysStopped p t := by
  rw [StaysStopped, e]
  exact h

theorem StaysStopped.stopIfDue {p : Prop} (h : StaysStopped p s) : StaysStopped p s.stopIfDue := by
  unfold State.stopIfDue
  dsimp only
  split
  · exact .inl rfl
  · exact h

theorem StaysStopped.finish {p : Prop} (h : StaysStopped p s) : StaysStopped p s.finish := h.stopIfDue

/-- In STOPPED an apply is refused: it touches neither the part state nor the staging copy (R159). -/
theorem State.takeApply_stopped (h : s.part = .stopped) :
    s.takeApply.part = .stopped ∧ s.takeApply.settings = s.settings := by
  simp [State.takeApply, State.applySettings, h]

/-- SOFT_RESET makes SETUP. -/
theorem State.softReset_part (s : State) (sequence : BitVec 16) : (s.softReset sequence).part = .setup := by
  unfold State.softReset
  dsimp only
  rw [foldl_leaves State.issueStatus State.part (by simp)]
  split <;> simp [State.clearForSetup]

/-- Of the commands, SOFT_RESET alone leaves STOPPED (R163, R178). -/
theorem StaysStopped.takeCommand (h : s.part = .stopped) :
    StaysStopped (bits (Words.read s.settings.staging Config.commandWord) 7 0 = 1) s.takeCommand := by
  unfold State.takeCommand
  dsimp only
  split
  · exact .inl h
  split
  · exact .inl (by simpa using h)
  split
  next soft => exact .inr ⟨s.softReset_part _, soft⟩
  split
  · exact .inl (by simpa using h)
  split
  · simp [StaysStopped, h]
  · exact .inl (by simpa using h)

theorem StaysStopped.onControl {p : Prop} {word : Nat} {f : State → State}
    (h : Request.covers r s.pins.straps word = true → StaysStopped p (f s)) (h0 : StaysStopped p s) :
    StaysStopped p (s.onControl r word f) := by
  unfold State.onControl
  split
  next covers => exact (h covers).stopIfDue
  · exact h0

/-- A settings write leaves STOPPED by the SOFT_RESET it starts. -/
theorem StaysStopped.settingsWrite (h : s.part = .stopped) : StaysStopped (s.commands r 1 = true) (s.settingsWrite r) := by
  unfold State.settingsWrite
  split
  next settings =>
    have applied : ((s.copySettings r).onControl r Config.applyWord State.takeApply).part = .stopped ∧
        ((s.copySettings r).onControl r Config.applyWord State.takeApply).settings.staging =
          (s.copySettings r).settings.staging ∧
        ((s.copySettings r).onControl r Config.applyWord State.takeApply).pins.straps = s.pins.straps := by
      have e := State.takeApply_stopped (s := s.copySettings r) (by simpa using h)
      unfold State.onControl
      split
      · have g := Guarded.stopIfDue (s.copySettings r).takeApply
        exact ⟨g.stopped e.1, by rw [g.staging, e.2], by simp⟩
      · exact ⟨by simpa using h, rfl, by simp⟩
    obtain ⟨part, staging, straps⟩ := applied
    have commanded : StaysStopped (s.commands r 1 = true) (((s.copySettings r).onControl r Config.applyWord
        State.takeApply).onControl r Config.commandWord State.takeCommand) := by
      refine StaysStopped.onControl (fun covers => ?_) (.inl part)
      refine (StaysStopped.takeCommand part).imp id (And.imp_right fun soft => ?_)
      rw [straps] at covers
      rw [staging] at soft
      simpa [State.commands, State.controls, State.commandCode, settings, covers] using soft
    exact StaysStopped.onControl (fun _ => commanded.congr) commanded
  · exact .inl h

theorem State.commands_congr (hs : t.settings.staging = s.settings.staging) (hp : t.pins.straps = s.pins.straps)
    (code : Nat) : t.commands r code = s.commands r code := by
  simp [State.commands, State.controls, State.commandCode, State.copySettings, State.settingsRequest, hs, hp]

/-- So does a write that is passed. -/
theorem StaysStopped.passWrite (h : s.part = .stopped) : StaysStopped (s.commands r 1 = true) (s.passWrite r) := by
  unfold State.passWrite
  dsimp only
  generalize e : (((s.beginForward.forwardAs s.forwarder.nextSerial r).intakeWrite r).notTaken r) = u
  have part : (u.stopIfDue.withCause none).part = .stopped :=
    (Guarded.stopIfDue u).stopped (by simp [← e, h])
  have staging : (u.stopIfDue.withCause none).settings.staging = s.settings.staging := by
    show u.stopIfDue.settings.staging = _
    rw [(Guarded.stopIfDue u).staging]
    simp [← e]
  rw [← State.commands_congr (r := r) staging (by simp [← e]) 1]
  exact StaysStopped.settingsWrite part

/-- The command a write starts is one of the row it is passed by. -/
theorem StaysStopped.settlePass {p : Prop} (o : Origin) (kind : Request → Bool) (h : s.part = .stopped)
    (hk : ∀ r, s.presents o r = true → kind r = true → s.commands r 1 = true → p) :
    StaysStopped p (s.settlePass o kind) :=
  State.settle_keeps (.inl h) fun r stands turn ready =>
    (StaysStopped.passWrite (s := s.leaving o) (by simpa using h)).imp id <| And.imp_right fun soft =>
      hk r ((s.presents_iff o r).mpr ⟨stands, turn⟩) ((Bool.and_eq_true _ _).mp ready).2
        (by rwa [State.commands_congr (s := s) (by simp) (by simp)] at soft)

/-- Rows whose write starts no SOFT_RESET. -/
theorem commands_other {code : Nat} (other : code ≠ 1) (h : s.commands r code = true) : s.commands r 1 ≠ true := by
  intro soft
  simp only [State.commands, Bool.and_eq_true, beq_iff_eq] at h soft
  exact other (h.2.symm.trans soft.2)

/-- What a command makes of a part that is STOPPED. -/
theorem StaysStopped.effect (c : Instr) (h : s.part = .stopped) :
    StaysStopped (∃ o r, (c = .softReset o ∨ c = .applyWrite o ∨ c = .consumerIndexWrite o) ∧ s.presents o r = true ∧
      s.commands r 1 = true) (effect c s) := by
  have idle : s.running = false := by simp [State.running, h]
  by_cases plain : ¬BySettings c s ∧ c ≠ .drainDone
  · exact .inl ((Guarded.effect c s plain.1 plain.2).stopped h)
  cases c with
  | softReset o | applyWrite o | consumerIndexWrite o =>
    exact StaysStopped.settlePass o _ h fun r presented _ soft => ⟨o, r, by simp, presented, soft⟩
  | reportWrite o => exact StaysStopped.settlePass o _ h fun r _ kind _ => by simp [State.reportSlot?, idle] at kind
  | tornWrite o => exact StaysStopped.settlePass o _ h fun r _ kind _ => by simp [State.tornWrite, idle] at kind
  | responseNotTaken o =>
    exact StaysStopped.settlePass o _ h fun r _ kind _ => by simp [State.responseNotTaken, idle] at kind
  | settingsWrite o =>
    refine StaysStopped.settlePass o _ h fun r _ kind soft => ?_
    obtain ⟨covers, code⟩ : s.controls r Config.commandWord = true ∧ s.commandCode r = 1 := by
      simpa [State.commands] using soft
    simp [State.plainSettings, covers, code] at kind
  | channelClose o | stationDrop o | stationRestart o | stationMove o | drain o | errorClear o =>
    exact StaysStopped.settlePass o _ h fun r _ kind soft => absurd soft (commands_other (by decide) kind)
  | drainDone =>
    refine .inl ?_
    simp only [Machine.effect]
    unfold State.finishDrain State.drainAnswer
    (repeat' split) <;> simpa using h
  | _ =>
    refine absurd ⟨?_, by nofun⟩ plain
    rintro ⟨o, r, e, -⟩
    cases e

/-- Settles O5: RSTn apart, what a command makes of a STOPPED part. -/
theorem onlyResetLeavesStopped : Obligations.OnlyResetLeavesStopped := by
  intro c s t stopped ran leaves
  rcases exec_cases ran with ⟨straps, e, rfl⟩ | ⟨-, rfl⟩ | ⟨-, rfl⟩ | ⟨-, -, -, rfl⟩
  · exact ⟨rfl, .inl ⟨straps, e⟩⟩
  · exact absurd stopped leaves
  · exact absurd stopped leaves
  · rcases (StaysStopped.effect c stopped).finish with stays | ⟨setup, soft⟩
    · exact absurd stays leaves
    · exact ⟨setup, .inr soft⟩

end Sys2Proof.Machine
end

section
/-!
Settings writes: the copy, and the control word that a write covers alone.
-/

namespace Sys2Proof.Machine

set_option Elab.async false

variable {s t u : State} {r : Request} {o : Origin}

/-! ### The copy (R155) -/

@[simp] theorem State.withCopied_frame (s : State) (o : Origin) (r : Request) :
    (s.withCopied o r).pending = s.pending ∧ (s.withCopied o r).pins = s.pins ∧ (s.withCopied o r).part = s.part ∧
    (s.withCopied o r).own = s.own ∧ (s.withCopied o r).intake = s.intake ∧ (s.withCopied o r).flight = s.flight ∧
    (s.withCopied o r).table = s.table ∧ (s.withCopied o r).slotMap = s.slotMap ∧ (s.withCopied o r).time = s.time ∧
    (s.withCopied o r).events = s.events ∧ (s.withCopied o r).now = s.now ∧
    (s.withCopied o r).settings.active = s.settings.active ∧
    (s.withCopied o r).settings.draining = s.settings.draining ∧
    (s.withCopied o r).forwarder.held = s.forwarder.held ∧
    (s.withCopied o r).forwarder = (s.withForwarded o r r).forwarder := by
  simp [State.withCopied]

/-- What the copy of one word makes of a word of the window. -/
theorem copyWord_read (straps : Straps) (r : Request) (staging : Table Word) (k word : Nat) :
    Words.read (copyWord straps r staging k) word =
      if Request.windowWord r straps k = some word ∧ word ∉ Config.statusWords then
        ((Request.laneWords r)[k]?.map fun w => mergeLanes w.lanes (Words.read staging word) w.data).getD
          (Words.read staging word)
      else Words.read staging word := by
  unfold copyWord
  split
  next at_ w falls lane =>
    rw [falls, lane]
    by_cases same : at_ = word
    · subst same
      by_cases status : at_ ∈ Config.statusWords
      · rw [if_pos (by simpa using status), if_neg (by simp [status])]
      · rw [if_neg (by simpa using status), if_pos ⟨rfl, status⟩, Words.read_write, if_pos rfl]
        rfl
    · have other : ¬(some at_ = some word ∧ word ∉ Config.statusWords) := fun h => same (Option.some.inj h.1)
      rw [if_neg other]
      split
      · rfl
      · rw [Words.read_write, if_neg (Ne.symm same)]
  next missing =>
    split
    next falls =>
      cases lane : (Request.laneWords r)[k]? with
      | none => rfl
      | some w => exact absurd lane (missing _ _ falls.1)
    · rfl

/-- Two words of a request fall on two words of the window. -/
theorem Request.windowWord_injective {straps : Straps} {j k word : Nat} (hj : Request.windowWord r straps j = some word)
    (hk : Request.windowWord r straps k = some word) : j = k := by
  unfold Request.windowWord at hj hk
  dsimp only at hj hk
  split at hj
  · split at hk
    · simp only [Option.some.injEq] at hj hk
      omega
    · cases hk
  · cases hj

/-- Words that none of the copied ones falls on stay, and so does the status area. -/
theorem copyWords_other (straps : Straps) (r : Request) (l : List Nat) (staging : Table Word) (word : Nat)
    (h : word ∈ Config.statusWords ∨ ∀ k ∈ l, Request.windowWord r straps k ≠ some word) :
    Words.read (l.foldl (copyWord straps r) staging) word = Words.read staging word := by
  induction l generalizing staging with
  | nil => rfl
  | cons k l ih =>
    rw [List.foldl_cons, ih _ (h.imp id fun h j hj => h j (List.mem_cons_of_mem _ hj)), copyWord_read, if_neg]
    rintro ⟨falls, area⟩
    exact h.elim area fun h => h k List.mem_cons_self falls

/-- A word that a copied one falls on takes its lanes. -/
theorem copyWords_same (straps : Straps) (r : Request) (l : List Nat) (staging : Table Word) {k word : Nat} {w : LaneWord}
    (distinct : l.Nodup) (mem : k ∈ l) (falls : Request.windowWord r straps k = some word)
    (lane : (Request.laneWords r)[k]? = some w) (area : word ∉ Config.statusWords) :
    Words.read (l.foldl (copyWord straps r) staging) word =
      mergeLanes w.lanes (Words.read staging word) w.data := by
  induction l generalizing staging with
  | nil => cases mem
  | cons j l ih =>
    obtain ⟨fresh, rest⟩ := List.nodup_cons.mp distinct
    rw [List.foldl_cons]
    rcases List.mem_cons.mp mem with rfl | mem
    · rw [copyWords_other straps r l _ word (.inr fun i hi e => fresh (by
        rwa [← Request.windowWord_injective e falls])), copyWord_read, if_pos ⟨falls, area⟩, lane]
      rfl
    · rw [ih _ rest mem, copyWord_read, if_neg]
      rintro ⟨first, -⟩
      exact fresh (by rwa [Request.windowWord_injective first falls])

/-! ### The control words of a write (R155) -/

/-- A write that starts nothing is copied. -/
theorem State.settingsWrite_noControl (h : s.noControl r = true) : s.settingsWrite r = s.copySettings r := by
  obtain ⟨settings, h1, h2, h3⟩ : s.settingsRequest r = true ∧ _ ∧ _ ∧ _ := by
    simp only [State.noControl, List.all_cons, List.all_nil, Bool.and_true, Bool.and_eq_true, Bool.not_eq_true'] at h
    exact ⟨h.1.2, h.2.1, h.2.2.1, h.2.2.2⟩
  simp [State.settingsWrite, State.onControl, settings, h1, h2, h3]

/-- What a write is that covers one control word alone. -/
theorem State.soleControl_iff (s : State) (r : Request) (word : Nat) : s.soleControl r word = true ↔
    Request.isWrite r = true ∧ s.clearOfAreas r = true ∧ s.settingsRequest r = true ∧
      Request.covers r s.pins.straps word = true ∧
      ∀ w ∈ [Config.applyWord, Config.commandWord, Config.consumerWord], w ≠ word →
        Request.covers r s.pins.straps w = false := by
  simp only [State.soleControl, State.controls, Bool.and_eq_true, List.all_eq_true, Bool.or_eq_true, beq_iff_eq,
    Bool.not_eq_true', and_assoc]
  simp only [Classical.or_iff_not_imp_left, ne_eq]

/-- What the control word does that a write covers alone. -/
def controlOf (word : Nat) : State → State :=
  if word = Config.applyWord then State.takeApply
  else if word = Config.commandWord then State.takeCommand
  else State.offerConsumer

theorem State.onControl_skip {word : Nat} {f : State → State} (h : Request.covers r s.pins.straps word = false) :
    s.onControl r word f = s := by
  simp [State.onControl, h]

theorem State.settingsWrite_sole {word : Nat} (hw : word ∈ [Config.applyWord, Config.commandWord, Config.consumerWord])
    (settings : s.settingsRequest r = true) (covers : Request.covers r s.pins.straps word = true)
    (others : ∀ w ∈ [Config.applyWord, Config.commandWord, Config.consumerWord], w ≠ word →
      Request.covers r s.pins.straps w = false) :
    s.settingsWrite r = (controlOf word (s.copySettings r)).stopIfDue := by
  have skip {w : Nat} {f : State → State} {u : State} (hu : u.pins.straps = s.pins.straps)
      (mem : w ∈ [Config.applyWord, Config.commandWord, Config.consumerWord]) (h : w ≠ word) : u.onControl r w f = u :=
    State.onControl_skip (by rw [hu]; exact others w mem h)
  have act {f : State → State} {u : State} (hu : u.pins.straps = s.pins.straps) :
      u.onControl r word f = (f u).stopIfDue := by
    simp [State.onControl, hu, covers]
  simp only [State.settingsWrite, settings, if_true]
  simp only [List.mem_cons, List.not_mem_nil, or_false] at hw
  rcases hw with rfl | rfl | rfl
  · rw [act (by simp), skip (w := Config.commandWord) (by simp) (by simp) (by decide),
      skip (w := Config.consumerWord) (by simp) (by simp) (by decide)]
    rfl
  · rw [skip (w := Config.applyWord) (by simp) (by simp) (by decide), act (by simp), skip (by simp) (by simp) (by decide)]
    rfl
  · rw [skip (w := Config.applyWord) (by simp) (by simp) (by decide),
      skip (w := Config.commandWord) (by simp) (by simp) (by decide), act (by simp)]
    rfl

/-- A row of the settings window does what the control word asks for, on the state with the write forwarded and copied. -/
theorem State.settlePass_sole {word : Nat} (kind : Request → Bool) (between : s.between = true)
    (offered : s.offers o r = true) (hw : word ∈ [Config.applyWord, Config.commandWord, Config.consumerWord])
    (sole : s.soleControl r word = true) (hk : kind r = true) :
    s.settlePass o kind = (controlOf word (s.withCopied o r)).stopIfDue := by
  obtain ⟨-, idle, -⟩ := s.between_iff.mp between
  obtain ⟨presented, waiting⟩ := (s.offers_iff o r).mp offered
  obtain ⟨write, clear, settings, covers, others⟩ := (s.soleControl_iff r word).mp sole
  obtain ⟨guard, -, -, noResponse, -⟩ := (s.clearOfAreas_iff r).mp clear
  rw [s.settlePass_next o r kind presented write guard noResponse hk, s.passWrite_clear o r idle waiting clear]
  refine State.settingsWrite_sole hw ?_ (by simpa using covers) (by simpa using others)
  rw [State.settingsRequest_congr s _ r (by simp), settings]

/-- The command that ends there, when it sets no fatal error. -/
theorem exec_sole {c : Instr} {word : Nat} {kind : Request → Bool} (does : effect c s = s.settlePass o kind)
    (between : s.between = true) (offered : s.offers o r = true)
    (hw : word ∈ [Config.applyWord, Config.commandWord, Config.consumerWord]) (sole : s.soleControl r word = true)
    (hk : kind r = true) (hu : controlOf word (s.withCopied o r) = u) (calm : u.now.stopDue = false)
    (reset : ∀ straps, c ≠ .powerOnReset straps := by nofun) (low : c ≠ .rstnLow := by nofun) :
    exec c s = .next u.ended := by
  refine exec_calm between ?_ calm reset low
  rw [does, State.settlePass_sole kind between offered hw sole hk, hu, State.stopIfDue_calm u calm]

/-- Settles O30: nothing follows the copy. -/
theorem settingsWriteIsCopied : Obligations.SettingsWriteIsCopied := by
  intro s o r between offered sole
  obtain ⟨-, idle, -⟩ := s.between_iff.mp between
  obtain ⟨presented, waiting⟩ := (s.offers_iff o r).mp offered
  have parts := sole
  simp only [State.noControl, List.all_cons, List.all_nil, Bool.and_true, Bool.and_eq_true, Bool.not_eq_true'] at parts
  obtain ⟨⟨⟨write, clear⟩, settings⟩, apply, command, consumer⟩ := parts
  obtain ⟨guard, -, -, noResponse, -⟩ := (s.clearOfAreas_iff r).mp clear
  have plain : s.plainSettings r = true := by
    simp [State.plainSettings, State.controls, settings, apply, command, consumer]
  have copied : (s.withForwarded o r r).settingsWrite r = s.withCopied o r := by
    have settings' : (s.withForwarded o r r).settingsRequest r = true := by
      rw [State.settingsRequest_congr s _ r (by simp), settings]
    simp [State.settingsWrite, State.onControl, settings', apply, command, consumer, State.withCopied]
  refine ⟨exec_quiet between ?_, by simp, fun k word w falls lane area => ?_, fun word h => ?_⟩
  · simp only [effect]
    rw [s.settlePass_next o r _ presented write guard noResponse plain, s.passWrite_clear o r idle waiting clear, copied]
  · have inside : k < r.words := by
      obtain ⟨address, source, tag, body⟩ := r
      cases body with
      | read n => cases write
      | write ws => exact (List.getElem?_eq_some_iff.mp lane).1
    have read := copyWords_same (s.withForwarded o r r).pins.straps r (List.range r.words)
      (s.withForwarded o r r).settings.staging List.nodup_range (List.mem_range.mpr inside) (by simpa using falls) lane area
    simpa [State.withCopied, State.copySettings] using read
  · have read := copyWords_other (s.withForwarded o r r).pins.straps r (List.range r.words)
      (s.withForwarded o r r).settings.staging word (by simpa using h)
    simpa [State.withCopied, State.copySettings] using read

/-! ### ATTN, where nothing it is judged by has changed (R173) -/

theorem State.ended_pins (between : s.between = true) (pins : u.pins = s.pins) (level : u.attentionLevel = s.attentionLevel) :
    u.ended.pins = s.pins := by
  obtain ⟨-, -, attention⟩ := s.between_iff.mp between
  simp only [State.ended, pins, level, ← attention]

/-- A result handed to the event writer does not call for attention. -/
theorem State.attentionLevel_answers (u : State) (q q' : BitVec 16) (a : ApplyResult) (code flags : Nat)
    (result : CommandResult) :
    (u.applyAnswer q a).attentionLevel = u.attentionLevel ∧
      (u.commandAnswer q' code flags result).attentionLevel = u.attentionLevel := by
  simp [State.attentionLevel, State.markedUnread, State.unmaskedError]

theorem State.withCopied_attentionLevel (s : State) (o : Origin) (r : Request) :
    (s.withCopied o r).attentionLevel = s.attentionLevel := State.attentionLevel_congr s _ (by simp) (by simp)

/-- An own write of a result, as it joins the queue between steps (R148). -/
theorem State.applyAnswer_own (u : State) (q : BitVec 16) (a : ApplyResult) (idle : u.now.cause = none) :
    (u.applyAnswer q a).own = u.own.issued Config.applyResultWord (applyResultValue q a) := by
  simp only [State.applyAnswer, State.issueStatus, State.issueStatusFor, OwnWrites.issued, idle]
  rfl

theorem State.commandAnswer_own (u : State) (q : BitVec 16) (code flags : Nat) (result : CommandResult)
    (idle : u.now.cause = none) :
    (u.commandAnswer q code flags result).own =
      u.own.issued Config.commandResultWord (commandResultValue q code flags result) := by
  simp only [State.commandAnswer, State.issueStatus, State.issueStatusFor, OwnWrites.issued, idle]
  rfl

theorem State.applyAnswer_events (u : State) (q : BitVec 16) (a : ApplyResult) :
    (u.applyAnswer q a).events = { u.events with applyResult := applyResultValue q a } := rfl

theorem State.commandAnswer_events (u : State) (q : BitVec 16) (code flags : Nat) (result : CommandResult) :
    (u.commandAnswer q code flags result).events =
      { u.events with commandResult := commandResultValue q code flags result } := rfl

/-- The result stands last in the own-write queue. -/
theorem State.commandAnswer_lastIssued (u : State) (q : BitVec 16) (code flags : Nat) (result : CommandResult) :
    (u.commandAnswer q code flags result).lastIssued Config.commandResultWord (commandResultValue q code flags result) =
      true := by
  simp [State.commandAnswer, State.issueStatus, State.issueStatusFor, State.lastIssued, State.statusValue,
    Config.commandResultWord, Config.applyResultWord]

theorem State.applyAnswer_lastIssued (u : State) (q : BitVec 16) (a : ApplyResult) :
    (u.applyAnswer q a).lastIssued Config.applyResultWord (applyResultValue q a) = true := by
  simp [State.applyAnswer, State.issueStatus, State.issueStatusFor, State.lastIssued, State.statusValue]

/-! ### Apply refused, and the consumer index -/

/-- Settles O31: the apply answers and does no more. -/
theorem refusedApplyChangesNothing : Obligations.RefusedApplyChangesNothing := by
  intro s o r between offered sole u sequence result refused
  obtain ⟨-, idle, -⟩ := s.between_iff.mp between
  obtain ⟨-, -, settings, covers, -⟩ := (s.soleControl_iff r _).mp sole
  have answers : controlOf Config.applyWord u = u.applyAnswer sequence result := by
    show u.applySettings sequence = _
    have part : u.part = s.part := by simp [u]
    unfold State.applySettings
    by_cases stopped : s.part = .stopped
    · simp [part, stopped, result]
    · have e : result = u.validate := if_neg stopped
      rw [part, if_neg stopped, e]
      split
      next applied => exact absurd (e.trans applied) refused
      · rfl
  have ran := exec_sole (c := .applyWrite o) rfl between offered (by simp) sole
    (by simp [State.controls, settings, covers]) answers (by simp [u, idle])
  refine ⟨_, ran, by simp [State.applyAnswer_events, u], ?_, by simp, by simp, by simp [u], by simp [u], by simp [u],
    by simp [u], by simp [u], by simp [u], State.ended_pins between (by simp [u]) ?_⟩
  · simpa [u] using u.applyAnswer_own sequence result (by simp [u, idle])
  · rw [(u.attentionLevel_answers sequence 0 result 0 0 .done).1]
    exact s.withCopied_attentionLevel o r

theorem State.writeOutHeld_empty (h : s.events.holding = []) : s.writeOutHeld = s := by
  simp [State.writeOutHeld, h, State.writeOut]

/-- Settles O33: with nothing held, an index taken sets C, and the mark where it has been reached. -/
theorem consumerIndexIsTaken : Obligations.ConsumerIndexIsTaken := by
  intro s o r between offered sole empty u v slots takes unread
  obtain ⟨-, idle, -⟩ := s.between_iff.mp between
  obtain ⟨-, -, settings, covers, -⟩ := (s.soleControl_iff r _).mp sole
  have kind : s.controls r Config.consumerWord = true := by simp [State.controls, settings, covers]
  have holding : u.events.holding = [] := by simpa [u] using empty
  have active : u.settings.active = s.settings.active := by simp [u]
  have events : u.events = s.events := by simp [u]
  by_cases h : takes
  · have offers : controlOf Config.consumerWord u =
        { u with events := { s.events with consumer := v, mark := if unread then s.events.mark else v } } := by
      show u.offerConsumer = _
      unfold State.offerConsumer
      dsimp only
      rw [if_pos (by rw [active, events]; exact h)]
      by_cases more : unread
      · have marked : ({ u with events := { u.events with consumer := v } } : State).markedUnread = true := by
          simpa [State.markedUnread, active, events] using more
        rw [if_pos marked, if_pos more, State.writeOutHeld_empty (by simpa using holding), events]
      · have marked : ({ u with events := { u.events with consumer := v } } : State).markedUnread ≠ true := by
          simpa [State.markedUnread, active, events, unread] using more
        rw [if_neg marked, if_neg more, State.writeOutHeld_empty (by simpa using holding), events]
    refine ⟨_, exec_sole (c := .consumerIndexWrite o) rfl between offered (by simp) sole kind offers (by simp [u, idle]),
      fun _ => rfl, fun no => absurd h no, ?_⟩
    simp [u, State.ended_attention]
  · have offers : controlOf Config.consumerWord u = u := by
      show u.offerConsumer = _
      unfold State.offerConsumer
      dsimp only
      rw [if_neg (by rw [active, events]; exact h)]
    refine ⟨_, exec_sole (c := .consumerIndexWrite o) rfl between offered (by simp) sole kind offers (by simp [u, idle]),
      fun yes => absurd yes h, fun _ => by simp [events], ?_⟩
    simp [u, State.ended_attention]

end Sys2Proof.Machine
end

section
/-!
Commands: the tests before one, the refusals, DRAIN, ERROR_CLEAR and SOFT_RESET.
-/

namespace Sys2Proof.Machine

set_option Elab.async false

variable {s t u : State} {r : Request} {o : Origin} {code : Nat} {result : CommandResult}

/-! ### The row of a command, and what it takes (R162, R163) -/

/-- A command word's row passes the write that starts its command. -/
theorem effect_commandRow (sole : s.soleControl r Config.commandWord = true)
    (has : (s.withCopied o r).hasCommand code = true) :
    ∃ kind : Request → Bool, effect (commandRow code o) s = s.settlePass o kind ∧ kind r = true := by
  obtain ⟨-, -, settings, covers, others⟩ := (s.soleControl_iff r _).mp sole
  have codes : s.commandCode r = code := by
    simpa [State.hasCommand, State.commandCode, State.withCopied, State.copySettings] using has
  have apply : Request.covers r s.pins.straps Config.applyWord = false := others _ (by simp) (by decide)
  have consumer : Request.covers r s.pins.straps Config.consumerWord = false := others _ (by simp) (by decide)
  have commands : ∀ k, code = k → s.commands r k = true := fun k e => by
    simp [State.commands, State.controls, settings, covers, codes, e]
  unfold commandRow
  by_cases h1 : code = 1
  · exact ⟨_, by rw [if_pos h1]; rfl, commands 1 h1⟩
  by_cases h2 : code = 2
  · exact ⟨_, by rw [if_neg h1, if_pos h2]; rfl, commands 2 h2⟩
  by_cases h3 : code = 3
  · exact ⟨_, by rw [if_neg h1, if_neg h2, if_pos h3]; rfl, commands 3 h3⟩
  by_cases h4 : code = 4
  · exact ⟨_, by rw [if_neg h1, if_neg h2, if_neg h3, if_pos h4]; rfl, commands 4 h4⟩
  by_cases h5 : code = 5
  · exact ⟨_, by rw [if_neg h1, if_neg h2, if_neg h3, if_neg h4, if_pos h5]; rfl, commands 5 h5⟩
  by_cases h6 : code = 6
  · exact ⟨_, by rw [if_neg h1, if_neg h2, if_neg h3, if_neg h4, if_neg h5, if_pos h6]; rfl, commands 6 h6⟩
  by_cases h7 : code = 7
  · exact ⟨_, by rw [if_neg h1, if_neg h2, if_neg h3, if_neg h4, if_neg h5, if_neg h6, if_pos h7]; rfl, commands 7 h7⟩
  refine ⟨_, by rw [if_neg h1, if_neg h2, if_neg h3, if_neg h4, if_neg h5, if_neg h6, if_neg h7]; rfl, ?_⟩
  have other : code = 0 ∨ 7 < code := by omega
  rcases other with none1 | above
  · simp [State.plainSettings, State.controls, settings, apply, consumer, codes, none1]
  · simp [State.plainSettings, State.controls, settings, apply, consumer, codes, above]

/-- A command runs on the state with its write forwarded and copied, and the step ends there unless a fatal error is set. -/
theorem exec_command (between : s.between = true) (offered : s.offers o r = true)
    (sole : s.soleControl r Config.commandWord = true) (has : (s.withCopied o r).hasCommand code = true)
    (takes : (s.withCopied o r).takeCommand = t) (calm : t.now.stopDue = false) :
    exec (commandRow code o) s = .next t.ended := by
  obtain ⟨kind, does, hk⟩ := effect_commandRow sole has
  refine exec_sole does between offered (by simp) sole hk takes calm ?_ ?_
  · intro straps
    unfold commandRow
    (repeat' split) <;> nofun
  · unfold commandRow
    (repeat' split) <;> nofun

theorem State.hasCommand_iff (u : State) (code : Nat) :
    u.hasCommand code = true ↔ bits (Words.read u.settings.staging Config.commandWord) 7 0 = code := by
  simp [State.hasCommand]

/-- Codes of 8 and above (R162). -/
theorem State.takeCommand_unknown (has : u.hasCommand code = true) (h : 8 ≤ code) :
    u.takeCommand = u.commandAnswer u.commandSequence code 0 .badArgument := by
  have e := (u.hasCommand_iff code).mp has
  simp only [State.takeCommand, e]
  rw [if_neg (by omega), if_pos h]
  rfl

theorem State.takeCommand_softReset (has : u.hasCommand 1 = true) : u.takeCommand = u.softReset u.commandSequence := by
  have e := (u.hasCommand_iff 1).mp has
  simp only [State.takeCommand, e]
  rfl

/-- While a DRAIN is in progress, commands but SOFT_RESET are turned away (R154). -/
theorem State.takeCommand_busy (has : u.hasCommand code = true) (h2 : 2 ≤ code) (h7 : code ≤ 7)
    (draining : u.settings.draining ≠ none) :
    u.takeCommand = u.commandAnswer u.commandSequence code 0 .busy := by
  have e := (u.hasCommand_iff code).mp has
  simp only [State.takeCommand, e]
  rw [if_neg (by omega), if_neg (by omega), if_neg (by omega), if_pos (Option.isSome_iff_ne_none.mpr draining)]
  rfl

theorem State.takeCommand_drain (has : u.hasCommand 6 = true) (draining : u.settings.draining = none) :
    u.takeCommand =
      if u.part = .stopped then u.commandAnswer u.commandSequence 6 0 .notRunning
      else u.startDrain u.commandSequence := by
  have e := (u.hasCommand_iff 6).mp has
  simp only [State.takeCommand, e]
  rw [if_neg (by omega), if_neg (by omega), if_neg (by omega), if_neg (by simp [draining]), if_pos trivial]
  rfl

/-- The other commands act, and answer what they come to. -/
theorem State.takeCommand_answers (has : u.hasCommand code = true) (h2 : 2 ≤ code) (h7 : code ≤ 7) (h6 : code ≠ 6)
    (draining : u.settings.draining = none)
    (answers : u.answerCommand code (Words.read u.settings.staging Config.firstArgument)
      (Words.read u.settings.staging Config.secondArgument) = (t, result)) :
    u.takeCommand = t.commandAnswer u.commandSequence code 0 result := by
  have e := (u.hasCommand_iff code).mp has
  simp only [State.takeCommand, e]
  rw [if_neg (by omega), if_neg (by omega), if_neg (by omega), if_neg (by simp [draining]), if_neg h6, answers]
  rfl

/-- What each of them does in RUNNING. -/
theorem State.answerCommand_running (running : u.part = .running) (first second : Word) :
    u.answerCommand 2 first second = u.channelClose (bits first 23 16) ∧
      u.answerCommand 3 first second = u.stationDrop (stationName first) ∧
      u.answerCommand 4 first second = u.stationRestart (stationName first) ∧
      u.answerCommand 5 first second = u.stationMove (stationName first) (stationName second) := by
  simp [State.answerCommand, State.whenRunning, State.running, running]

/-- Outside it (R163). -/
theorem State.answerCommand_elsewhere (h : u.part ≠ .running) (h2 : 2 ≤ code) (h5 : code ≤ 5) (first second : Word) :
    u.answerCommand code first second = (u, .notRunning) := by
  have idle : u.running = false := by simpa [State.running] using h
  unfold State.answerCommand State.whenRunning
  rw [idle]
  obtain rfl | rfl | rfl | rfl : code = 2 ∨ code = 3 ∨ code = 4 ∨ code = 5 := by omega
  all_goals rfl

/-! ### Finding a station (R20) -/

theorem State.findStation_known {n : StationName} {channel index : Nat} {c : Context}
    (claims : claimant s.settings.active n.number = some channel)
    (known : s.known { channel := channel, tag := n.tag } index c = true)
    (settled : s.flight = none → s.forwarder.held = []) : s.findStation n = (s, some index) := by
  simp [State.findStation, claims, s.lookup_known _ _ index c known, s.settleHeld_empty settled]

theorem State.findStation_missing {n : StationName}
    (missing : ∀ channel, claimant s.settings.active n.number = some channel →
      s.unknown { channel := channel, tag := n.tag } = true)
    (settled : s.flight = none → s.forwarder.held = []) : s.findStation n = (s, none) := by
  unfold State.findStation
  cases claims : claimant s.settings.active n.number with
  | none => rfl
  | some channel => simp [s.lookup_unknown _ _ (missing channel claims), s.settleHeld_empty settled]

/-- Arguments out of range (R20). -/
theorem State.answerCommand_outOfRange (running : u.part = .running) (h3 : 3 ≤ code) (h5 : code ≤ 5)
    (h : ¬(u.firstNamed.inRange = true ∧ (code = 5 → u.secondNamed.inRange = true))) :
    u.answerCommand code (Words.read u.settings.staging Config.firstArgument)
      (Words.read u.settings.staging Config.secondArgument) = (u, .badArgument) := by
  obtain ⟨-, drop, restart, move⟩ := State.answerCommand_running running
    (Words.read u.settings.staging Config.firstArgument) (Words.read u.settings.staging Config.secondArgument)
  have plain : code ≠ 5 → u.firstNamed.inRange = false := fun other =>
    Bool.eq_false_iff.mpr fun e => h ⟨e, fun five => absurd five other⟩
  obtain rfl | rfl | rfl : code = 3 ∨ code = 4 ∨ code = 5 := by omega
  · rw [drop]
    simp [State.stationDrop, show (stationName _).inRange = false from plain (by decide)]
  · rw [restart]
    simp [State.stationRestart, show (stationName _).inRange = false from plain (by decide)]
  · have both : (u.firstNamed.inRange && u.secondNamed.inRange) = false :=
      Bool.eq_false_iff.mpr fun e => h ⟨((Bool.and_eq_true _ _).mp e).1, fun _ => ((Bool.and_eq_true _ _).mp e).2⟩
    rw [move]
    unfold State.stationMove
    rw [show ((stationName _).inRange && (stationName _).inRange) = false from both]
    rfl

/-- A station that no entry finds (R20). -/
theorem State.answerCommand_missing (running : u.part = .running) (h3 : 3 ≤ code) (h5 : code ≤ 5)
    (first : u.firstNamed.inRange = true) (second : code = 5 → u.secondNamed.inRange = true)
    (missing : u.findStation u.firstNamed = (t, none)) :
    u.answerCommand code (Words.read u.settings.staging Config.firstArgument)
      (Words.read u.settings.staging Config.secondArgument) = (t, .notFound) := by
  obtain ⟨-, drop, restart, move⟩ := State.answerCommand_running running
    (Words.read u.settings.staging Config.firstArgument) (Words.read u.settings.staging Config.secondArgument)
  have inRange : (stationName (Words.read u.settings.staging Config.firstArgument)).inRange = true := first
  have finds : u.findStation (stationName (Words.read u.settings.staging Config.firstArgument)) = (t, none) := missing
  obtain rfl | rfl | rfl : code = 3 ∨ code = 4 ∨ code = 5 := by omega
  · rw [drop]
    simp [State.stationDrop, inRange, finds]
  · rw [restart]
    simp [State.stationRestart, inRange, finds]
  · have inRange2 : (stationName (Words.read u.settings.staging Config.secondArgument)).inRange = true := second rfl
    rw [move]
    simp [State.stationMove, inRange, inRange2, finds]

/-- The tests of a move whose source is found (R23). -/
theorem State.stationMove_tests {origin target : StationName} {source : Nat} (first : origin.inRange = true)
    (second : target.inRange = true) (found : u.findStation origin = (u, some source)) :
    (∀ index, u.findStation target = (u, some index) → u.stationMove origin target = (u, .targetTaken)) ∧
    (u.findStation target = (u, none) → claimant u.settings.active target.number = none →
      u.stationMove origin target = (u, .closed)) ∧
    ∀ channel c, u.findStation target = (u, none) → claimant u.settings.active target.number = some channel →
      u.context? source = some c →
      u.stationMove origin target =
        if u.occupiedCount channel < quota u.settings.active channel ∨ channel = c.key.channel then
          (u.moveStation source c { channel := channel, tag := target.tag }, .done)
        else (u, .quota) := by
  refine ⟨fun index h => ?_, fun h closed => ?_, fun channel c h claims hc => ?_⟩
  · simp [State.stationMove, first, second, found, h]
  · simp [State.stationMove, first, second, found, h, closed]
  · simp only [State.stationMove, first, second, found, h, claims, hc]
    rfl

theorem State.known_congr {index : Nat} {c : Context} {key : Key} (h : u.table = s.table) :
    u.known key index c = s.known key index c := by
  simp [State.known, State.context?, h]

theorem State.unknown_congr {key : Key} (h : u.table = s.table) : u.unknown key = s.unknown key := by
  simp [State.unknown, h]

/-- Settles O41: each refusal answers on the state as copied, and nothing else is done. -/
theorem refusedCommandChangesNothing : Obligations.RefusedCommandChangesNothing := by
  intro s o r code result between offered sole has u a field inRange found missing tested cases value
  obtain ⟨-, idle, -⟩ := s.between_iff.mp between
  have table : u.table = s.table := by simp [u]
  have active : u.settings.active = a := by simp [u, a]
  have part : u.part = s.part := by simp [u]
  have draining : u.settings.draining = s.settings.draining := by simp [u]
  have settled : tested → (u.flight = none → u.forwarder.held = []) := fun h => by simpa [u] using h.2.2
  have finds : tested → ∀ n index c, found n index c → u.findStation n = (u, some index) := by
    rintro h n index c ⟨channel, claims, known⟩
    exact State.findStation_known (active ▸ claims) ((State.known_congr table).trans known) (settled h)
  have misses : tested → ∀ n, missing n → u.findStation n = (u, none) := fun h n none1 =>
    State.findStation_missing (fun channel claims => (State.unknown_congr table).trans (none1 channel (active ▸ claims)))
      (settled h)
  have answered : tested → 2 ≤ code → code ≤ 5 → u.answerCommand code
      (Words.read u.settings.staging Config.firstArgument) (Words.read u.settings.staging Config.secondArgument) =
        (u, result) → u.takeCommand = u.commandAnswer u.commandSequence code 0 result := fun h h2 h5 e =>
    State.takeCommand_answers has h2 (by omega) (by omega) (draining.trans h.1) e
  have running : tested → u.part = .running := fun h => part.trans h.2.1
  have closes : tested → u.answerCommand 2 (Words.read u.settings.staging Config.firstArgument)
      (Words.read u.settings.staging Config.secondArgument) = u.channelClose field := fun h =>
    (State.answerCommand_running (running h) _ _).1
  have moves : tested → u.answerCommand 5 (Words.read u.settings.staging Config.firstArgument)
      (Words.read u.settings.staging Config.secondArgument) = u.stationMove u.firstNamed u.secondNamed := fun h =>
    (State.answerCommand_running (running h) _ _).2.2.2
  have takes : u.takeCommand = u.commandAnswer u.commandSequence code 0 result := by
    rcases cases with ⟨h8, rfl⟩ | ⟨rfl, test, wide, rfl⟩ | ⟨rfl, test, narrow, closed, rfl⟩ | ⟨h3, h5, test, out, rfl⟩ |
      ⟨h3, h5, test, ⟨first, second⟩, none1, rfl⟩ | ⟨rfl, test, ⟨first, second⟩, ⟨i, c, f1⟩, ⟨j, d, f2⟩, rfl⟩ |
      ⟨rfl, test, ⟨first, second⟩, ⟨i, c, f1⟩, closed, rfl⟩ |
      ⟨rfl, test, ⟨first, second⟩, none2, ⟨i, c, target, f1, claims, full, other⟩, rfl⟩ | ⟨h2, h7, busy, rfl⟩ |
      ⟨h2, h5, calm, elsewhere, rfl⟩ | ⟨rfl, calm, stopped, rfl⟩
    · exact State.takeCommand_unknown has h8
    · refine answered test (by decide) (by decide) ?_
      rw [closes test]
      simp [State.channelClose, wide]
    · refine answered test (by decide) (by decide) ?_
      rw [closes test]
      simp [State.channelClose, Nat.not_lt.mpr narrow, active, closed]
    · exact answered test (by omega) h5 (State.answerCommand_outOfRange (running test) h3 h5 out)
    · exact answered test (by omega) h5
        (State.answerCommand_missing (running test) h3 h5 first second (misses test _ none1))
    · refine answered test (by decide) (by decide) ?_
      rw [moves test]
      exact (State.stationMove_tests first (second rfl) (finds test _ i c f1)).1 j (finds test _ j d f2)
    · refine answered test (by decide) (by decide) ?_
      rw [moves test]
      refine (State.stationMove_tests first (second rfl) (finds test _ i c f1)).2.1 (misses test _ ?_) (active ▸ closed)
      intro channel claims
      rw [closed] at claims
      cases claims
    · refine answered test (by decide) (by decide) ?_
      obtain ⟨channel, source, known⟩ := f1
      have hc : u.context? i = some c := by
        have := (State.known_congr table).trans known
        simp only [State.known, Bool.and_eq_true, beq_iff_eq] at this
        exact this.1.2
      rw [moves test, (State.stationMove_tests first (second rfl) (finds test _ i c ⟨channel, source, known⟩)).2.2 target c
        (misses test _ none2) (active ▸ claims) hc, if_neg]
      have count : u.occupiedCount target = s.occupiedCount target := by simp [State.occupiedCount, table]
      rw [active, count, not_or]
      exact ⟨Nat.not_lt.mpr full, other⟩
    · exact State.takeCommand_busy has h2 h7 (draining ▸ busy)
    · exact State.takeCommand_answers has h2 (by omega) (by omega) (draining.trans calm)
        (State.answerCommand_elsewhere (part ▸ elsewhere) h2 h5 _ _)
    · rw [State.takeCommand_drain has (draining.trans calm), if_pos (part.trans stopped)]
  refine ⟨_, exec_command between offered sole has takes (by simp [u, idle]), ?_, ?_, by simp, by simp, by simp [u],
    by simp [u], by simp [u], by simp [u], by simp [u], by simp [u], State.ended_pins between (by simp [u]) ?_⟩
  · simp [State.commandAnswer_events, u, value]
  · simpa [u, value] using u.commandAnswer_own u.commandSequence code 0 result (by simp [u, idle])
  · rw [(u.attentionLevel_answers u.commandSequence u.commandSequence .applied code 0 result).2]
    exact s.withCopied_attentionLevel o r

/-! ### DRAIN (R153) -/

theorem State.drained_iff (s : State) :
    s.drained = true ↔ s.intake.queue = [] ∧ s.flight = none ∧ s.forwarder.held = [] := by
  simp [State.drained, and_assoc]

/-- The idle flags of a DRAIN that completes. -/
theorem State.idleFlags_drained (h : s.drained = true) :
    s.idleFlags = if s.own.queue = [] ∧ s.own.outstanding = [] then 15 else 7 := by
  obtain ⟨h1, h2, h3⟩ := s.drained_iff.mp h
  by_cases q : s.own.queue = []
  · by_cases w : s.own.outstanding = []
    · simp [State.idleFlags, h1, h2, h3, q, w, flagField]
    · simp [State.idleFlags, h1, h2, h3, q, w, flagField]
  · simp [State.idleFlags, h1, h2, h3, q, flagField]

/-- Settles O39: by whether the three conditions hold. -/
theorem drainCompletesWhenIdle : Obligations.DrainCompletesWhenIdle := by
  constructor
  · intro s o r between offered sole has part calm u idle flags
    obtain ⟨-, now, -⟩ := s.between_iff.mp between
    have same : u.drained = s.drained := by simp [State.drained, u]
    have flag : u.idleFlags = s.idleFlags := by simp [State.idleFlags, u]
    have takes := State.takeCommand_drain has (by simpa using calm)
    rw [if_neg (by simpa using part)] at takes
    by_cases h : s.drained = true
    · have done : u.takeCommand = u.drainAnswer u.commandSequence := by
        rw [takes]
        simp [State.startDrain, u, same ▸ h]
      have noDrain : ({ u.settings with draining := none } : SettingsIntake) = u.settings := by
        rw [show u.settings = { u.settings with draining := u.settings.draining } from rfl]
        simp [u, calm]
      refine ⟨_, exec_command between offered sole has done (by simp [State.drainAnswer, u, now]), fun _ => ⟨?_, ?_, ?_⟩,
        fun no => absurd (s.drained_iff.mp h) no, ?_⟩
      · simp [State.drainAnswer, State.commandAnswer_events, flag, State.idleFlags_drained h, flags, u]
      · have own := ({ u with settings := { u.settings with draining := none } } : State).commandAnswer_own
          u.commandSequence 6 u.idleFlags .done (by simp [u, now])
        rw [flag, State.idleFlags_drained h] at own
        simpa [State.drainAnswer, flag, State.idleFlags_drained h, u] using own
      · simpa [State.drainAnswer] using noDrain
      · refine ⟨by simp [State.drainAnswer], by simp [State.drainAnswer, u], by simp [State.drainAnswer, u],
          by simp [State.drainAnswer, u], by simp [State.drainAnswer, u], by simp [State.drainAnswer, u],
          by simp [State.drainAnswer, u], State.ended_pins between (by simp [State.drainAnswer, u]) ?_⟩
        unfold State.drainAnswer
        rw [(State.attentionLevel_answers _ u.commandSequence u.commandSequence .applied 6 _ .done).2]
        exact s.withCopied_attentionLevel o r
    · have held : u.takeCommand = { u with settings := { u.settings with draining := some u.commandSequence } } := by
        rw [takes]
        simp [State.startDrain, u, same ▸ h]
      refine ⟨_, exec_command between offered sole has held (by simp [u, now]),
        fun yes => absurd (s.drained_iff.mpr yes) h, fun _ => ⟨by simp [u], by simp [u], by simp⟩, ?_⟩
      exact ⟨by simp, by simp [u], by simp [u], by simp [u], by simp [u], by simp [u], by simp [u],
        State.ended_pins between (by simp [u]) (s.withCopied_attentionLevel o r)⟩
  · intro s sequence between draining empty idle free flags
    obtain ⟨-, now, -⟩ := s.between_iff.mp between
    have h : s.drained = true := s.drained_iff.mpr ⟨empty, idle, free⟩
    have done : effect .drainDone s = s.drainAnswer sequence := by
      simp [effect, State.finishDrain, draining, h]
    refine ⟨_, exec_calm between done (by simp [State.drainAnswer, now]), ?_, ?_, by simp [State.drainAnswer],
      by simp [State.drainAnswer], by simp [State.drainAnswer], by simp [State.drainAnswer], by simp [State.drainAnswer],
      by simp [State.drainAnswer], by simp [State.drainAnswer], by simp [State.drainAnswer],
      State.ended_pins between (by simp [State.drainAnswer]) ?_⟩
    · simp [State.drainAnswer, State.commandAnswer_events, State.idleFlags_drained h, flags]
    · have own := ({ s with settings := { s.settings with draining := none } } : State).commandAnswer_own sequence 6
        s.idleFlags .done (by simp [now])
      rw [State.idleFlags_drained h] at own
      simpa [State.drainAnswer, State.idleFlags_drained h] using own
    · unfold State.drainAnswer
      rw [(State.attentionLevel_answers _ sequence sequence .applied 6 _ .done).2]
      rfl

/-! ### ERROR_CLEAR (R28, R166) -/

/-- What ERROR_CLEAR leaves. -/
theorem State.errorClear_does (s : State) (argument : Word) :
    let named : BitVec 10 := argument.setWidth 10
    (s.errorClear argument).events =
      { s.events with
        errors := s.events.errors &&& ~~~named
        firstPointer := s.events.firstPointer.filter fun k => !named.getLsbD k.code } ∧
    (s.errorClear argument).table =
      { s.table with quarantined := if named.getLsbD 9 then [] else s.table.quarantined } := by
  unfold State.errorClear
  dsimp only
  have quarantine : ErrorKind.contextIntegrity.code = 9 := rfl
  rw [quarantine]
  generalize argument.setWidth 10 = named
  have pointer : (s.events.firstPointer.any fun k => named.getLsbD k.code) = true →
      s.events.firstPointer.filter (fun k => !named.getLsbD k.code) = none := by
    cases s.events.firstPointer <;> simp
  have keeps : (s.events.firstPointer.any fun k => named.getLsbD k.code) ≠ true →
      s.events.firstPointer.filter (fun k => !named.getLsbD k.code) = s.events.firstPointer := by
    cases s.events.firstPointer <;> simp
  split
  next empties =>
    rw [pointer empties]
    split <;> split <;> simp_all
  next stays =>
    rw [keeps stays]
    split <;> split <;> simp_all

/-- Settles O40: what is cleared, then the result. -/
theorem errorClearClears : Obligations.ErrorClearClears := by
  intro s o r between offered sole has calm u named
  obtain ⟨-, now, -⟩ := s.between_iff.mp between
  obtain ⟨events, table⟩ := u.errorClear_does (Words.read u.settings.staging Config.firstArgument)
  have takes : u.takeCommand = (u.errorClear (Words.read u.settings.staging Config.firstArgument)).commandAnswer
      u.commandSequence 7 0 .done :=
    State.takeCommand_answers has (by decide) (by decide) (by decide) (by simpa [u] using calm) rfl
  refine ⟨_, exec_command between offered sole has takes (by simp [u, now]), ?_, ?_, ?_, by simp [u], by simp [u],
    by simp [u], by simp [u], by simp [u], by simp [u], by simp [u], by simp [u], by simp [u], State.ended_attention _⟩
  · simp [State.commandAnswer_events, events, u, named]
  · simpa using State.commandAnswer_lastIssued _ _ _ _ _
  · simp [table, u, named]

end Sys2Proof.Machine
end

section
/-!
SOFT_RESET: held writes forwarded while no own write may be sent, and the status words issued in order.
-/

namespace Sys2Proof.Machine

set_option Elab.async false

variable {s t u : State} {r : Request} {o : Origin}

/-! ### Own writes that wait go on waiting (R149, R150) -/

/-- With more requests in flight, no own write is ready that was not. -/
theorem State.ownReady_waits (h : s.ownReady = false) (own : t.own = s.own)
    (inFlight : s.forwarder.inFlight ⊆ t.forwarder.inFlight) (cause : t.now.cause = s.now.cause) : t.ownReady = false := by
  have met (w : OwnWrite) (hw : t.maySend w = true) : s.maySend w = true := by
    simp only [State.maySend, own, Bool.and_eq_true] at hw ⊢
    refine ⟨⟨?_, hw.1.2⟩, hw.2⟩
    have since := hw.1.1
    simp only [State.causeMet, cause] at since ⊢
    split
    · rfl
    next serial e =>
      rw [e] at since
      simp only [Bool.and_eq_true, Bool.not_eq_true', List.any_eq_false] at since ⊢
      exact ⟨since.1, fun q hq => since.2 q (inFlight hq)⟩
  refine Bool.eq_false_iff.mpr fun ready => Bool.eq_false_iff.mp h ?_
  simp only [State.ownReady, own, Option.any_eq_true] at ready ⊢
  obtain ⟨w, head, may⟩ := ready
  exact ⟨w, head, met w may⟩

/-- A held write forwarded when no own write may be sent. -/
theorem State.forwardUnfilled_waiting (s : State) (h : HeldWrite) (waiting : s.ownReady = false) :
    (s.forwardUnfilled h).own = s.own ∧ s.forwarder.inFlight ⊆ (s.forwardUnfilled h).forwarder.inFlight ∧
      (s.forwardUnfilled h).events = s.events ∧ (s.forwardUnfilled h).now = s.now := by
  simp [State.forwardUnfilled, s.beginForward_waiting waiting, State.forwardAs, State.withCause]

/-- None becomes ready by the held writes forwarded. -/
theorem State.forwardHeldUnfilled_waiting (s : State) (waiting : s.ownReady = false) :
    s.forwardHeldUnfilled.own = s.own ∧ s.forwardHeldUnfilled.events = s.events := by
  have all : ∀ (l : List HeldWrite) (u : State), u.ownReady = false →
      (l.foldl State.forwardUnfilled u).own = u.own ∧ (l.foldl State.forwardUnfilled u).events = u.events := by
    intro l
    induction l with
    | nil => exact fun u _ => ⟨rfl, rfl⟩
    | cons h l ih =>
      intro u waits
      obtain ⟨own, inFlight, events, now⟩ := u.forwardUnfilled_waiting h waits
      obtain ⟨own', events'⟩ := ih _ (State.ownReady_waits waits own inFlight (by rw [now]))
      exact ⟨own'.trans own, events'.trans events⟩
  exact all _ _ ((State.ownReady_congr s _ rfl rfl rfl).trans waiting)

/-- So the held writes are what the memory port has been given. -/
theorem Forwards.alone_of_own {out : List Request} (h : Forwards s t out) (own : t.own = s.own) :
    t.forwarder.toMemory = s.forwarder.toMemory ++ out := by
  obtain ⟨sent, memory, inOrder, -, count⟩ := h.toMemory
  rw [own] at count
  rw [memory, inOrder.eq_of_length (by omega)]

/-! ### Status words issued in turn (R148) -/

/-- Words that have no entry waiting stand behind one another at the end of the queue. -/
theorem foldl_issueStatus (l : List Nat) (u : State) (distinct : l.Nodup)
    (absent : ∀ w ∈ u.own.queue, ∀ word ∈ l, w.isStatus word = false) :
    l.foldl State.issueStatus u = { u with own := { u.own with
      queue := u.own.queue ++
        l.map fun word => { body := .status word (u.statusValue word), cause := u.now.cause } } } := by
  induction l generalizing u with
  | nil => simp
  | cons word l ih =>
    obtain ⟨fresh, rest⟩ := List.nodup_cons.mp distinct
    have stays : (u.own.queue.filter fun w => !w.isStatus word) = u.own.queue :=
      List.filter_eq_self.mpr fun w hw => by rw [absent w hw word List.mem_cons_self]; rfl
    have first : u.issueStatus word = { u with own := { u.own with
        queue := u.own.queue ++ [{ body := .status word (u.statusValue word), cause := u.now.cause }] } } := by
      simp [State.issueStatus, State.issueStatusFor, stays]
    rw [List.foldl_cons, ih _ rest, first]
    · simp [State.statusValue, State.freeCount, State.vacantCount, State.occupiedCount]
    · intro w hw k hk
      rw [first] at hw
      rcases List.mem_append.mp hw with old | new
      · exact absent w old k (List.mem_cons_of_mem _ hk)
      · simp only [List.mem_singleton] at new
        subst new
        have other : word ≠ k := fun e => fresh (e ▸ hk)
        simpa [OwnWrite.isStatus] using other

/-- What SOFT_RESET leaves the status words to be issued on. -/
def State.resetWith (s : State) (value : Word) : State :=
  { s.endFlight.forwardHeldUnfilled.clearForSetup with
    events :=
      { producer := 0, consumer := 0, mark := 0, sequence := 0, lost := false, holding := [], errors := 0,
        firstPointer := none, applyResult := 0, commandResult := value }
    own :=
      { s.endFlight.forwardHeldUnfilled.clearForSetup.own with
        queue := [{ body := .status Config.commandResultWord value, cause := s.now.cause }] } }

/-- The DONE displaces an ABANDONED made in the same step (R148, log 35). -/
theorem State.softReset_eq (s : State) (sequence : BitVec 16) :
    s.softReset sequence = wordsAfterReset.foldl State.issueStatus
      (s.resetWith (commandResultValue sequence 1 (flagField s.settings.draining.isSome) .done)) := by
  unfold State.softReset
  dsimp only
  congr 1
  cases h : s.settings.draining <;>
    simp [State.commandAnswer, State.issueStatus, State.issueStatusFor, State.clearForSetup, State.resetWith,
      State.statusValue, OwnWrite.isStatus, Config.commandResultWord, Config.applyResultWord]

/-- The status words of a SOFT_RESET, of which the free count alone is not 0 (R167). -/
theorem State.resetWith_words (s : State) (value : Word) :
    ∀ w ∈ wordsAfterReset, (s.resetWith value).statusValue w = if w = Config.freeCountWord then (1024 : Word) else 0 := by
  simp [wordsAfterReset, State.resetWith, State.statusValue, State.clearForSetup, State.freeCount, State.vacantCount,
    State.occupiedCount, firstPointerValue]

/-- Nothing is unread then, and no error is set (R173). -/
theorem State.resetWith_calm (s : State) (value : Word) : (s.resetWith value).attentionLevel = false := by
  simp [State.attentionLevel, State.markedUnread, State.unmaskedError, State.resetWith]

/-- Settles O34: the flight ends, the held writes go, the blocks are cleared, and the status words follow the result. -/
theorem softResetMakesSetup : Obligations.SoftResetMakesSetup := by
  intro s o r between offered sole has u value
  obtain ⟨-, now, -⟩ := s.between_iff.mp between
  obtain ⟨-, waiting⟩ := (s.offers_iff o r).mp offered
  have waits : u.endFlight.ownReady = false :=
    State.ownReady_waits waiting (by simp [u]) (by simp [u, State.withForwarded]) (by simp [u])
  obtain ⟨own, -⟩ := u.endFlight.forwardHeldUnfilled_waiting waits
  have forwards := u.endFlight.forwardHeldUnfilled_forwards
  have takes : u.takeCommand = wordsAfterReset.foldl State.issueStatus (u.resetWith value) := by
    rw [State.takeCommand_softReset has, u.softReset_eq]
    simp [u, value]
  have fresh : ∀ w ∈ (u.resetWith value).own.queue, ∀ word ∈ wordsAfterReset, w.isStatus word = false := by
    simp [State.resetWith, OwnWrite.isStatus, wordsAfterReset]
  rw [foldl_issueStatus _ _ (by decide) fresh] at takes
  have words := u.resetWith_words value
  have memory := forwards.alone_of_own own
  refine ⟨_, exec_command between offered sole has takes (by simp [State.resetWith, State.clearForSetup, u, now]),
    rfl, by simp [State.resetWith, State.clearForSetup], rfl, rfl, rfl, rfl,
    by simp [State.resetWith, State.clearForSetup, u], rfl, ?_, ?_, ?_, ?_, ?_, ?_, ?_, ?_, ?_⟩
  · simp only [State.ended_frame, List.map_append, List.map_map]
    refine congrArg (OwnBody.status Config.commandResultWord value :: ·) (List.map_congr_left fun w hw => ?_)
    exact congrArg (OwnBody.status w) (words w hw)
  · simp [State.resetWith, State.clearForSetup, own, u]
  · simp [State.resetWith, State.clearForSetup, own, u]
  · simp [State.resetWith, State.clearForSetup]
  · simpa [State.resetWith, State.clearForSetup, u, State.withForwarded] using memory
  · simp [State.resetWith, State.clearForSetup, u, State.withForwarded]
  · simp [State.resetWith, State.clearForSetup, forwards.inFlight, u, State.withForwarded]
  · simp [State.resetWith, State.clearForSetup, u]
  · exact u.resetWith_calm value

end Sys2Proof.Machine
end

section
/-!
Deliveries and responses.
-/

namespace Sys2Proof.Machine

set_option Elab.async false

variable {s t u : State} {r q : Request} {o : Origin} {slot index : Nat} {key : Key} {c : Context}

/-! ### Facts about a record, carried from one state to another -/

/-- The end of a step touches no record and no request. -/
theorem Released.ended (h : Released s t index) : Released s t.ended index :=
  ⟨h.gone, h.others, h.directory, h.slotMap, h.deadlines, h.flight⟩

theorem FailedCheck.ended {time : Time} {cause : Option Nat} (h : FailedCheck s t index c time cause) :
    FailedCheck s t.ended index c time cause :=
  ⟨h.released.ended, h.quarantined, h.errors, h.reported⟩

theorem ForwardsHeld.ended {out : List Request} (h : ForwardsHeld s t out) : ForwardsHeld s t.ended out :=
  ⟨h.held, h.waiting, h.stalled, h.toInitiator, h.nextSerial, h.inFlight, h.toMemory, h.alone⟩

theorem SettlesHeld.ended {out : List Request} (h : SettlesHeld s t index out) : SettlesHeld s t.ended index out := by
  unfold SettlesHeld at h ⊢
  split at h
  next other => rwa [if_pos other]
  next own => rw [if_neg own]; exact h.ended

/-- A release counts from any state with the same records. -/
theorem Released.since (h : Released u t index) (contexts : u.table.contexts = s.table.contexts)
    (directory : u.table.directory = s.table.directory) (slotMap : u.slotMap = s.slotMap)
    (deadlines : u.time.deadlines = s.time.deadlines) (flight : u.flight = s.flight) : Released s t index := by
  have same : ∀ m, u.context? m = s.context? m := fun m => by simp [State.context?, contexts]
  exact ⟨h.gone, fun m hm => (h.others m hm).trans (same m), by rw [h.directory, directory], by rw [h.slotMap, slotMap],
    by rw [h.deadlines, deadlines], by rw [h.flight, flight]⟩

theorem State.context?_congr (h : u.table = s.table) : u.context? index = s.context? index := by
  simp [State.context?, h]

theorem State.heldFor_congr (held : u.forwarder.held = s.forwarder.held) (flight : u.flight = s.flight)
    (directory : u.table.directory = s.table.directory) (slotMap : u.slotMap = s.slotMap) :
    u.heldFor index key = s.heldFor index key := by
  simp [State.heldFor, held, flight, directory, slotMap]

theorem State.heldFilled_congr {f : Fill} (held : u.forwarder.held = s.forwarder.held)
    (active : u.settings.active = s.settings.active) : u.heldFilled key f = s.heldFilled key f := by
  simp [State.heldFilled, held, active]

theorem State.eventRoom_congr {n : Nat} (events : u.events = s.events) : u.eventRoom n = s.eventRoom n := by
  simp [State.eventRoom, events]

theorem State.damageRoom_congr (events : u.events = s.events) (active : u.settings.active = s.settings.active) :
    u.damageRoom = s.damageRoom := by
  simp [State.damageRoom, State.eventRoom, State.tolerates, events, active]

theorem State.releasedFields_congr {reason : ReleaseReason} {stage : Nat}
    (active : u.settings.active = s.settings.active) :
    u.releasedFields c index reason stage = s.releasedFields c index reason stage := by
  simp [State.releasedFields, State.stationFields, active]

/-! ### Delivery (R110 to R112) -/

theorem effect_deliveryRead (between : s.between = true) (offered : s.offers o r = true)
    (hs : s.deliverySlot? r = some slot) : effect (.deliveryRead o) s = (s.withForwarded o r r).deliver slot := by
  obtain ⟨presented, waiting⟩ := (s.offers_iff o r).mp offered
  obtain ⟨stands, turn⟩ := (s.presents_iff o r).mp presented
  obtain ⟨-, idle, -⟩ := s.between_iff.mp between
  simp only [effect]
  rw [s.settle_next o r _ _ stands turn (by simp [hs]), s.passRead_delivers o r slot idle waiting hs]

theorem State.deliver_empty (h : Table.get? s.slotMap slot = none) : s.deliver slot = s := by
  simp [State.deliver, h]

theorem State.deliver_damaged (h : Table.get? s.slotMap slot = some index) (hc : s.context? index = some c)
    (damaged : c.intact = false) : s.deliver slot = s.failIntegrity index s.time.counter := by
  simp [State.deliver, h, hc, damaged]

theorem State.deliver_issued {issued : Machine.Issued} {k : Nat} (h : Table.get? s.slotMap slot = some index)
    (hc : s.context? index = some c) (intact : c.intact = true) (correction : c.correction = .issued issued k) :
    s.deliver slot =
      if issued.status = .abort then s.releaseStation index .abortDelivered s.time.counter 0
      else
        State.arm { s.writeContext index { c with correction := .sent issued s.time.counter } with
          slotMap := Table.erase s.slotMap slot } index .confirm
            (later s.time.counter (confirmWindow s.settings.active c.key.channel)) := by
  simp [State.deliver, h, hc, intact, correction]

/-- Settles O28: by what the slot names. -/
theorem deliveryMakesContextSent : Obligations.DeliveryMakesContextSent := by
  intro s o r slot between offered delivers
  have does := effect_deliveryRead between offered delivers
  obtain ⟨-, now, -⟩ := s.between_iff.mp between
  refine ⟨fun empty => exec_quiet between ?_, fun index c issued k owner hc intact correction other =>
    exec_quiet between ?_, ?_⟩
  · rw [does, State.deliver_empty (by simpa using empty)]
  · rw [does, State.deliver_issued (by simpa using owner) (by simpa [State.context?] using hc) intact correction,
      if_neg other]
    simp [State.arm, State.removeDeadline, State.writeContext, rearmed]
  · intro index c owner hc damaged held room u
    rw [State.deliver_damaged (index := index) (c := c) (by simpa using owner) (by simpa [State.context?] using hc)
      damaged] at does
    obtain ⟨failed, settles, -, now', part, settings, intake, pins, -⟩ :=
      u.failIntegrity_does index c u.time.counter (by simpa [u, State.context?] using hc)
        ((State.damageRoom_congr (by simp [u]) (by simp [u])).trans room)
        ((State.heldFor_congr (by simp [u]) (by simp [u]) (by simp [u]) (by simp [u])).trans held)
    have counter : u.time.counter = s.time.counter := by simp [u]
    have cause : u.now.cause = none := by simp [u, now]
    rw [State.heldFilled_congr (s := s) (by simp [u]) (by simp [u])] at settles
    refine ⟨_, exec_calm between does (by rw [now']; simp [u, now]), counter ▸ cause ▸ failed.ended, settles.ended,
      part.trans (by simp [u]), settings.trans (by simp [u]), intake.trans (by simp [u]), ?_, State.ended_attention _⟩
    rw [(State.ended_frame _).2.1, pins]
    simp [u]

/-- Settles O29: an ABORT response delivered releases its context. -/
theorem abortDeliveryReleases : Obligations.AbortDeliveryReleases := by
  intro s o r slot index c issued k between offered delivers owner hc intact correction abort held room u
  have does := effect_deliveryRead between offered delivers
  obtain ⟨-, now, -⟩ := s.between_iff.mp between
  rw [State.deliver_issued (by simpa using owner) (by simpa [State.context?] using hc) intact correction,
    if_pos abort] at does
  obtain ⟨released, reported, settles, errors, quarantined, -, now', part, settings, intake, pins, -⟩ :=
    u.releaseStation_does index c .abortDelivered u.time.counter 0 (by simpa [u, State.context?] using hc)
      ((State.eventRoom_congr (by simp [u])).trans room) (by decide)
      ((State.heldFor_congr (by simp [u]) (by simp [u]) (by simp [u]) (by simp [u])).trans held)
  have counter : u.time.counter = s.time.counter := by simp [u]
  have cause : u.now.cause = none := by simp [u, now]
  rw [State.heldFilled_congr (s := s) (by simp [u]) (by simp [u])] at settles
  rw [State.releasedFields_congr (s := s) (by simp [u]), cause] at reported
  refine ⟨_, exec_calm between does (by rw [now']; simp [u, now]),
    (released.since (by simp [u]) (by simp [u]) (by simp [u]) (by simp [u]) (by simp [u])).ended, settles.ended,
    by rw [← counter]; exact reported, quarantined.trans (by simp [u]), errors.trans (by simp [u]), part.trans (by simp [u]),
    settings.trans (by simp [u]), intake.trans (by simp [u]), ?_, State.ended_attention _⟩
  rw [(State.ended_frame _).2.1, pins]
  simp [u]

/-! ### A step that ends with events, pins and settings as they were -/

/-- Such a step drops its cause, and nothing else. -/
theorem exec_rested {c : Instr} (between : s.between = true) (does : effect c s = u) (calm : u.now.stopDue = false)
    (reset : ∀ straps, c ≠ .powerOnReset straps := by nofun) (low : c ≠ .rstnLow := by nofun)
    (hp : u.pins = s.pins := by simp) (he : u.events = s.events := by simp)
    (ha : u.settings.active = s.settings.active := by simp) : exec c s = .next (u.withCause none) := by
  obtain ⟨-, -, attention⟩ := s.between_iff.mp between
  rw [exec_calm between does calm reset low]
  have level : u.attentionLevel = s.attentionLevel := State.attentionLevel_congr s _ he ha
  have pins : { u.pins with attention := u.attentionLevel } = u.pins := by rw [level, hp, ← attention]
  have now : u.now = { cause := u.now.cause, stopDue := false } := by rw [← calm]
  simp [State.ended, State.withCause, pins, calm]

/-! ### A slot freed (R99, R102) -/

theorem State.unmapSlot_eq (s : State) (slot : Nat) : s.unmapSlot slot = s.slotFreed slot := by
  unfold State.unmapSlot State.slotFreed
  cases Table.get? s.slotMap slot with
  | none => rfl
  | some index =>
    have same : State.context? { s with slotMap := Table.erase s.slotMap slot } index = s.context? index := rfl
    cases hc : s.context? index with
    | none => simp [same, hc]
    | some c => cases h : c.correction <;> simp [State.writeContext, same, hc, h]

theorem State.slotFreed_unmapped (h : Table.get? s.slotMap slot = none) : s.slotFreed slot = s := by
  simp [State.slotFreed, h]

/-- It is read from the slot map and the contexts, and changes nothing else. -/
theorem State.slotFreed_of (table : u.table = s.table) (slotMap : u.slotMap = s.slotMap) (slot : Nat) :
    u.slotFreed slot =
      { u with
        table := (s.slotFreed slot).table
        slotMap := (s.slotFreed slot).slotMap } := by
  obtain ⟨pending, pins, part, forwarder, own, settings, intake, flight, table', slotMap', time, events, now⟩ := u
  cases table
  cases slotMap
  unfold State.slotFreed State.context?
  cases Table.get? s.slotMap slot <;> rfl

/-- The slot names nothing more. -/
theorem State.unmapSlot_slot (s : State) (slot k : Nat) :
    Table.get? (s.unmapSlot slot).slotMap k = if k = slot then none else Table.get? s.slotMap k := by
  rw [s.unmapSlot_eq]
  cases h : Table.get? s.slotMap slot with
  | none =>
    rw [State.slotFreed_unmapped h]
    split
    next same => rw [same, h]
    · rfl
  | some owner => simp [State.slotFreed, h, Table.get?_erase]

/-- A context the slot does not name stays. -/
theorem State.unmapSlot_other (h : Table.get? s.slotMap slot ≠ some index) :
    (s.unmapSlot slot).context? index = s.context? index := by
  rw [s.unmapSlot_eq]
  cases owner : Table.get? s.slotMap slot with
  | none => rw [State.slotFreed_unmapped owner]
  | some j =>
    have other : index ≠ j := fun e => h (e ▸ owner)
    cases hc : s.context? j with
    | none =>
      simp only [State.slotFreed, owner, hc]
      rfl
    | some c =>
      cases hk : c.correction with
      | issued issued k =>
        simp only [State.slotFreed, owner, hc, hk]
        simp [State.context?, Table.get?_set, other]
      | _ =>
        simp only [State.slotFreed, owner, hc, hk]
        rfl

/-- The one it names is READY again, if it was ISSUED. -/
theorem State.unmapSlot_issued {issued : Machine.Issued} {k : Nat} (h : Table.get? s.slotMap slot = some index)
    (hc : s.context? index = some c) (correction : c.correction = .issued issued k) :
    (s.unmapSlot slot).context? index = some { c with correction := .ready issued, intact := true } := by
  rw [s.unmapSlot_eq]
  simp only [State.slotFreed, h, hc, correction]
  simp [State.context?]

/-- A context that is not ISSUED stays. -/
theorem State.unmapSlot_unissued (hc : s.context? index = some c) (h : ∀ issued k, c.correction ≠ .issued issued k) :
    (s.unmapSlot slot).context? index = some c := by
  by_cases owner : Table.get? s.slotMap slot = some index
  · rw [s.unmapSlot_eq]
    cases hk : c.correction with
    | issued issued k => exact absurd hk (h issued k)
    | _ =>
      simp only [State.slotFreed, owner, hc, hk]
      exact hc
  · rw [State.unmapSlot_other owner, hc]

/-! ### Slots freed one after another (R99) -/

theorem foldl_unmapSlot_slot (l : List Nat) (s : State) (k : Nat) :
    Table.get? (l.foldl State.unmapSlot s).slotMap k = if k ∈ l then none else Table.get? s.slotMap k := by
  induction l generalizing s with
  | nil => simp
  | cons slot l ih =>
    rw [List.foldl_cons, ih, s.unmapSlot_slot]
    by_cases rest : k ∈ l
    · simp [rest]
    · simp [rest]

theorem foldl_unmapSlot_other (l : List Nat) (s : State) (h : ∀ slot ∈ l, Table.get? s.slotMap slot ≠ some index) :
    (l.foldl State.unmapSlot s).context? index = s.context? index := by
  induction l generalizing s with
  | nil => rfl
  | cons slot l ih =>
    rw [List.foldl_cons, ih _ ?_, State.unmapSlot_other (h slot List.mem_cons_self)]
    intro k hk
    rw [s.unmapSlot_slot]
    split
    · simp
    · exact h k (List.mem_cons_of_mem _ hk)

theorem foldl_unmapSlot_unissued (l : List Nat) (s : State) (hc : s.context? index = some c)
    (h : ∀ issued k, c.correction ≠ .issued issued k) : (l.foldl State.unmapSlot s).context? index = some c := by
  induction l generalizing s with
  | nil => exact hc
  | cons slot l ih => exact ih _ (State.unmapSlot_unissued hc h)

theorem foldl_unmapSlot_issued {issued : Issued} {k : Nat} (l : List Nat) (s : State) (mem : slot ∈ l)
    (h : Table.get? s.slotMap slot = some index) (hc : s.context? index = some c)
    (correction : c.correction = .issued issued k) :
    (l.foldl State.unmapSlot s).context? index = some { c with correction := .ready issued, intact := true } := by
  induction l generalizing s with
  | nil => cases mem
  | cons first l ih =>
    rw [List.foldl_cons]
    by_cases names : Table.get? s.slotMap first = some index
    · exact foldl_unmapSlot_unissued l _ (State.unmapSlot_issued names hc correction) (by simp)
    · have other : slot ≠ first := fun e => names (e ▸ h)
      refine ih _ ((List.mem_cons.mp mem).resolve_left other) ?_ ((State.unmapSlot_other names).trans hc)
      rw [s.unmapSlot_slot, if_neg other, h]

/-! ### A write not taken (R99) -/

/-- Of the blocks, the fill unit alone acts on a write that meets the staging area alone (R139). -/
theorem effect_responseNotTaken (between : s.between = true) (offered : s.offers o r = true)
    (hr : s.meetsOnlyStaging r = true) (hs : s.responseNotTaken r = true)
    (calm : ((s.passing o r).notTaken r).now.stopDue = false) :
    effect (.responseNotTaken o) s = ((s.passing o r).notTaken r).withCause none := by
  obtain ⟨presented, waiting⟩ := (s.offers_iff o r).mp offered
  obtain ⟨-, idle, -⟩ := s.between_iff.mp between
  obtain ⟨guard, noReport, noTorn, noSettings⟩ : s.guardFails r = false ∧ s.reportSlot? r = none ∧
      s.tornWrite r = false ∧ s.settingsRequest r = false := by
    simpa [State.meetsOnlyStaging, and_assoc] using hr
  obtain ⟨write, noResponse⟩ : Request.isWrite r = true ∧ s.responseSlot? r = none := by
    simp only [State.responseNotTaken, Bool.and_eq_true, Option.isNone_iff_eq_none] at hs
    exact ⟨hs.1.1.2, hs.2⟩
  have forwarded : (s.leaving o).beginForward.forwardAs (s.leaving o).forwarder.nextSerial r = s.passing o r := by
    simpa using s.beginForward_forwardAs o r waiting
  have intake : (s.passing o r).intakeWrite r = s.passing o r :=
    State.intakeWrite_clear _ r (by rw [State.reportSlot?_congr s _ r (by simp) (by simp), noReport])
      (by rw [State.tornWrite_congr s _ r (by simp) (by simp), noTorn])
  simp only [effect]
  rw [s.settlePass_next o r _ presented write guard noResponse hs]
  unfold State.passWrite
  dsimp only
  rw [forwarded, intake]
  generalize ht : (s.passing o r).notTaken r = t at calm
  rw [State.stopIfDue_calm _ calm]
  simp [State.settingsWrite, State.settingsRequest_congr s (t.withCause none) r (by simp [← ht]), noSettings]

/-- Settles O27: the overlapped slots are unmapped, and the error is set for a write like a response. -/
theorem untakenWriteUnmapsSlots : Obligations.UntakenWriteUnmapsSlots := by
  intro s o r between offered staging untaken room tolerates hits
  obtain ⟨-, idle, -⟩ := s.between_iff.mp between
  obtain ⟨v, hv⟩ : ∃ v, (s.passing o r).unmapOverlapped r = v := ⟨_, rfl⟩
  have frame : v.settings = s.settings ∧ v.time = s.time ∧ v.events = s.events ∧ v.now = (s.passing o r).now ∧
      v.pins = s.pins ∧ v.part = s.part ∧ v.intake = s.intake ∧ v.flight = s.flight ∧
      v.forwarder = (s.withForwarded o r r).forwarder ∧ v.table.directory = s.table.directory ∧
      v.table.quarantined = s.table.quarantined := by
    simp [← hv]
  obtain ⟨settings, time, events, now, pins, part, intake, flight, forwarder, directory, quarantined⟩ := frame
  have does : (s.passing o r).notTaken r = if s.looksLikeResponse r then v.setError .shortResponse s.time.counter else v := by
    have not : (s.passing o r).responseNotTaken r = true :=
      (State.responseNotTaken_congr s _ r (by simp) (by simp)).trans untaken
    have looks : (s.passing o r).looksLikeResponse r = s.looksLikeResponse r := by simp [State.looksLikeResponse]
    simp [State.notTaken, not, looks, hv, time]
  obtain ⟨errorNow, errors, -⟩ := v.setError_calm .shortResponse s.time.counter
    (by simpa [State.tolerates, settings] using tolerates) (by simpa [State.eventRoom, events] using room)
  obtain ⟨w, hw⟩ : ∃ w, (s.passing o r).notTaken r = w := ⟨_, rfl⟩
  have kept : w.forwarder = v.forwarder ∧ w.slotMap = v.slotMap ∧ w.table = v.table ∧ w.part = v.part ∧
      w.settings = v.settings ∧ w.intake = v.intake ∧ w.flight = v.flight ∧ w.time = v.time ∧ w.pins = v.pins ∧
      w.now = v.now ∧
      w.events.errors = (if s.looksLikeResponse r = true then s.events.errors ||| 4#10 else s.events.errors) := by
    rw [← hw, does]
    by_cases looks : s.looksLikeResponse r = true
    · simp [looks, errorNow, errors, events, ErrorKind.code]
    · simp [looks, events]
  obtain ⟨wForwarder, wSlots, wTable, wPart, wSettings, wIntake, wFlight, wTime, wPins, wNow, wErrors⟩ := kept
  have quiet : w.now.stopDue = false := by simp [wNow, now, idle]
  have ran := effect_responseNotTaken between offered staging untaken (by rw [hw]; exact quiet)
  rw [hw] at ran
  have slots : v = ((s.slotMap.keys.filter fun k => hits k).foldl State.unmapSlot (s.passing o r)) := by
    rw [← hv]
    simp [State.unmapOverlapped, hits]
  have member : ∀ k, k ∈ (s.slotMap.keys.filter fun k => hits k) ↔ k ∈ s.slotMap.keys ∧ hits k = true := by simp
  have mapped : ∀ slot index, Table.get? s.slotMap slot = some index → slot ∈ s.slotMap.keys := fun slot index h =>
    List.mem_map.mpr ⟨_, Table.mem_keys_of_get? _ _ _ h, rfl⟩
  have passed : ∀ index, (s.passing o r).context? index = s.context? index := fun index =>
    State.context?_congr (by simp)
  have context : ∀ index, w.context? index = v.context? index := fun index => State.context?_congr wTable
  refine ⟨_, exec_calm between ran quiet, wForwarder.trans forwarder, fun slot => ?_,
    fun slot index c issued k hit owner hc correction => ?_, fun index unnamed => ?_, wErrors, wPart.trans part,
    wSettings.trans settings, wIntake.trans intake, wFlight.trans flight, wTime.trans time, ?_, ?_, ?_,
    State.ended_attention _⟩
  · show Table.get? w.slotMap slot = _
    rw [wSlots, slots, foldl_unmapSlot_slot]
    simp only [member]
    by_cases hit : hits slot = true
    · rw [if_pos hit]
      split
      · rfl
      next absent =>
        refine Option.eq_none_iff_forall_ne_some.mpr fun index h => absent ⟨mapped slot index ?_, hit⟩
        simpa using h
    · rw [if_neg hit, if_neg fun h => hit h.2]
      simp
  · show w.context? index = _
    rw [context, slots, foldl_unmapSlot_issued _ _ ((member slot).mpr ⟨mapped slot index owner, hit⟩) (by simpa using owner)
      ((passed index).trans hc) correction]
  · show w.context? index = _
    rw [context, slots, foldl_unmapSlot_other, passed]
    intro slot mem
    simpa using unnamed slot ((member slot).mp mem).2
  · exact (congrArg _ wTable).trans directory
  · exact (congrArg _ wTable).trans quarantined
  · show w.pins.straps = _
    rw [wPins, pins]

end Sys2Proof.Machine
end

section
/-!
Responses filled, passed and held.
-/

namespace Sys2Proof.Machine

set_option Elab.async false

variable {s t u : State} {r q : Request} {o : Origin} {slot index : Nat} {key : Key} {c : Context}

/-! ### A response at its turn (R101, R102) -/

/-- The state in which a request has left its place and taken its number. -/
def State.numbered (s : State) (o : Origin) : State := (s.leaving o).beginForward

theorem State.numbered_eq (waiting : s.ownReady = false) (o : Origin) :
    s.numbered o =
      { s.leaving o with
        forwarder := { (s.leaving o).forwarder with nextSerial := s.forwarder.nextSerial + 1 }
        now := { s.now with cause := some s.forwarder.nextSerial } } := by
  have waits : (s.leaving o).ownReady = false :=
    (State.ownReady_congr s (s.leaving o) (by simp) (by simp) (by simp)).trans waiting
  simp [State.numbered, State.beginForward_waiting _ waits]

theorem State.numbered_frame (waiting : s.ownReady = false) (o : Origin) :
    (s.numbered o).pins = s.pins ∧ (s.numbered o).part = s.part ∧ (s.numbered o).settings = s.settings ∧
    (s.numbered o).intake = s.intake ∧ (s.numbered o).flight = s.flight ∧ (s.numbered o).table = s.table ∧
    (s.numbered o).slotMap = s.slotMap ∧ (s.numbered o).time = s.time ∧ (s.numbered o).events = s.events ∧
    (s.numbered o).forwarder.held = s.forwarder.held ∧ (s.numbered o).now.stopDue = s.now.stopDue ∧
    (s.numbered o).now.cause = some s.forwarder.nextSerial := by
  simp [State.numbered_eq waiting]

theorem State.numbered_withCause (waiting : s.ownReady = false) (o : Origin) :
    (s.numbered o).withCause (some s.forwarder.nextSerial) = s.numbered o := by
  simp [State.numbered_eq waiting, State.withCause]

/-- Passed from there, with records as they have come to be, it has been forwarded. -/
theorem State.numbered_forwardAs (waiting : s.ownReady = false) (idle : s.now = { cause := none, stopDue := false })
    (o : Origin) (table : ContextTable) (slotMap : Table Nat) (source : q.source = r.source) (tag : q.tag = r.tag) :
    (State.forwardAs { s.numbered o with table := table, slotMap := slotMap } s.forwarder.nextSerial q).withCause none =
      { s.withForwarded o r q with table := table, slotMap := slotMap } := by
  simp [State.numbered_eq waiting, State.forwardAs, State.withCause, State.withForwarded, source, tag, idle]

/-- RESPONSE_WRITE settles the response. -/
theorem effect_responseWrite (presented : s.presents o r = true) (guard : s.guardFails r = false)
    (hs : s.responseSlot? r = some slot) : effect (.responseWrite o) s = s.settleResponse o r slot := by
  obtain ⟨stands, turn⟩ := (s.presents_iff o r).mp presented
  simp only [effect]
  rw [s.settle_next o r _ _ stands turn (by simp [guard, hs]), hs]
  rfl

/-- A response that is not to be filled, or of no open local channel, passes with its slot unmapped. -/
theorem State.settleResponse_untouched (h : fillRequested r = false ∨ s.responseKey? r = none) :
    s.settleResponse o r slot = ((s.numbered o).unmapSlot slot).forwardAs s.forwarder.nextSerial r := by
  have unwanted : s.wantsHold r = none := by
    rcases h with h | h <;> simp [State.wantsHold, h]
  have key : (s.leaving o).responseKey? r = s.responseKey? r := by simp [State.responseKey?]
  simp only [State.settleResponse, unwanted, State.passResponse, key]
  rcases h with h | h
  · simp [h, State.numbered]
  · cases fillRequested r <;> simp [h, State.numbered]

/-- A response whose key finds no station is filled as one (R106). -/
theorem State.settleResponse_unknown (waiting : s.ownReady = false) (settled : s.flight = none → s.forwarder.held = [])
    (fill : fillRequested r = true) (hk : s.responseKey? r = some key)
    (h : tagInRange key.tag = false ∨ s.unknown key = true) :
    s.settleResponse o r slot = (s.numbered o).fillAndForward s.forwarder.nextSerial r key slot none := by
  obtain ⟨-, -, -, -, flight, table, -, -, -, held, -, cause⟩ := State.numbered_frame waiting o
  have unwanted : s.wantsHold r = none := by
    unfold State.wantsHold
    rcases h with h | h
    · simp only [hk]
      cases (Table.get? s.table.directory key.number).bind s.context? <;> simp [h]
    · simp [hk, Option.isNone_iff_eq_none.mp h]
  have key' : (s.leaving o).responseKey? r = some key := by simpa [State.responseKey?] using hk
  have serial : (s.leaving o).forwarder.nextSerial = s.forwarder.nextSerial := by simp
  simp only [State.settleResponse, unwanted, State.passResponse, key', fill, serial, ← State.numbered.eq_1]
  rcases h with h | h
  · simp [h]
  · rw [State.lookup_unknown _ _ _ ((State.unknown_congr table).trans h)]
    dsimp only
    rw [State.settleHeld_empty _ (by simpa [flight, held] using settled), State.numbered_withCause waiting, ite_self]

/-- One whose station is known and not busy is filled against its context. -/
theorem State.settleResponse_known (waiting : s.ownReady = false) (settled : s.flight = none → s.forwarder.held = [])
    (fill : fillRequested r = true) (hk : s.responseKey? r = some key) (inRange : tagInRange key.tag = true)
    (known : s.known key index c = true) (idle : c.busy = false) :
    s.settleResponse o r slot = (s.numbered o).fillAndForward s.forwarder.nextSerial r key slot (some index) := by
  obtain ⟨-, -, -, -, flight, table, -, -, -, held, -, cause⟩ := State.numbered_frame waiting o
  have unwanted : s.wantsHold r = none := by
    obtain ⟨⟨entry, hc⟩, -⟩ : (Table.get? s.table.directory key.number = some index ∧ s.context? index = some c) ∧ _ := by
      simpa [State.known] using known
    simp [State.wantsHold, hk, entry, hc, idle]
  have key' : (s.leaving o).responseKey? r = some key := by simpa [State.responseKey?] using hk
  have serial : (s.leaving o).forwarder.nextSerial = s.forwarder.nextSerial := by simp
  simp only [State.settleResponse, unwanted, State.passResponse, key', fill, serial, ← State.numbered.eq_1]
  rw [if_pos inRange, State.lookup_known _ _ _ index c ((State.known_congr table).trans known)]
  dsimp only
  rw [State.settleHeld_empty _ (by simpa [flight, held] using settled), State.numbered_withCause waiting]

/-! ### What stands in the slot before (R101, R102) -/

theorem State.settleOwner_freed {found : Option Nat} (h : ∀ i, found = some i → Table.get? s.slotMap slot ≠ some i) :
    s.settleOwner slot found = s.slotFreed slot := by
  unfold State.settleOwner
  cases owner : Table.get? s.slotMap slot with
  | none => rw [State.slotFreed_unmapped owner]
  | some j =>
    dsimp only
    rw [if_neg fun e => h j e owner, s.unmapSlot_eq]

theorem State.settleOwner_own (h : Table.get? s.slotMap slot = some index) : s.settleOwner slot (some index) = s := by
  simp [State.settleOwner, h]

theorem State.slotFreed_withForwarded (s : State) (o : Origin) (r q : Request) (slot : Nat) :
    (s.slotFreed slot).withForwarded o r q =
      { s.withForwarded o r q with
        table := (s.slotFreed slot).table
        slotMap := (s.slotFreed slot).slotMap } := by
  rw [State.slotFreed_of (s := s) (u := s) rfl rfl slot]
  generalize (s.slotFreed slot).table = table
  generalize (s.slotFreed slot).slotMap = slotMap
  cases o <;> rfl

/-- The slot's owner freed once the request has its number. -/
theorem State.numbered_slotFreed (waiting : s.ownReady = false) (o : Origin) (slot : Nat) :
    (s.numbered o).slotFreed slot =
      { s.numbered o with
        table := (s.slotFreed slot).table
        slotMap := (s.slotFreed slot).slotMap } := by
  obtain ⟨-, -, -, -, -, table, slotMap, -⟩ := State.numbered_frame waiting o
  exact State.slotFreed_of table slotMap slot

theorem State.slotFreed_other (h : Table.get? s.slotMap slot ≠ some index) :
    (s.slotFreed slot).context? index = s.context? index := by
  rw [← s.unmapSlot_eq, State.unmapSlot_other h]

/-- A response that takes nothing from READY is forwarded as filled, with the slot freed of another station's context. -/
theorem State.fillAndForward_freed (waiting : s.ownReady = false) {found : Option Nat}
    (h : ∀ i, found = some i → Table.get? s.slotMap slot ≠ some i)
    (hr : ∀ c issued, found.bind s.context? = some c → c.correction ≠ .ready issued) :
    (s.numbered o).fillAndForward s.forwarder.nextSerial r key slot found =
      State.forwardAs
        { s.numbered o with
          table := (s.slotFreed slot).table
          slotMap := (s.slotFreed slot).slotMap }
        s.forwarder.nextSerial
        ((fillFor slot (found.bind s.context?)).request (mainPosition s.settings.active key.channel) r) := by
  obtain ⟨-, -, settings, -, -, table, slotMap, -⟩ := State.numbered_frame waiting o
  have owner : (s.numbered o).settleOwner slot found = (s.numbered o).slotFreed slot :=
    State.settleOwner_freed (by simpa [slotMap] using h)
  have same : found.bind ((s.numbered o).slotFreed slot).context? = found.bind s.context? := by
    cases found with
    | none => rfl
    | some i =>
      show ((s.numbered o).slotFreed slot).context? i = s.context? i
      rw [State.slotFreed_other (by rw [slotMap]; exact h i rfl), State.context?_congr table]
  rw [State.fillAndForward_other owner (by rw [same]; exact hr), same, State.numbered_slotFreed waiting]
  simp only [settings]

/-- RESPONSE_WRITE of a response forwarded as `q`, with the table and the slot map as they have come to be. -/
theorem exec_responseWrite {table : ContextTable} {slotMap : Table Nat} (between : s.between = true)
    (offered : s.offers o r = true) (guard : s.guardFails r = false) (hs : s.responseSlot? r = some slot)
    (source : q.source = r.source) (tag : q.tag = r.tag)
    (does : s.settleResponse o r slot =
      State.forwardAs { s.numbered o with table := table, slotMap := slotMap } s.forwarder.nextSerial q) :
    exec (.responseWrite o) s = .next { s.withForwarded o r q with table := table, slotMap := slotMap } := by
  obtain ⟨presented, waiting⟩ := (s.offers_iff o r).mp offered
  obtain ⟨-, idle, -⟩ := s.between_iff.mp between
  obtain ⟨pins, part, settings, -, -, -, -, -, events, -, stopDue, -⟩ := State.numbered_frame waiting o
  have ran := (effect_responseWrite presented guard hs).trans does
  rw [exec_rested between ran (by simp [State.forwardAs, stopDue, idle]) (hp := by simpa [State.forwardAs] using pins)
    (he := by simpa [State.forwardAs] using events) (ha := by simp [State.forwardAs, settings]),
    State.numbered_forwardAs waiting idle o _ _ source tag]

theorem State.known_iff : s.known key index c = true ↔
    Table.get? s.table.directory key.number = some index ∧ s.context? index = some c ∧ c.intact = true := by
  simp [State.known, and_assoc]

/-- Settles O23: the READY correction goes out, and the slot names its context. -/
theorem readyResponseIsFilled : Obligations.ReadyResponseIsFilled := by
  intro s o r slot key index c issued between offered guard hs fill hk inRange known idle ready other settled u
  obtain ⟨presented, waiting⟩ := (s.offers_iff o r).mp offered
  obtain ⟨-, -, settings, -, -, table, slotMap, -⟩ := State.numbered_frame waiting o
  obtain ⟨-, hc, -⟩ := State.known_iff.mp known
  have owner : (s.numbered o).settleOwner slot (some index) = (s.numbered o).slotFreed slot :=
    State.settleOwner_freed (by simpa [slotMap] using other)
  have context : ((s.numbered o).slotFreed slot).context? index = some c := by
    rw [State.slotFreed_other (by rw [slotMap]; exact other), State.context?_congr table, hc]
  obtain ⟨-, source, tag, -⟩ := issued.fill.request_frame (mainPosition s.settings.active key.channel) r
  refine (exec_responseWrite between offered guard hs source tag ?_).trans rfl
  rw [State.settleResponse_known waiting settled fill hk inRange known idle,
    State.fillAndForward_ready owner context ready, State.numbered_slotFreed waiting]
  have rest : (s.slotFreed slot).table =
      { s.table with contexts := (s.slotFreed slot).table.contexts } := by
    obtain ⟨-, -, -, -, -, -, -, -, -, -, -, directory, quarantined, ageing⟩ := s.unmapSlot_frame slot
    rw [s.unmapSlot_eq] at directory quarantined ageing
    dsimp only
    rw [← directory, ← quarantined, ← ageing]
  rw [rest]
  simp only [settings, State.writeContext]
  rfl

/-! ### The other results of a response (R101 to R106) -/

/-- What the fill unit finds that is no READY correction. -/
theorem fillFor_unready (h : ∀ issued, c.correction ≠ .ready issued) :
    ∀ d issued, some c = some d → d.correction ≠ .ready issued := by
  rintro d issued ⟨⟩
  exact h issued

/-- A response that finds no READY correction is forwarded as filled; the slot's owner is freed if it is another context. -/
theorem exec_responseWrite_other {found : Option Nat} (between : s.between = true) (offered : s.offers o r = true)
    (guard : s.guardFails r = false) (hs : s.responseSlot? r = some slot)
    (does : s.settleResponse o r slot = (s.numbered o).fillAndForward s.forwarder.nextSerial r key slot found)
    (h : ∀ i, found = some i → Table.get? s.slotMap slot ≠ some i)
    (hr : ∀ c issued, found.bind s.context? = some c → c.correction ≠ .ready issued) :
    exec (.responseWrite o) s = .next ((s.slotFreed slot).withForwarded o r
      ((fillFor slot (found.bind s.context?)).request (mainPosition s.settings.active key.channel) r)) := by
  obtain ⟨presented, waiting⟩ := (s.offers_iff o r).mp offered
  obtain ⟨-, source, tag, -⟩ :=
    (fillFor slot (found.bind s.context?)).request_frame (mainPosition s.settings.active key.channel) r
  rw [State.slotFreed_withForwarded]
  exact exec_responseWrite between offered guard hs source tag (does.trans (State.fillAndForward_freed waiting h hr))

/-- One whose station's record fails its check finds no station, once that record is released (R27, R106). -/
theorem State.settleResponse_damaged (waiting : s.ownReady = false) (fill : fillRequested r = true)
    (hk : s.responseKey? r = some key) (inRange : tagInRange key.tag = true)
    (entry : Table.get? s.table.directory key.number = some index) (hc : s.context? index = some c)
    (damaged : c.intact = false) (empty : s.forwarder.held = [])
    (now : ((s.numbered o).integrityRelease index s.time.counter).now = (s.numbered o).now)
    (held : ((s.numbered o).integrityRelease index s.time.counter).forwarder = (s.numbered o).forwarder) :
    s.settleResponse o r slot =
      ((s.numbered o).integrityRelease index s.time.counter).fillAndForward s.forwarder.nextSerial r key slot none := by
  obtain ⟨-, -, -, -, -, table, -, time, -, none1, -, cause⟩ := State.numbered_frame waiting o
  have unwanted : s.wantsHold r = none := by
    simp [State.wantsHold, hk, entry, hc, damaged]
  have key' : (s.leaving o).responseKey? r = some key := by simpa [State.responseKey?] using hk
  have serial : (s.leaving o).forwarder.nextSerial = s.forwarder.nextSerial := by simp
  simp only [State.settleResponse, unwanted, State.passResponse, key', fill, serial, ← State.numbered.eq_1]
  have missing : (s.numbered o).lookup key (s.numbered o).time.counter =
      ((s.numbered o).integrityRelease index s.time.counter, none) := by
    have hc' : (s.numbered o).context? index = some c := (State.context?_congr table).trans hc
    simp [State.lookup, table, entry, hc', damaged, time]
  rw [if_pos inRange, missing]
  dsimp only
  generalize (s.numbered o).integrityRelease index s.time.counter = v at now held
  rw [State.settleHeld_empty _ fun _ => by rw [held, none1, empty]]
  have same : v.withCause (some s.forwarder.nextSerial) = v := by
    simp only [State.withCause]
    rw [← cause, ← now]
  rw [same]

/-- Settles O26: by what the response finds. -/
theorem otherFillsChangeNoRecord : Obligations.OtherFillsChangeNoRecord := by
  intro s o r slot between offered guard hs settled freed
  obtain ⟨presented, waiting⟩ := (s.offers_iff o r).mp offered
  obtain ⟨-, now, -⟩ := s.between_iff.mp between
  constructor
  · intro untouched
    rw [State.slotFreed_withForwarded]
    refine exec_responseWrite between offered guard hs rfl rfl ?_
    rw [State.settleResponse_untouched untouched, State.unmapSlot_eq, State.numbered_slotFreed waiting]
  intro key fill hk main
  refine ⟨fun unknown => exec_responseWrite_other between offered guard hs
      (State.settleResponse_unknown waiting settled fill hk unknown) (by simp) (by simp),
    fun index c inRange known idle => ?_, fun index c inRange entry hc damaged empty distinct owner room => ?_⟩
  · obtain ⟨-, hc, -⟩ := State.known_iff.mp known
    have found := State.settleResponse_known (o := o) (slot := slot) waiting settled fill hk inRange known idle
    have passes (other : Table.get? s.slotMap slot ≠ some index) (unready : ∀ issued, c.correction ≠ .ready issued) :=
      exec_responseWrite_other between offered guard hs found (by rintro i ⟨⟩; exact other)
        (by rw [Option.bind_some, hc]; exact fillFor_unready unready)
    rw [Option.bind_some, hc] at passes
    refine ⟨fun other none1 => ?_, fun issued own out => ?_, fun other elsewhere => ?_⟩
    · rw [passes other (by simp [none1])]
      simp [fillFor, none1, freed, main]
    · obtain ⟨-, -, settings, -, -, table, slotMap, -⟩ := State.numbered_frame waiting o
      obtain ⟨-, source, tag, -⟩ := issued.fill.request_frame main r
      refine (exec_responseWrite (table := s.table) (slotMap := s.slotMap) between offered guard hs source tag ?_).trans
        (by simp [State.withForwarded])
      have own' : (s.numbered o).settleOwner slot (some index) = s.numbered o :=
        State.settleOwner_own (by rw [slotMap]; exact own)
      have context : (s.numbered o).context? index = some c := (State.context?_congr table).trans hc
      rw [found, State.fillAndForward_other own' (by rw [Option.bind_some, context]; exact fillFor_unready (by simp [out])),
        Option.bind_some, context]
      have active : mainPosition (s.numbered o).settings.active key.channel = main := by rw [settings]
      simp only [fillFor, out, if_true]
      rw [active, ← table, ← slotMap]
    · rcases elsewhere with ⟨issued, k, out, away⟩ | ⟨issued, delivered, out⟩
      · rw [passes other (by simp [out])]
        simp [fillFor, out, away, freed, main]
      · rw [passes other (by simp [out])]
        simp [fillFor, out, freed, main]
  · obtain ⟨pins, part, settings, intake, flight, table, slotMap, time, events, held, stopDue, cause⟩ :=
      State.numbered_frame waiting o
    obtain ⟨released, reported, errors, quarantined, -, keeps⟩ := (s.numbered o).integrityRelease_does index c
      s.time.counter ((State.context?_congr table).trans hc)
      ((State.damageRoom_congr events (congrArg _ settings)).trans room)
    have does := State.settleResponse_damaged (o := o) (slot := slot) waiting fill hk inRange entry hc damaged empty
      keeps.now keeps.forwarder
    generalize (s.numbered o).integrityRelease index s.time.counter = v at *
    have unowned : v.settleOwner slot none = v := by
      rw [State.settleOwner_freed (by simp), State.slotFreed_unmapped]
      rw [released.slotMap, slotMap, Table.get?_filter _ _ _ distinct]
      cases h : Table.get? s.slotMap slot with
      | none => rfl
      | some j => simp [Option.filter, owner j h]
    rw [State.fillAndForward_other unowned (by simp)] at does
    refine ⟨_, exec_calm between ((effect_responseWrite presented guard hs).trans does)
      (by simp [State.forwardAs, keeps.now, stopDue, now]), ⟨?_, ?_, ?_, ?_⟩, ?_, ?_, ?_, ?_, ?_, State.ended_attention _⟩
    · refine (released.since (by rw [table]) (by rw [table]) slotMap (by rw [time]) flight).congr ?_ ?_ ?_ ?_ ?_ <;>
        simp [State.forwardAs]
    · simpa [State.forwardAs, table] using quarantined
    · simpa [State.forwardAs, events] using errors
    · rw [State.releasedFields_congr (s := s) (by rw [settings]), cause] at reported
      simp only [State.reportsSince, Bool.or_eq_true]
      exact .inl reported
    · simp [State.forwardAs, keeps.forwarder, State.numbered_eq waiting, State.withForwarded, keeps.settings, fillFor,
        main, (emptyFill none 3).request_frame]
    · simp [State.forwardAs, keeps.part, part]
    · simp [State.forwardAs, keeps.settings, settings]
    · simp [State.forwardAs, keeps.intake, intake]
    · simp [State.forwardAs, keeps.pins, pins]

/-! ### Held (R103, R143, R145) -/

/-- A response to be filled whose station is busy wants a held place. -/
theorem State.wantsHold_busy (hs : s.responseSlot? r = some slot) (fill : fillRequested r = true)
    (hk : s.responseKey? r = some key) (inRange : tagInRange key.tag = true) (known : s.known key index c = true)
    (busy : c.busy = true) : s.wantsHold r = some key := by
  obtain ⟨entry, hc, intact⟩ := State.known_iff.mp known
  simp [State.wantsHold, hs, fill, hk, entry, hc, inRange, intact, busy]

theorem State.heldPlaceFor_free (room : s.forwarder.held.length + s.waitingHolds < Config.heldPlaces) (o : Origin) :
    s.heldPlaceFor o = true := by
  have less : s.forwarder.held.length < Config.heldPlaces := Nat.lt_of_le_of_lt (Nat.le_add_right _ _) room
  cases o <;> simp [State.heldPlaceFor, room, less]

theorem State.heldPlaceFor_full (full : Config.heldPlaces ≤ s.forwarder.held.length) (o : Origin) :
    s.heldPlaceFor o = false := by
  have more (n : Nat) : ¬s.forwarder.held.length + n < Config.heldPlaces :=
    Nat.not_lt.mpr (Nat.le_trans full (Nat.le_add_right _ _))
  cases o <;> simp [State.heldPlaceFor, more, full]

/-- Settles O25: the response wants a held place, and takes one or stops the port. -/
theorem busyResponseIsHeld : Obligations.BusyResponseIsHeld := by
  intro s o r slot key index c between presented guard hs fill hk inRange known busy
  have does := effect_responseWrite presented guard hs
  simp only [State.settleResponse, State.wantsHold_busy hs fill hk inRange known busy] at does
  refine ⟨fun room => exec_quiet between ?_, fun full port => exec_quiet between ?_⟩
  · rw [does, if_pos (State.heldPlaceFor_free room o)]
    simp [State.hold]
  · subst port
    rw [does, State.heldPlaceFor_full full]
    rfl

end Sys2Proof.Machine
end

section
/-!
A fatal error, and the part's own writes: acknowledged, sent in turn, and written for held events.
-/

namespace Sys2Proof.Machine

set_option Elab.async false

variable {s t u : State} {r : Request} {o : Origin}

/-! ### A fatal setting (R175, R180) -/

/-- A kind that is not tolerated asks a part that is not STOPPED to stop. -/
theorem State.markError_fatal {k : ErrorKind} (h : s.tolerates k = false) (part : s.part ≠ .stopped) :
    (s.markError k).1.now = { s.now with stopDue := true } := by
  obtain ⟨unmasked, fatal⟩ : errorMasked s.settings.active k.code = false ∧ errorFatal s.settings.active k.code = true := by
    simpa [State.tolerates] using h
  simp only [State.markError, unmasked, fatal]
  (repeat' split) <;> simp_all [State.issueStatus, State.issueStatusFor]

/-- Such a setting, with room for its event. -/
theorem State.setError_fatal {k : ErrorKind} (time : Time) (h : s.tolerates k = false) (part : s.part ≠ .stopped)
    (room : s.events.holding.length < Config.holdingPlaces) :
    (s.setError k time).now = { s.now with stopDue := true } ∧
      (s.setError k time).events.errors = s.events.errors ||| (1#10 <<< k.code) := by
  have errors := s.markError_errors k
  have now := s.markError_fatal h part
  have holding : (s.markError k).1.events.holding = s.events.holding := by simp
  unfold State.setError
  generalize s.markError k = p at errors now holding
  obtain ⟨v, due⟩ := p
  cases due with
  | false => exact ⟨now, errors⟩
  | true =>
    obtain ⟨now', errors', -⟩ := v.handOn_calm (v.errorEvent k) time (by rw [holding]; exact room)
    exact ⟨now'.trans now, errors'.trans errors⟩

theorem State.endFlight_flight (s : State) : s.endFlight.flight = none := by
  unfold State.endFlight
  split
  next none1 => exact none1
  · split <;> rfl

/-- The context whose correction was in flight is busy no more (R48). -/
theorem State.endFlight_context {f : Flight} {c : Context} (h : s.flight = some f) (hc : s.context? f.index = some c) :
    s.endFlight.context? f.index = some { c with busy := false, intact := true } := by
  simp only [State.endFlight, h, hc]
  exact s.writeContext_get f.index f.index _ |>.trans (if_pos rfl)

theorem State.forwardHeldUnfilled_held (s : State) : s.forwardHeldUnfilled.forwarder.held = [] :=
  (foldl_leaves State.forwardUnfilled (fun t => t.forwarder.held) (fun t x => by simp) _ _).trans rfl

/-- A DRAIN in progress ends with ABANDONED (R154). -/
theorem State.abandonDrain_draining (s : State) : s.abandonDrain.settings.draining = none := by
  unfold State.abandonDrain
  split
  next none1 => exact none1
  · simp

theorem State.abandonDrain_result {sequence : BitVec 16} (h : s.settings.draining = some sequence) :
    s.abandonDrain.events.commandResult = commandResultValue sequence 6 0 .abandoned := by
  simp [State.abandonDrain, h, State.commandAnswer]

/-- A DRAIN's end touches no error. -/
theorem State.abandonDrain_errors (s : State) : s.abandonDrain.events.errors = s.events.errors := by
  unfold State.abandonDrain
  split <;> simp

/-- A command that sets a fatal error in a part that is not STOPPED enters STOPPED (R175, R180). -/
theorem exec_fatal {c : Instr} (between : s.between = true) (does : effect c s = u) (due : u.now.stopDue = true)
    (part : u.part ≠ .stopped) (reset : ∀ straps, c ≠ .powerOnReset straps := by nofun) (low : c ≠ .rstnLow := by nofun) :
    exec c s = .next (State.enterStopped { u with now := { u.now with stopDue := false } }).ended := by
  obtain ⟨up, -, -⟩ := s.between_iff.mp between
  rw [exec_eq_act c s reset low, s.act_next _ up, does]
  have stop : u.stopIfDue = State.enterStopped { u with now := { u.now with stopDue := false } } := by
    simp [State.stopIfDue, due, part]
  have quiet : u.stopIfDue.now.stopDue = false := by simp [stop, State.enterStopped]
  simp only [State.finish, State.ended, State.withCause, ← stop]
  rw [quiet]
  rfl

/-- Settles O15: the entry to STOPPED after the answer and the error. -/
theorem fatalErrorStopsPart : Obligations.FatalErrorStopsPart := by
  intro s o r between presented fails part fatal room
  have answered : (s.answered o r).part = s.part ∧ (s.answered o r).settings = s.settings ∧
      (s.answered o r).events = s.events := by simp [State.answered]
  obtain ⟨samePart, settings, events⟩ := answered
  obtain ⟨now, errors⟩ := (s.answered o r).setError_fatal (k := .guardBlock) s.time.counter
    (by simpa [State.tolerates, settings] using fatal) (by rwa [samePart])
    (by simpa [State.eventRoom, events] using room)
  have ran := exec_fatal between (effect_blockedWrite presented fails) (by rw [now]) (by simpa [samePart] using part)
  obtain ⟨v, hv⟩ : ∃ v : State, v = { (s.answered o r).setError .guardBlock s.time.counter with
    now := { ((s.answered o r).setError .guardBlock s.time.counter).now with stopDue := false } } := ⟨_, rfl⟩
  rw [← hv] at ran
  have frame : v.settings = s.settings ∧ v.flight = s.flight ∧ v.table = s.table ∧ v.slotMap = s.slotMap ∧
      v.time = s.time ∧ v.intake = s.intake ∧ v.own.outstanding = s.own.outstanding ∧ v.pins = s.pins ∧
      v.forwarder = (s.answered o r).forwarder ∧ v.events.errors = s.events.errors ||| 8#10 := by
    rw [hv]
    refine ⟨?_, ?_, ?_, ?_, ?_, ?_, ?_, ?_, ?_, ?_⟩
    case refine_10 => simpa [ErrorKind.code, events] using errors
    all_goals simp [State.answered]
  obtain ⟨settings', flight, table, slotMap, time, intake, outstanding, pins, forwarder, errors'⟩ := frame
  have held : v.abandonDrain.endFlight.forwarder.held = s.forwarder.held := by simp [forwarder, State.answered]
  refine ⟨_, ran, rfl, ?_, fun sequence draining => ?_, ?_, fun f c hf hc => ?_, ?_, ?_, ?_, ?_, ?_, ?_, ?_,
    State.ended_attention _⟩
  · simp [State.enterStopped, State.abandonDrain_draining]
  · simpa [State.enterStopped] using State.abandonDrain_result (s := v) (by rw [settings', draining])
  · simp [State.enterStopped, State.endFlight_flight]
  · have context := State.endFlight_context (s := v.abandonDrain) (f := f) (c := c) (by simp [flight, hf])
      (by simpa [State.context?, table] using hc)
    simpa [State.enterStopped, State.context?] using context
  · have forwards := v.abandonDrain.endFlight.forwardHeldUnfilled_forwards
    rw [held] at forwards
    refine ForwardsHeld.ended ((forwards.congr ?_ ?_ ?_ ?_ ?_ ?_).held ?_)
    · simp [forwarder, State.answered, blockedAnswer]
    · simp [outstanding]
    · simp [pins]
    · rfl
    · rfl
    · rfl
    · exact State.forwardHeldUnfilled_held _
  · simp [State.enterStopped, slotMap]
  · simp [State.enterStopped, time]
  · simp [State.enterStopped, intake]
  · simp [State.enterStopped, settings']
  · simp [State.enterStopped, settings']
  · simp [State.enterStopped, State.abandonDrain_errors, errors']

/-! ### Own writes acknowledged (R151) -/

/-- Settles O43: by the status, and whether the write is from before the last SOFT_RESET. -/
theorem ownWriteIsAcknowledged : Obligations.OwnWriteIsAcknowledged := by
  intro s tag status w between found left
  obtain ⟨-, idle, -⟩ := s.between_iff.mp between
  constructor
  · intro quiet
    have calm : ¬(status = .error ∧ (!w.beforeReset) = true) := by
      rintro ⟨rfl, since⟩
      simp at quiet
      simp [quiet] at since
    refine exec_quiet between ?_
    simp only [effect, State.ackOwn, found]
    rw [if_neg calm]
  · rintro rfl since room tolerates
    obtain ⟨v, hv⟩ : ∃ v : State, v = { s with own := { s.own with outstanding := left } } := ⟨_, rfl⟩
    have does : effect (.ownWriteAck tag .error) s = v.setError .injectFault v.time.counter := by
      simp [effect, State.ackOwn, found, since, hv, left]
    obtain ⟨now, errors, -⟩ := v.setError_calm .injectFault v.time.counter (by simpa [hv, State.tolerates] using tolerates)
      (by simpa [hv, State.eventRoom] using room)
    refine ⟨_, exec_calm between does (by rw [now]; simp [hv, idle]), ?_, ?_, ?_, ?_, ?_, ?_, ?_, ?_, ?_, ?_, ?_,
      State.ended_attention _⟩
    case refine_2 => simpa [ErrorKind.code, hv] using errors
    all_goals simp [hv]

/-! ### Held events (R169, R170) -/

/-- The error bit, and the first pointer where the kind is not masked and the pointer is empty (R175). -/
theorem State.markError_events (s : State) (k : ErrorKind) :
    (s.markError k).1.events =
      { s.events with
        errors := s.events.errors ||| (1#10 <<< k.code)
        firstPointer :=
          if errorMasked s.settings.active k.code = true then s.events.firstPointer
          else s.events.firstPointer.or (some k) } := by
  simp only [State.markError]
  split
  next masked => split <;> simp
  next unmasked =>
    cases pointer : s.events.firstPointer with
    | none => (repeat' split) <;> simp_all
    | some first => (repeat' split) <;> simp_all

/-- A fatal one that is not masked asks a part that is not STOPPED to stop. -/
theorem State.markError_stopDue (s : State) (k : ErrorKind) :
    (s.markError k).1.now.stopDue = true ↔
      s.now.stopDue = true ∨
        errorMasked s.settings.active k.code = false ∧ errorFatal s.settings.active k.code = true ∧ s.part ≠ .stopped := by
  simp only [State.markError]
  split
  next masked => split <;> simp [masked]
  next unmasked =>
    by_cases fatal : (errorFatal s.settings.active k.code && s.part != .stopped) = true
    · (repeat' split) <;> simp_all
    · have mild : ¬(errorFatal s.settings.active k.code = true ∧ s.part ≠ .stopped) := by simpa using fatal
      (repeat' split) <;> simp_all

/-- A newly set bit is issued. -/
theorem State.markError_status (s : State) (k : ErrorKind) (h : s.events.errors.getLsbD k.code = false) :
    (s.markError k).1.own.queue.any (fun w => w.isStatus Config.errorStatusWord) = true := by
  simp only [State.markError, h]
  (repeat' split) <;> simp_all [State.issueStatus, State.issueStatusFor, OwnWrite.isStatus]

/-- An event that meets a full holding queue is discarded, with the lost flag (R170). -/
theorem State.offerEvent_full (s : State) (e : EventRecord) (full : Config.holdingPlaces ≤ s.events.holding.length) :
    s.offerEvent e =
      if eventEnabled s.settings.active e.kind = true then
        ({ s with events := { s.events with lost := true } }, true)
      else (s, false) := by
  have some1 : s.events.holding.isEmpty = false := by
    cases h : s.events.holding with
    | nil => rw [h] at full; cases full
    | cons e l => rfl
  unfold State.offerEvent
  by_cases on : eventEnabled s.settings.active e.kind = true
  · simp [on, some1, Nat.not_lt.mpr full]
  · simp [on]

/-- It sets EVENT_LOSS, whose own event meets the same queue (R170, R176). -/
theorem State.handOn_full (s : State) (f : EventFields) (time : Time) (full : Config.holdingPlaces ≤ s.events.holding.length) :
    s.handOn f time =
      if eventEnabled s.settings.active f.kind = true then
        (State.markError { s with events := { s.events with lost := true } } .eventLoss).1
      else s := by
  have offered := s.offerEvent_full (s.formRecord f time) full
  have kind : (s.formRecord f time).kind = f.kind := rfl
  rw [kind] at offered
  unfold State.handOn
  by_cases on : eventEnabled s.settings.active f.kind = true
  · rw [if_pos on] at offered ⊢
    rw [offered]
    dsimp only
    have events := State.markError_events { s with events := { s.events with lost := true } } .eventLoss
    generalize State.markError { s with events := { s.events with lost := true } } .eventLoss = p at events
    obtain ⟨v, due⟩ := p
    cases due with
    | false => rfl
    | true =>
      dsimp only at events ⊢
      have kept : ({ v with events := { v.events with lost := true } } : State) = v := by
        have lost : v.events.lost = true := by rw [events]
        rw [← lost]
      rw [v.offerEvent_full _ (by rw [events]; exact full)]
      split
      · exact kept
      · rfl
  · rw [if_neg on] at offered ⊢
    rw [offered]

/-- Settles O44: the head is written or stays, and an event that meets a full queue is lost. -/
theorem heldEventIsWrittenOut : Obligations.HeldEventIsWrittenOut := by
  constructor
  · intro s e rest between holding slots next
    obtain ⟨-, idle, -⟩ := s.between_iff.mp between
    have full : s.ringFull = (next == s.events.consumer) := rfl
    have does : effect .eventWriteOut s =
        if s.canWriteRecord then State.writeRecord { s with events := { s.events with holding := rest } } e else s := by
      simp [effect, State.writeHeldEvent, holding]
    constructor
    · intro free room
      have can : s.canWriteRecord = true := by simp [State.canWriteRecord, full, free, room]
      rw [if_pos can] at does
      refine ⟨_, exec_calm between does (by simp [idle]), ?_, ?_, by simp, by simp, by simp, by simp, by simp, by simp,
        by simp, by simp, by simp, State.ended_attention _⟩
      · simp [State.writeRecord, State.issueStatusFor, next, slots]
      · simp [State.writeRecord, State.issueStatusFor, State.statusValue, next, slots, OwnWrite.isStatus,
          Config.producerWord, Config.applyResultWord, Config.commandResultWord]
    · intro stuck
      have cannot : s.canWriteRecord = false := by
        rcases stuck with h | h <;> simp [State.canWriteRecord, full, h]
      exact exec_quiet between (by rw [does, cannot]; rfl)
  · intro s f time full t
    have does : t = _ := s.handOn_full f time full
    refine ⟨fun off => by rw [does, off]; rfl, fun on => ?_⟩
    rw [if_pos on] at does
    rw [does]
    refine ⟨State.markError_events _ _, State.markError_stopDue _ _, fun clear => State.markError_status _ .eventLoss clear, ?_⟩
    simp

end Sys2Proof.Machine
end

section
/-!
The part's own writes in their turn, before the request a step forwards.
-/

namespace Sys2Proof.Machine

set_option Elab.async false

variable {s t u : State} {r : Request} {o : Origin}

/-! ### Sent until none may be (R149) -/

/-- One more of them than may be outstanding cannot be sent. -/
theorem State.sendUpTo_outstanding (n : Nat) (s : State) (ready : (State.sendUpTo n s).ownReady = true) :
    s.own.outstanding.length + n ≤ (State.sendUpTo n s).own.outstanding.length := by
  induction n generalizing s with
  | zero => exact Nat.le_refl _
  | succ n ih =>
    unfold State.sendUpTo at ready ⊢
    by_cases first : s.ownReady = true
    · rw [if_pos first] at ready ⊢
      have more : s.sendOwn.own.outstanding.length = s.own.outstanding.length + 1 := by
        cases queue : s.own.queue with
        | nil => simp [State.ownReady, queue] at first
        | cons w rest =>
          have may : s.maySend w = true := by simpa [State.ownReady, queue] using first
          simp [State.sendOwn, queue, may]
      have rest := ih s.sendOwn ready
      omega
    · rw [if_neg first] at ready
      exact absurd ready first

/-- So the head of the queue waits once they have been sent. -/
theorem State.sendReady_ownReady (s : State) : s.sendReady.ownReady = false := by
  refine Bool.eq_false_iff.mpr fun ready => ?_
  have many := State.sendUpTo_outstanding Config.ownOutstanding s ready
  obtain ⟨w, -, may⟩ := (Option.any_eq_true _ _).mp ready
  have few : s.sendReady.own.outstanding.length < Config.ownOutstanding := by
    simp only [State.maySend, Bool.and_eq_true, decide_eq_true_eq] at may
    exact may.1.2
  exact absurd (Nat.lt_of_lt_of_le few (Nat.le_trans (Nat.le_add_left _ _) many)) (Nat.lt_irrefl _)

theorem State.sendReady_sendReady (s : State) : s.sendReady.sendReady = s.sendReady :=
  State.sendReady_waiting _ s.sendReady_ownReady

/-- A step beyond the last changes nothing. -/
theorem State.sendUpTo_succ (n : Nat) (s : State) (h : (State.sendUpTo n s).ownReady = false) :
    State.sendUpTo (n + 1) s = State.sendUpTo n s := by
  induction n generalizing s with
  | zero =>
    unfold State.sendUpTo
    exact if_neg (Bool.eq_false_iff.mp h)
  | succ n ih =>
    by_cases first : s.ownReady = true
    · have step (k : Nat) : State.sendUpTo (k + 1) s = State.sendUpTo k s.sendOwn := by
        rw [State.sendUpTo, if_pos first]
      rw [step] at h
      rw [step, step, ih _ h]
    · have stop (k : Nat) : State.sendUpTo (k + 1) s = s := by rw [State.sendUpTo, if_neg first]
      rw [stop, stop]

theorem State.sendOwn_waiting (h : s.ownReady = false) : s.sendOwn = s := by
  unfold State.sendOwn
  split
  · rfl
  next w rest queue =>
    rw [if_neg]
    simpa [State.ownReady, queue] using h

/-- The head sent by a step of its own comes to the same. -/
theorem State.sendReady_sendOwn (s : State) : s.sendOwn.sendReady = s.sendReady := by
  by_cases ready : s.ownReady = true
  · have step : s.sendReady = State.sendUpTo 255 s.sendOwn := by
      show State.sendUpTo (255 + 1) s = _
      rw [State.sendUpTo, if_pos ready]
    have waits : (State.sendUpTo 255 s.sendOwn).ownReady = false := step ▸ s.sendReady_ownReady
    rw [step]
    exact State.sendUpTo_succ 255 s.sendOwn waits
  · rw [State.sendOwn_waiting (Bool.eq_false_iff.mpr ready)]

/-! ### A request leaves its place before or after them -/

/-- The state with these requests waiting, and this one at the stopped port. -/
def State.withQueues (s : State) (waiting : List Request) (stalled : Option Request) : State :=
  { s with forwarder := { s.forwarder with waiting := waiting, stalled := stalled } }

theorem State.withQueues_writeOut (waiting : List Request) (stalled : Option Request) (l : List EventRecord) (s : State) :
    (s.withQueues waiting stalled).writeOut l = (s.writeOut l).withQueues waiting stalled := by
  induction l generalizing s with
  | nil => rfl
  | cons e l ih =>
    unfold State.writeOut
    have can : (s.withQueues waiting stalled).canWriteRecord = s.canWriteRecord := rfl
    rw [can]
    split
    · exact ih (State.writeRecord { s with events := { s.events with holding := l } } e)
    · rfl

theorem State.withQueues_sendOwn (waiting : List Request) (stalled : Option Request) (s : State) :
    (s.withQueues waiting stalled).sendOwn = s.sendOwn.withQueues waiting stalled := by
  unfold State.sendOwn
  have queue : (s.withQueues waiting stalled).own.queue = s.own.queue := rfl
  rw [queue]
  cases s.own.queue with
  | nil => rfl
  | cons w rest =>
    have may : (s.withQueues waiting stalled).maySend w = s.maySend w := rfl
    dsimp only
    rw [may]
    split
    · exact State.withQueues_writeOut waiting stalled _ { s with
        forwarder := { s.forwarder with toMemory := s.forwarder.toMemory ++ [s.ownRequest w] }
        own :=
          { queue := rest
            outstanding := s.own.outstanding ++ [{ tag := s.own.nextTag, beforeReset := false }]
            nextTag := s.own.nextTag + 1 } }
    · rfl

theorem State.withQueues_sendUpTo (waiting : List Request) (stalled : Option Request) (n : Nat) (s : State) :
    State.sendUpTo n (s.withQueues waiting stalled) = (State.sendUpTo n s).withQueues waiting stalled := by
  induction n generalizing s with
  | zero => rfl
  | succ n ih =>
    unfold State.sendUpTo
    have ready : (s.withQueues waiting stalled).ownReady = s.ownReady := rfl
    rw [ready, State.withQueues_sendOwn, ih]
    split <;> rfl

theorem State.leaving_sendReady (s : State) (o : Origin) : (s.leaving o).sendReady = s.sendReady.leaving o := by
  have before : s.leaving o = s.withQueues (s.leaving o).forwarder.waiting (s.leaving o).forwarder.stalled := by
    cases o <;> rfl
  have after : s.sendReady.leaving o =
      s.sendReady.withQueues (s.leaving o).forwarder.waiting (s.leaving o).forwarder.stalled := by
    obtain ⟨-, -, -, -, -, -, -, -, -, -, -, waiting, stalled, -⟩ := s.sendReady_frame
    cases o <;> simp only [State.leaving, State.withQueues, ← waiting, ← stalled]
  rw [before, after]
  exact State.withQueues_sendUpTo _ _ _ _

/-! ### What a request is passed as once they have been sent -/

theorem State.beginForward_sendReady (s : State) : s.sendReady.beginForward = s.beginForward := by
  simp [State.beginForward, s.sendReady_sendReady]

theorem State.passWrite_sendReady (s : State) (r : Request) : s.sendReady.passWrite r = s.passWrite r := by
  simp [State.passWrite, s.beginForward_sendReady]

theorem State.passRead_sendReady (s : State) (r : Request) : s.sendReady.passRead r = s.passRead r := by
  simp [State.passRead, s.beginForward_sendReady, State.deliverySlot?_congr s s.sendReady r (by simp) (by simp)]

theorem State.passResponse_sendReady (s : State) (r : Request) (slot : Nat) :
    s.sendReady.passResponse r slot = s.passResponse r slot := by
  have key : s.sendReady.responseKey? r = s.responseKey? r := by simp [State.responseKey?]
  simp [State.passResponse, s.beginForward_sendReady, key]

/-! ### A step whose request own writes go before (log 40) -/

@[simp] theorem State.ownSent_frame (s : State) :
    s.ownSent.pins.straps = s.pins.straps ∧ s.ownSent.pins.resetLow = s.pins.resetLow ∧ s.ownSent.part = s.part ∧
    s.ownSent.settings = s.settings ∧ s.ownSent.table = s.table ∧ s.ownSent.now = s.now ∧
    s.ownSent.forwarder.held = s.forwarder.held ∧ s.ownSent.forwarder.waiting = s.forwarder.waiting ∧
    s.ownSent.forwarder.stalled = s.forwarder.stalled := by
  simp [State.ownSent]

theorem State.ownSent_between (between : s.between = true) : s.ownSent.between = true := by
  obtain ⟨up, idle, -⟩ := s.between_iff.mp between
  exact s.ownSent.between_iff.mpr ⟨by simp [up], by simp [idle], rfl⟩

theorem State.ownSent_presents (s : State) (o : Origin) (r : Request) : s.ownSent.presents o r = s.presents o r := by
  cases o <;> simp [State.presents, State.requestAt, State.atTurn, State.sourceHeld, State.sourceWaiting, State.readBehindHeld]

/-- What a row makes of the request once they have been sent, or the request is not of its kind. -/
def SentFirst (s x y : State) : Prop := y = s.ownSent ∨ y = x.withAttention s.ownSent.attentionLevel

theorem SentFirst.settle {kind kind' : Request → Bool} {f f' : Request → State} (presented : s.presents o r = true)
    (hk : kind' r = kind r) (hf : f' r = (f r).withAttention s.ownSent.attentionLevel) :
    SentFirst s (s.settle o kind f) (s.ownSent.settle o kind' f') := by
  obtain ⟨stands, turn⟩ := (s.presents_iff o r).mp presented
  obtain ⟨stands', turn'⟩ := (s.ownSent.presents_iff o r).mp ((s.ownSent_presents o r).trans presented)
  cases h : kind r with
  | true =>
    rw [s.settle_next o r kind f stands turn h, s.ownSent.settle_next o r kind' f' stands' turn' (hk.trans h), hf]
    exact .inr rfl
  | false => exact .inl (by simp [State.settle, stands', hk, h])

theorem State.ownSent_leaving (s : State) (o : Origin) :
    s.ownSent.leaving o = ((s.leaving o).sendReady).withAttention s.ownSent.attentionLevel := by
  rw [State.leaving_sendReady]
  cases o <;> rfl

theorem SentFirst.settlePass {kind kind' : Request → Bool} (presented : s.presents o r = true) (hk : kind' r = kind r) :
    SentFirst s (s.settlePass o kind) (s.ownSent.settlePass o kind') := by
  refine SentFirst.settle presented ?_ ?_
  · simp [hk, State.guardFails, State.responseSlot?, State.running]
  · rw [State.ownSent_leaving, State.withAttention_passWrite, State.passWrite_sendReady]

theorem SentFirst.commands (presented : s.presents o r = true) (code : Nat) :
    SentFirst s (s.settlePass o fun r => s.commands r code) (s.ownSent.settlePass o fun r => s.ownSent.commands r code) :=
  SentFirst.settlePass presented (by
    simp [State.commands, State.controls, State.settingsRequest, State.commandCode, State.copySettings])

/-- Every row that acts on a request. -/
theorem effect_ownSent {c : Instr} (origin : originOf c = some o) (presented : s.presents o r = true)
    (guard : s.guardFails r = false) (unheld : s.wantsHold r = none) : SentFirst s (effect c s) (effect c s.ownSent) := by
  have reads : (s.ownSent.leaving o).passRead r = ((s.leaving o).passRead r).withAttention s.ownSent.attentionLevel := by
    rw [State.ownSent_leaving, State.withAttention_passRead, State.passRead_sendReady]
  have running : s.ownSent.running = s.running := by simp [State.running]
  have slot : s.ownSent.responseSlot? r = s.responseSlot? r := by simp [State.responseSlot?, running]
  have delivers : s.ownSent.deliverySlot? r = s.deliverySlot? r := by simp [State.deliverySlot?, running]
  have guard' : s.ownSent.guardFails r = false := by simpa [State.guardFails] using guard
  have report : s.ownSent.reportSlot? r = s.reportSlot? r := by simp [State.reportSlot?, running]
  have torn : s.ownSent.tornWrite r = s.tornWrite r := by simp [State.tornWrite, running, report]
  have taken : s.ownSent.responseNotTaken r = s.responseNotTaken r := by simp [State.responseNotTaken, running, slot]
  have settings : s.ownSent.settingsRequest r = s.settingsRequest r := by simp [State.settingsRequest]
  have controls : ∀ word, s.ownSent.controls r word = s.controls r word := by simp [State.controls, settings]
  have code : s.ownSent.commandCode r = s.commandCode r := by simp [State.commandCode, State.copySettings]
  cases c with
  | requestWait p =>
    obtain rfl : p = o := Option.some.inj origin
    obtain ⟨stands, turn⟩ := (s.ownSent.presents_iff p r).mp ((s.ownSent_presents p r).trans presented)
    exact .inl (by simp [effect, stands, turn])
  | blockedWrite p =>
    obtain rfl : p = o := Option.some.inj origin
    obtain ⟨stands, turn⟩ := (s.ownSent.presents_iff p r).mp ((s.ownSent_presents p r).trans presented)
    exact .inl (by simp [effect, State.settle, stands, guard'])
  | forwardRead p =>
    obtain rfl : p = o := Option.some.inj origin
    exact SentFirst.settle presented (by simp [delivers]) reads
  | deliveryRead p =>
    obtain rfl : p = o := Option.some.inj origin
    exact SentFirst.settle presented (by simp [delivers]) reads
  | responseWrite p =>
    obtain rfl : p = o := Option.some.inj origin
    refine SentFirst.settle presented (by simp [slot, guard, guard']) ?_
    have unheld' : s.ownSent.wantsHold r = none := by
      have same : s.ownSent.wantsHold r = s.wantsHold r := by
        have key : s.ownSent.responseKey? r = s.responseKey? r := by simp [State.responseKey?]
        have context : s.ownSent.context? = s.context? := funext fun index => State.context?_congr (by simp)
        unfold State.wantsHold
        rw [slot, key, context]
        simp
      rw [same, unheld]
    simp only [State.settleResponse, unheld, unheld', slot]
    rw [State.ownSent_leaving, State.withAttention_passResponse, State.passResponse_sendReady]
  | forwardWrite p =>
    obtain rfl : p = o := Option.some.inj origin
    exact SentFirst.settlePass presented (by simp [State.examined, report, torn, slot, taken, settings])
  | reportWrite p =>
    obtain rfl : p = o := Option.some.inj origin
    exact SentFirst.settlePass presented (by simp [report])
  | tornWrite p =>
    obtain rfl : p = o := Option.some.inj origin
    exact SentFirst.settlePass presented torn
  | responseNotTaken p =>
    obtain rfl : p = o := Option.some.inj origin
    exact SentFirst.settlePass presented taken
  | settingsWrite p =>
    obtain rfl : p = o := Option.some.inj origin
    exact SentFirst.settlePass presented (by simp [State.plainSettings, settings, controls, code])
  | applyWrite p =>
    obtain rfl : p = o := Option.some.inj origin
    exact SentFirst.settlePass presented (controls _)
  | consumerIndexWrite p =>
    obtain rfl : p = o := Option.some.inj origin
    exact SentFirst.settlePass presented (controls _)
  | softReset p | channelClose p | stationDrop p | stationRestart p | stationMove p | drain p | errorClear p =>
    obtain rfl : p = o := Option.some.inj origin
    exact SentFirst.commands presented _
  | _ => cases origin

theorem State.finish_ownSent (between : s.between = true) : s.ownSent.finish = s.ownSent := by
  obtain ⟨-, idle, attention⟩ := s.ownSent.between_iff.mp (State.ownSent_between between)
  rw [State.finish_calm _ (by rw [idle]), ← attention, ← idle]

/-- Settles O42: the head is sent or waits, the rest follow it, and a step that forwards comes to the same after them. -/
theorem ownWriteIsSentInTurn : Obligations.OwnWriteIsSentInTurn := by
  refine ⟨fun s w rest between queue empty => ?_, fun s t between ran => ?_, fun c o r s between origin presented guard
    unheld acts => ?_⟩
  · intro ready sent
    obtain ⟨-, idle, -⟩ := s.between_iff.mp between
    have may : s.maySend w = true ↔ ready := by
      have met : s.causeMet w = true ↔ ∀ serial, w.cause = some serial → ∀ q ∈ s.forwarder.inFlight, q.serial ≠ serial := by
        cases cause : w.cause <;> simp [State.causeMet, cause, idle]
      simp only [State.maySend, Bool.and_eq_true, met, decide_eq_true_eq, Bool.not_eq_true', List.any_eq_false, beq_iff_eq,
        ready, and_assoc, ne_eq]
    have does : effect .ownWriteSend s =
        if s.maySend w = true then { s with
          forwarder := { s.forwarder with toMemory := s.forwarder.toMemory ++ [sent] }
          own :=
            { queue := rest
              outstanding := s.own.outstanding ++ [{ tag := s.own.nextTag, beforeReset := false }]
              nextTag := s.own.nextTag + 1 } }
        else s := by
      have request : s.ownRequest w = sent := by
        simp only [State.ownRequest, sent]
        cases w.body <;> rfl
      simp only [effect, State.sendOwn, queue, request]
      exact congrArg (fun t => if s.maySend w = true then t else s) (State.writeOutHeld_empty empty)
    refine ⟨fun h => exec_quiet between (by rw [does, if_pos (may.mpr h)]),
      fun h => exec_quiet between (by rw [does, if_neg fun m => h (may.mp m)]), ?_⟩
    rw [← may]
    simp [State.ownReady, queue]
  · obtain ⟨-, idle, -⟩ := s.between_iff.mp between
    have sent := exec_calm (c := .ownWriteSend) between rfl (show s.sendOwn.now.stopDue = false by simp [idle])
    obtain rfl : s.sendOwn.ended = t := by
      rw [sent] at ran
      exact Host.Outcome.next.inj ran
    have ends : s.sendOwn.ended = s.sendOwn.withAttention s.sendOwn.attentionLevel := by
      have now : s.sendOwn.now = { cause := none, stopDue := false } := by simp [idle]
      simp [State.ended, State.withAttention, ← now]
    refine ⟨?_, s.sendReady_ownReady, fun waits => ?_⟩
    · rw [ends]
      show State.withAttention _ _ = State.withAttention _ _
      rw [State.withAttention_sendReady, State.sendReady_sendOwn]
      rfl
    · obtain ⟨-, -, attention⟩ := s.between_iff.mp between
      rw [State.ownSent, State.sendReady_waiting s waits]
      dsimp only
      rw [← attention]
  · have low : c ≠ .rstnLow := by rintro rfl; cases origin
    have reset : ∀ straps, c ≠ .powerOnReset straps := by rintro straps rfl; cases origin
    obtain ⟨up, -, -⟩ := s.between_iff.mp between
    obtain ⟨up', -, -⟩ := s.ownSent.between_iff.mp (State.ownSent_between between)
    rw [exec_eq_act c s.ownSent reset low, s.ownSent.act_next _ up'] at acts ⊢
    rw [exec_eq_act c s reset low, s.act_next _ up]
    rcases effect_ownSent origin presented guard unheld with nothing | same
    · rw [nothing, State.finish_ownSent between] at acts
      exact absurd rfl acts
    · rw [same, State.withAttention_finish]

end Sys2Proof.Machine
end

section
/-!
Station commands: what they release, restart and move.
-/

namespace Sys2Proof.Machine

set_option Elab.async false

variable {s t u v : State} {r : Request} {o : Origin} {index code : Nat} {key : Key} {c : Context}

/-! ### What an answer leaves of a release -/

theorem Released.answered {flags : Nat} {result : CommandResult} {sequence : BitVec 16} (h : Released s t index) :
    Released s (t.commandAnswer sequence code flags result) index :=
  h.congr (by simp) (by simp) (by simp) (by simp) (by simp)

theorem State.reportsSince_answered {f : EventFields} {time : Time} {cause : Option Nat} {flags : Nat}
    {result : CommandResult} {sequence : BitVec 16} (h : t.reportsSince u f time cause = true) :
    (t.commandAnswer sequence code flags result).reportsSince u f time cause = true := by
  unfold State.reportsSince at h ⊢
  simp only [Bool.or_eq_true] at h ⊢
  refine h.imp (fun reported => ?_) fun sent => ?_
  · refine State.reports_of_keeps t _ (fun e has => ?_) (by simp) f time cause reported
    exact State.issueStatus_keeps _ _ e has
  · simpa using sent

theorem State.reports_answered {f : EventFields} {time : Time} {cause : Option Nat} {flags : Nat}
    {result : CommandResult} {sequence : BitVec 16} (h : t.reports f time cause = true) :
    (t.commandAnswer sequence code flags result).reports f time cause = true := by
  refine State.reports_of_keeps t _ (fun e has => ?_) (by simp) f time cause h
  exact State.issueStatus_keeps _ _ e has

theorem FailedCheck.answered {time : Time} {cause : Option Nat} {flags : Nat} {result : CommandResult}
    {sequence : BitVec 16} (h : FailedCheck s t index c time cause) :
    FailedCheck s (t.commandAnswer sequence code flags result) index c time cause :=
  ⟨h.released.answered, by simpa using h.quarantined, by simpa using h.errors, State.reportsSince_answered h.reported⟩

theorem ForwardsHeld.answered {out : List Request} {flags : Nat} {result : CommandResult} {sequence : BitVec 16}
    (h : ForwardsHeld s t out) : ForwardsHeld s (t.commandAnswer sequence code flags result) out := by
  obtain ⟨held, waiting, stalled, toInitiator, nextSerial, inFlight, toMemory, alone⟩ := h
  constructor <;> simpa

theorem SettlesHeld.answered {out : List Request} {flags : Nat} {result : CommandResult} {sequence : BitVec 16}
    (h : SettlesHeld s t index out) : SettlesHeld s (t.commandAnswer sequence code flags result) index out := by
  unfold SettlesHeld at h ⊢
  split at h
  next other => rw [if_pos other]; simpa using h
  next own => rw [if_neg own]; exact h.answered

/-- A station in flight elsewhere, or no write held: nothing waits for one not in flight. -/
theorem State.heldFor_settled (h : s.heldFor index key = true) (idle : s.flight = none) : s.forwarder.held = [] := by
  rcases s.heldFor_cases index key h with held | ⟨f, flight, -⟩ | ⟨⟨f, flight, -⟩, -⟩
  · exact held
  · rw [idle] at flight
    cases flight
  · rw [idle] at flight
    cases flight

theorem State.withCopied_context (s : State) (o : Origin) (r : Request) (index : Nat) :
    (s.withCopied o r).context? index = s.context? index := State.context?_congr (by simp)

theorem State.withCopied_heldFor (s : State) (o : Origin) (r : Request) (index : Nat) (key : Key) :
    (s.withCopied o r).heldFor index key = s.heldFor index key :=
  State.heldFor_congr (by simp) (by simp) (by simp) (by simp)

/-- A station whose record fails its check is found no more, once it is released (R27). -/
theorem State.findStation_damaged {n : StationName} {channel : Nat}
    (claims : claimant s.settings.active n.number = some channel)
    (entry : Table.get? s.table.directory { channel := channel, tag := n.tag : Key }.number = some index)
    (hc : s.context? index = some c) (damaged : c.intact = false) :
    s.findStation n = (s.failIntegrity index s.time.counter, none) := by
  simp [State.findStation, claims, State.lookup, entry, hc, damaged, State.failIntegrity]

/-- Settles O36: the record found is released, or the one that fails its check. -/
theorem stationDropReleases : Obligations.StationDropReleases := by
  constructor
  · intro s o r channel index c between offered sole has part calm held room u inRange claims known
    obtain ⟨-, now, -⟩ := s.between_iff.mp between
    have heldU := (s.withCopied_heldFor o r index c.key).trans held
    obtain ⟨-, hc, -⟩ := State.known_iff.mp known
    have found : u.findStation u.firstNamed = (u, some index) :=
      State.findStation_known (by simpa [u] using claims) ((State.known_congr (by simp [u])).trans known)
        (State.heldFor_settled heldU)
    have answers : u.answerCommand 3 (Words.read u.settings.staging Config.firstArgument)
        (Words.read u.settings.staging Config.secondArgument) =
          (u.releaseStation index .dropped u.time.counter 0, .done) := by
      rw [(State.answerCommand_running (by simpa [u] using part) _ _).2.1]
      show u.stationDrop u.firstNamed = _
      simp [State.stationDrop, inRange, found]
    have takes := State.takeCommand_answers has (by decide) (by decide) (by decide) (by simpa [u] using calm) answers
    obtain ⟨released, reported, settles, errors, quarantined, -, now', part', settings, intake, pins, -⟩ :=
      u.releaseStation_does index c .dropped u.time.counter 0 ((s.withCopied_context o r index).trans hc)
        ((State.eventRoom_congr (by simp [u])).trans room) (by decide) heldU
    have counter : u.time.counter = s.time.counter := by simp [u]
    have cause : u.now.cause = none := by simp [u, now]
    rw [State.heldFilled_congr (s := s) (by simp [u]) (by simp [u])] at settles
    generalize u.releaseStation index .dropped u.time.counter 0 = v at *
    rw [State.releasedFields_congr (s := s) (by simp [u]), cause, counter] at reported
    refine ⟨_, exec_command between offered sole has takes (by simp [now', u, now]),
      (released.since (by simp [u]) (by simp [u]) (by simp [u]) (by simp [u]) (by simp [u])).answered.ended,
      by rw [State.ended_reportsSince]; exact State.reportsSince_answered reported, by simp [State.commandAnswer_events, u],
      by rw [State.ended_lastIssued]; exact State.commandAnswer_lastIssued _ _ _ _ _, by simpa [u] using quarantined, by simpa [u] using errors,
      settles.answered.ended, by simpa [u] using part', by simpa using settings, by simpa [u] using intake, ?_,
      State.ended_attention _⟩
    simp [pins, u]
  · intro s o r code channel index c between offered sole has h3 h5 part calm held room u inRange second claims entry hc
      damaged
    obtain ⟨-, now, -⟩ := s.between_iff.mp between
    have heldU := (s.withCopied_heldFor o r index c.key).trans held
    have hcU := (s.withCopied_context o r index).trans hc
    have missing := State.findStation_damaged (s := u) (n := u.firstNamed) (by simpa [u] using claims)
      (by simpa [u] using entry) hcU damaged
    have takes := State.takeCommand_answers has (by omega) (by omega) (by omega) (by simpa [u] using calm)
      (State.answerCommand_missing (by simpa [u] using part) h3 h5 inRange second missing)
    obtain ⟨failed, settles, -, now', part', settings, intake, pins, -⟩ :=
      u.failIntegrity_does index c u.time.counter hcU ((State.damageRoom_congr (by simp [u]) (by simp [u])).trans room) heldU
    have counter : u.time.counter = s.time.counter := by simp [u]
    have cause : u.now.cause = none := by simp [u, now]
    rw [State.heldFilled_congr (s := s) (by simp [u]) (by simp [u])] at settles
    generalize u.failIntegrity index u.time.counter = v at *
    rw [cause, counter] at failed
    refine ⟨_, exec_command between offered sole has takes (by simp [now', u, now]), failed.answered.ended,
      settles.answered.ended, by simp [State.commandAnswer_events, u],
      by rw [State.ended_lastIssued]; exact State.commandAnswer_lastIssued _ _ _ _ _, by simpa [u] using part', by simpa using settings,
      by simpa [u] using intake, ?_, State.ended_attention _⟩
    simp [pins, u]

end Sys2Proof.Machine
end

section
/-!
Writes held for a station that stays, and a station restarted.
-/

namespace Sys2Proof.Machine

set_option Elab.async false

variable {s t u v : State} {r : Request} {o : Origin} {index code : Nat} {key : Key} {c d : Context}

/-! ### Writes held for a station that is still there (R103, R143) -/

/-- What a state may change of another before the writes held for its station are settled. -/
structure KeepsHeld (s v : State) : Prop where
  forwarder : v.forwarder = s.forwarder
  outstanding : v.own.outstanding = s.own.outstanding
  straps : v.pins.straps = s.pins.straps
  active : v.settings.active = s.settings.active
  directory : v.table.directory = s.table.directory
  slots : Table.wf s.slotMap = true →
    ∀ slot owner, Table.get? v.slotMap slot = some owner → Table.get? s.slotMap slot = some owner

/-- What the settling of them leaves as it was. -/
structure SettleKeeps (v t : State) : Prop where
  directory : t.table.directory = v.table.directory
  quarantined : t.table.quarantined = v.table.quarantined
  ageing : t.table.ageing = v.table.ageing
  pins : t.pins = v.pins
  part : t.part = v.part
  settings : t.settings = v.settings
  intake : t.intake = v.intake
  flight : t.flight = v.flight
  time : t.time = v.time
  now : t.now = v.now
  errors : t.events.errors = v.events.errors

theorem SettleKeeps.refl (v : State) : SettleKeeps v v :=
  ⟨rfl, rfl, rfl, rfl, rfl, rfl, rfl, rfl, rfl, rfl, rfl⟩

theorem ForwardsHeld.since {out : List Request} (h : ForwardsHeld v t out) (forwarder : v.forwarder = s.forwarder)
    (outstanding : v.own.outstanding = s.own.outstanding) (straps : v.pins.straps = s.pins.straps) :
    ForwardsHeld s t out := by
  obtain ⟨held, waiting, stalled, toInitiator, nextSerial, inFlight, toMemory, alone⟩ := h
  constructor <;> simp_all

/-- With its correction in flight no more, the station's held writes are filled in turn, each against the correction the one
before it left. -/
theorem State.settleHeld_kept (held : s.heldFor index key = true) (own : ∀ f, s.flight = some f → f.index = index)
    (keeps : KeepsHeld s v) (idle : v.flight = none) (hc : v.context? index = some d) (intact : d.intact = true) :
    let filled := fillsInTurn d.station (mainPosition s.settings.active key.channel) s.forwarder.held d.correction
    let t := v.settleHeld
    ForwardsHeld s t filled.1 ∧ t.context? index = some { d with correction := filled.2 } ∧
      (∀ m, m ≠ index → t.context? m = v.context? m) ∧ t.slotMap = v.slotsFilled index d.correction ∧ SettleKeeps v t ∧
      ∀ e, OnItsWay s v e → OnItsWay s t e := by
  intro filled t
  have release : t = v.releaseHeld := by simp [t, State.settleHeld, idle]
  have nothing (none1 : s.forwarder.held = []) : t = v := v.settleHeld_empty fun _ => keeps.forwarder ▸ none1
  have ofNone (none1 : s.forwarder.held = []) : ForwardsHeld s t filled.1 ∧
      t.context? index = some { d with correction := filled.2 } ∧ (∀ m, m ≠ index → t.context? m = v.context? m) ∧
      t.slotMap = v.slotsFilled index d.correction ∧ SettleKeeps v t ∧ ∀ e, OnItsWay s v e → OnItsWay s t e := by
    have heldV : v.forwarder.held = [] := keeps.forwarder ▸ none1
    have stays : filled = ([], d.correction) := by simp [filled, none1, fillsInTurn]
    rw [nothing none1, stays]
    refine ⟨?_, hc, fun _ _ => rfl, ?_, SettleKeeps.refl v, fun _ h => h⟩
    · exact (((Forwards.none v _).congr rfl rfl rfl rfl rfl rfl).held heldV).since keeps.forwarder keeps.outstanding
        keeps.straps
    · unfold State.slotsFilled
      rw [heldV]
      cases d.correction <;> rfl
  rcases s.heldFor_cases index key held with none1 | ⟨f, flight, other⟩ | ⟨-, -, slotsWf, entry, each⟩
  · exact ofNone none1
  · exact absurd (own f flight) other
  · have known := v.releaseHeld_known key index d (by rw [keeps.directory, entry]) hc intact (by
      intro h mem
      obtain ⟨sameKey, slot, hs, owner⟩ := each h (keeps.forwarder ▸ mem)
      exact ⟨sameKey, slot, hs, fun o ho => owner o (keeps.slots slotsWf slot o ho)⟩)
    have sameHeld : v.forwarder.held = s.forwarder.held := by rw [keeps.forwarder]
    rw [sameHeld, keeps.active] at known
    obtain ⟨fills, context, others, directory, quarantined, ageing, slotMap⟩ := known
    obtain ⟨forwards, -, pins, part, settings, intake, flight, time, now, errors, -, -, onItsWay, -⟩ := fills.emptied
    rw [release]
    exact ⟨forwards.since keeps.forwarder keeps.outstanding keeps.straps, context, others, slotMap,
      ⟨directory, quarantined, ageing, pins, part, settings, intake, flight, time, now, errors⟩,
      fun e h => onItsWay s e (by rw [keeps.forwarder]) h⟩

/-! ### Restart (R17, R22) -/

/-- A correction in flight for a context is abandoned, and the context is busy no more (R48). -/
theorem State.abandonFor_self (hc : s.context? index = some c) (intact : c.intact = true) :
    (s.abandonFor index).context? index =
      some { c with busy := c.busy && !(s.flight.any fun f => f.index == index) } := by
  unfold State.abandonFor
  cases flight : s.flight with
  | none => simpa using hc
  | some f =>
    dsimp only
    by_cases own : f.index = index
    · rw [if_pos own]
      subst own
      rw [State.endFlight_context flight hc]
      simp [intact]
    · rw [if_neg own]
      have elsewhere : (f.index == index) = false := by simpa using own
      simpa [elsewhere] using hc

/-- The deadlines of a context, of either kind, are all there are of it (R123). -/
theorem deadlines_either (l : List Deadline) (index : Nat) (stage : Stage) :
    (l.filter fun d => !d.isFor index .confirm).filter (fun d => !d.isFor index (.silence stage)) =
      l.filter fun d => d.index != index := by
  rw [List.filter_filter]
  congr 1
  funext d
  cases h : d.kind <;> by_cases own : d.index = index <;> simp [Deadline.isFor, DeadlineKind.sameAs, h, own, bne]

/-- What a restart does, with room for its event. -/
theorem State.restart_does (s : State) (a : Table Word) (time : Time) (reason : Nat) (hc : s.context? index = some c)
    (intact : c.intact = true) (room : s.eventRoom 1 = true) :
    let t := s.restart index a time reason
    t.context? index = some
        { c with
          station := .contact
          correction := .none
          committed := initialCommitted (mainPosition a c.key.channel)
          attempts := 0
          age := 0
          lastHeard := time
          origin := .contact } ∧
      (∀ m, m ≠ index → t.context? m = s.context? m) ∧ t.slotMap = s.slotMap.filter (fun p => p.2 != index) ∧
      t.time =
        { s.time with
          deadlines :=
            (s.time.deadlines.filter fun d => d.index != index) ++
              [{ index := index, kind := .silence .contact, expiry := later time (contactSilence a c.key.channel) }] } ∧
      t.reports { s.stationFields 3 c.key index with reason := reason } time s.now.cause = true ∧
      t.events.errors = s.events.errors ∧ t.now = s.now ∧ t.table.directory = s.table.directory ∧
      t.table.quarantined = s.table.quarantined ∧ t.table.ageing = s.table.ageing := by
  have place : s.events.holding.length < Config.holdingPlaces := by
    simpa [State.eventRoom] using room
  unfold State.restart
  rw [hc]
  dsimp only
  generalize hw : State.arm _ index (.silence .contact) _ = w
  have context : w.context? index = some
        { c with
          station := .contact
          correction := .none
          committed := initialCommitted (mainPosition a c.key.channel)
          attempts := 0
          age := 0
          lastHeard := time
          origin := .contact } := by
    rw [← hw]
    simp [intact, State.context?, State.arm, State.removeDeadline, State.writeContext]
  have frame : w.events = s.events ∧ w.now = s.now ∧ w.settings = s.settings := by simp [← hw]
  obtain ⟨events, now, settings⟩ := frame
  have fields : w.stationFields 3 c.key index = s.stationFields 3 c.key index := by simp [State.stationFields, settings]
  rw [fields]
  have calm := w.handOn_calm { s.stationFields 3 c.key index with reason := reason } time (by rw [events]; exact place)
  have said := w.handOn_reports { s.stationFields 3 c.key index with reason := reason } time (by rw [events]; exact place)
  refine ⟨?_, fun m other => ?_, ?_, ?_, by rw [← now]; exact said, calm.2.1.trans (by rw [events]), calm.1.trans now, ?_, ?_, ?_⟩
  · exact (State.context?_congr (by simp)).trans context
  · refine (State.context?_congr (s := w) (by simp)).trans ?_
    simp [← hw, State.context?, State.arm, State.removeDeadline, State.writeContext, Table.get?_set, other,
      State.clearSlotsOf]
  · simp [← hw, State.clearSlotsOf]
  · simp only [State.handOn_frame, ← hw, State.arm, State.removeDeadline, State.writeContext, State.clearSlotsOf]
    rw [deadlines_either]
  · simp [← hw]
  · simp [← hw]
  · simp [← hw]

/-! ### STATION_RESTART (R22) -/

/-- Held writes find NOTHING_READY where no correction is, and leave none. -/
theorem fillsInTurn_nothing {station : StationState} (other : station ≠ .tracking ∧ station ≠ .due) (main : Nat)
    (l : List HeldWrite) :
    fillsInTurn station main l .none = (l.map fun h => (emptyFill (some .cont) 2).request main h.request, .none) := by
  induction l with
  | nil => rfl
  | cons h l ih => simp [fillsInTurn, fillOnce, other, ih]

/-- The writes held for a station in CONTACT that holds no correction, or for another. -/
theorem State.settleHeld_contact (held : s.heldFor index key = true) (keeps : KeepsHeld s v)
    (flight : v.flight = s.flight.filter fun f => f.index != index) (hc : v.context? index = some d)
    (intact : d.intact = true) (nothing : d.correction = .none) (contact : d.station = .contact) :
    let t := v.settleHeld
    SettlesHeld s t index (s.heldFilled key (emptyFill (some .cont) 2)) ∧ (∀ m, t.context? m = v.context? m) ∧
      t.slotMap = v.slotMap ∧ SettleKeeps v t ∧ ∀ e, OnItsWay s v e → OnItsWay s t e := by
  by_cases elsewhere : (s.flight.any fun f => f.index != index) = true
  · have stays : v.settleHeld = v := v.settleHeld_empty fun idle => by
      rw [flight] at idle
      obtain ⟨f, hf, other⟩ := (Option.any_eq_true _ _).mp elsewhere
      simp [hf, Option.filter, other] at idle
    dsimp only
    rw [stays]
    refine ⟨?_, fun _ => rfl, rfl, SettleKeeps.refl v, fun _ h => h⟩
    unfold SettlesHeld
    rw [if_pos elsewhere, keeps.forwarder]
  · have own : ∀ f, s.flight = some f → f.index = index := fun f hf => by
      simpa [hf] using elsewhere
    have idle : v.flight = none := by
      rw [flight]
      cases hf : s.flight with
      | none => rfl
      | some f => simp [Option.filter, own f hf]
    obtain ⟨forwards, context, others, slotMap, settles, onItsWay⟩ :=
      State.settleHeld_kept held own keeps idle hc intact
    rw [nothing, contact, fillsInTurn_nothing (by decide)] at forwards context
    refine ⟨?_, fun m => ?_, ?_, settles, onItsWay⟩
    · unfold SettlesHeld
      rw [if_neg elsewhere]
      exact forwards
    · by_cases same : m = index
      · dsimp only at context
        rw [same, context, hc, ← nothing, ← contact]
      · exact others m same
    · rw [slotMap, nothing]
      rfl

/-- Settles O37: the correction is abandoned, the station restarted, and the writes held for it filled. -/
theorem stationRestartRestarts : Obligations.StationRestartRestarts := by
  intro s o r channel index c between offered sole has part calm held room u a inRange claims known
  obtain ⟨-, now, -⟩ := s.between_iff.mp between
  have heldU : u.heldFor index c.key = true := (s.withCopied_heldFor o r index c.key).trans held
  obtain ⟨-, hc, intact⟩ := State.known_iff.mp known
  have hcU : u.context? index = some c := (s.withCopied_context o r index).trans hc
  have found : u.findStation u.firstNamed = (u, some index) :=
    State.findStation_known (by simpa [u] using claims) ((State.known_congr (by simp [u])).trans known)
      (State.heldFor_settled heldU)
  obtain ⟨w, hw⟩ : ∃ w, u.abandonFor index = w := ⟨_, rfl⟩
  have busy := State.abandonFor_self hcU intact
  have others := u.abandonFor_get index
  have flight := u.abandonFor_flight index
  have answers : u.answerCommand 4 (Words.read u.settings.staging Config.firstArgument)
      (Words.read u.settings.staging Config.secondArgument) =
        ((w.restart index u.settings.active u.time.counter 2).settleHeld, .done) := by
    rw [(State.answerCommand_running (by simpa [u] using part) _ _).2.2.1]
    show u.stationRestart u.firstNamed = _
    simp [State.stationRestart, inRange, found, hw]
  have takes := State.takeCommand_answers has (by decide) (by decide) (by decide) (by simpa [u] using calm) answers
  have frame : w.pins = s.pins ∧ w.part = s.part ∧ w.forwarder = u.forwarder ∧ w.settings = u.settings ∧
      w.intake = s.intake ∧ w.time = s.time ∧ w.events = s.events ∧ w.own = s.own ∧ w.slotMap = s.slotMap ∧
      w.now = s.now ∧ w.table.directory = s.table.directory ∧ w.table.quarantined = s.table.quarantined := by
    simp [← hw, u]
  obtain ⟨pins, samePart, forwarder, settings, intake, time, events, own, slotMap, nowW, directory, quarantined⟩ := frame
  rw [hw] at busy others flight
  obtain ⟨context, rest, slots, deadlines, reported, errors, nowV, directoryV, quarantinedV, -⟩ :=
    w.restart_does u.settings.active u.time.counter 2 busy intact ((State.eventRoom_congr events).trans room)
  obtain ⟨v, hv⟩ : ∃ v, w.restart index u.settings.active u.time.counter 2 = v := ⟨_, rfl⟩
  have frameV : v.pins = w.pins ∧ v.part = w.part ∧ v.forwarder = w.forwarder ∧ v.settings = w.settings ∧
      v.intake = w.intake ∧ v.flight = w.flight ∧ v.own.outstanding = w.own.outstanding := by simp [← hv]
  obtain ⟨pinsV, partV, forwarderV, settingsV, intakeV, flightV, outstandingV⟩ := frameV
  rw [hv] at context rest slots deadlines reported errors nowV directoryV quarantinedV takes
  have keeps : KeepsHeld u v := by
    refine ⟨forwarderV.trans forwarder, outstandingV.trans (by simp [own, u]), by rw [pinsV, pins]; simp [u],
      by rw [settingsV, settings], by rw [directoryV, directory]; simp [u], fun wf slot owner h => ?_⟩
    rw [slots, slotMap, Table.get?_filter _ _ _ (by simpa [u] using wf)] at h
    obtain ⟨h1, -⟩ := Option.filter_eq_some_iff.mp h
    simpa [u] using h1
  obtain ⟨settles, contexts, slotsT, kept, onItsWay⟩ :=
    State.settleHeld_contact heldU keeps (flightV.trans flight) context intact rfl rfl
  rw [State.heldFilled_congr (s := s) (by simp [u]) (by simp [u])] at settles
  have said := State.reportsSince_of reported onItsWay (by rw [kept.settings])
  generalize v.settleHeld = x at *
  have counter : u.time.counter = s.time.counter := by simp [u]
  have activeU : u.settings.active = a := by simp [u, a]
  have contextX (m : Nat) {sequence : BitVec 16} :
      (x.commandAnswer sequence 4 0 .done).ended.context? m = v.context? m :=
    (State.context?_congr (s := x) (by simp)).trans (contexts m)
  have contextW (m : Nat) (other : m ≠ index) : w.context? m = s.context? m :=
    (others m other).trans (s.withCopied_context o r m)
  have flightU : u.flight = s.flight := by simp [u]
  have fields : w.stationFields 3 c.key index = s.stationFields 3 c.key index := by
    simp [State.stationFields, settings, u]
  rw [counter, nowW, now] at said
  dsimp only at said
  rw [fields] at said
  refine ⟨_, exec_command between offered sole has takes ?_, ?_, fun m other => ?_, ?_, ?_, ?_, ?_, ?_, ?_, ?_,
    ?_, ?_, settles.answered.ended, ?_, ?_, ?_, ?_, State.ended_attention _⟩
  · simp [kept.now, nowV, nowW, now]
  · rw [contextX, context, activeU, counter, flightU]
  · rw [contextX, rest m other, contextW m other]
  · simp [kept.directory, directoryV, directory]
  · simp [kept.quarantined, quarantinedV, quarantined]
  · simp [slotsT, slots, slotMap]
  · simp [kept.time, deadlines, time, counter, activeU]
  · simp [kept.flight, flightV, flight, flightU]
  · rw [State.ended_reportsSince]
    exact State.reportsSince_answered said
  · simp [State.commandAnswer_events, u]
  · rw [State.ended_lastIssued]
    exact State.commandAnswer_lastIssued _ _ _ _ _
  · simp [kept.errors, errors, events]
  · simp [kept.part, partV, samePart]
  · simp [kept.settings, settingsV, settings]
  · simp [kept.intake, intakeV, intake]
  · simp [kept.pins, pinsV, pins]

end Sys2Proof.Machine
end

section
/-!
A station comes in, and one is moved.
-/

namespace Sys2Proof.Machine

set_option Elab.async false

variable {s t u v w : State} {r : Request} {o : Origin} {index code : Nat} {key : Key} {c d : Context}

/-! ### The index a station takes (R12, R28) -/

theorem State.lowestFree_iff (s : State) (index : Nat) : s.lowestFree = some index ↔
    index < Config.contextCount ∧ s.context? index = none ∧ index ∉ s.table.quarantined ∧
      ∀ m, m < index → s.context? m ≠ none ∨ m ∈ s.table.quarantined := by
  unfold State.lowestFree
  rw [List.find?_range_eq_some]
  have free (m : Nat) : ((s.context? m).isNone && !s.table.quarantined.contains m) = true ↔
      s.context? m = none ∧ m ∉ s.table.quarantined := by simp
  have taken (m : Nat) : (!((s.context? m).isNone && !s.table.quarantined.contains m)) = true ↔
      s.context? m ≠ none ∨ m ∈ s.table.quarantined := by
    rw [Bool.not_eq_true', Bool.eq_false_iff, ne_eq, free, not_and_or, not_not]
  simp only [free, taken, List.mem_range]
  exact ⟨fun ⟨⟨vacant, healthy⟩, bound, lowest⟩ => ⟨bound, vacant, healthy, lowest⟩,
    fun ⟨bound, vacant, healthy, lowest⟩ => ⟨⟨vacant, healthy⟩, bound, lowest⟩⟩

/-- Where one is free, one is found. -/
theorem State.lowestFree_found {m : Nat} (bound : m < Config.contextCount) (vacant : s.context? m = none)
    (healthy : m ∉ s.table.quarantined) : ∃ index, s.lowestFree = some index := by
  cases h : s.lowestFree with
  | some index => exact ⟨index, rfl⟩
  | none =>
    have taken := List.find?_eq_none.mp h m (List.mem_range.mpr bound)
    simp [vacant, healthy] at taken

/-- What a station's coming in does. -/
theorem State.occupy_does (s : State) (index : Nat) (key : Key) (station : StationState) (origin : Birth)
    (committed : Committed) (time : Time) (stage : Stage) (interval : Nat) :
    let t := s.occupy index key station origin committed time stage interval
    t.context? index = some
        { key := key, station := station, correction := .none, busy := false, committed := committed, attempts := 0
          age := 0, lastHeard := time, metrics := none, origin := origin, intact := true } ∧
      (∀ m, m ≠ index → t.context? m = s.context? m) ∧
      t.table.directory = Table.set s.table.directory key.number index ∧
      t.time = { s.time with deadlines := rearmed s.time.deadlines index (.silence stage) (later time interval) } ∧
      t.events = s.events ∧ t.now = s.now ∧ t.table.quarantined = s.table.quarantined ∧
      t.table.ageing = s.table.ageing ∧ ∀ e, s.hasEvent e = true → t.hasEvent e = true := by
  intro t
  obtain ⟨x, hx⟩ : ∃ x : State, x =
      ({ s with table := { s.table with directory := Table.set s.table.directory key.number index } }.writeContext index
        { key := key, station := station, correction := .none, busy := false, committed := committed, attempts := 0
          age := 0, lastHeard := time, metrics := none, origin := origin, intact := true }).arm index (.silence stage)
            (later time interval) := ⟨_, rfl⟩
  have issued : t = x.issueCounts key.channel true := by rw [hx]; rfl
  refine ⟨?_, fun m other => ?_, ?_, ?_, ?_, ?_, ?_, ?_, fun e has => ?_⟩
  · refine (State.context?_congr (s := x) (by simp [issued])).trans ?_
    simp [hx, State.context?, State.arm, State.removeDeadline, State.writeContext]
  · refine (State.context?_congr (s := x) (by simp [issued])).trans ?_
    simp [hx, State.context?, State.arm, State.removeDeadline, State.writeContext, Table.get?_set, other]
  · simp [issued, hx]
  · simp [issued, hx, State.arm, State.removeDeadline, State.writeContext, rearmed]
  · simp [issued, hx]
  · simp [issued, hx]
  · simp [issued, hx]
  · simp [issued, hx]
  · rw [issued]
    simp only [State.issueCounts]
    refine State.issueStatus_keeps _ _ e ?_
    refine State.issueStatus_keeps _ _ e ?_
    rw [hx]
    exact has

/-- What keeps every event on its way, and takes nothing from memory, keeps its report since then. -/
theorem State.reportsSince_keeps {f : EventFields} {time : Time} {cause : Option Nat}
    (h : v.reportsSince u f time cause = true) (keeps : ∀ e, v.hasEvent e = true → w.hasEvent e = true)
    (active : w.settings.active = v.settings.active) (memory : w.forwarder.toMemory = v.forwarder.toMemory)
    (straps : w.pins.straps = v.pins.straps) : w.reportsSince u f time cause = true := by
  unfold State.reportsSince at h ⊢
  simp only [Bool.or_eq_true] at h ⊢
  refine h.imp (State.reports_of_keeps v w keeps active f time cause) fun sent => ?_
  rw [memory, straps]
  exact sent

/-- A station comes in, and its event is handed on. -/
theorem State.enters_does (s : State) (index : Nat) (key : Key) (station : StationState) (origin : Birth)
    (committed : Committed) (time : Time) (stage : Stage) (interval : Nat) (f : EventFields)
    (room : s.events.holding.length < Config.holdingPlaces) :
    let t := (s.occupy index key station origin committed time stage interval).handOn f time
    t.context? index = some
        { key := key, station := station, correction := .none, busy := false, committed := committed, attempts := 0
          age := 0, lastHeard := time, metrics := none, origin := origin, intact := true } ∧
      (∀ m, m ≠ index → t.context? m = s.context? m) ∧
      t.table.directory = Table.set s.table.directory key.number index ∧
      t.time = { s.time with deadlines := rearmed s.time.deadlines index (.silence stage) (later time interval) } ∧
      t.events.errors = s.events.errors ∧ t.table.quarantined = s.table.quarantined ∧
      t.reports f time s.now.cause = true ∧ (∀ e, s.hasEvent e = true → t.hasEvent e = true) ∧
      t.flight = s.flight ∧ t.slotMap = s.slotMap ∧ ReleaseKeeps s t := by
  have entered := s.occupy_does index key station origin committed time stage interval
  have frame : ∀ w, s.occupy index key station origin committed time stage interval = w →
      w.flight = s.flight ∧ w.slotMap = s.slotMap ∧ w.forwarder = s.forwarder ∧ w.own.outstanding = s.own.outstanding ∧
        w.part = s.part ∧ w.settings = s.settings ∧ w.intake = s.intake ∧ w.pins = s.pins := by
    rintro w rfl
    simp
  generalize hw : s.occupy index key station origin committed time stage interval = w at *
  obtain ⟨flight, slotMap, forwarder, outstanding, part, settings, intake, pins⟩ := frame w rfl
  obtain ⟨context, others, directory, timeW, events, now, quarantined, ageing, keeps⟩ := entered
  have place : w.events.holding.length < Config.holdingPlaces := by rw [events]; exact room
  obtain ⟨nowX, errors, -⟩ := w.handOn_calm f time place
  have said := w.handOn_reports f time place
  rw [now] at said
  have same (m : Nat) : (w.handOn f time).context? m = w.context? m := State.context?_congr (by simp)
  refine ⟨(same index).trans context, fun m other => (same m).trans (others m other), ?_, ?_, ?_, ?_, said,
    fun e has => w.handOn_keeps f time e (keeps e has), ?_, ?_, ?_⟩
  · simpa using directory
  · simpa using timeW
  · rw [errors, events]
  · simpa using quarantined
  · simpa using flight
  · simpa using slotMap
  · exact ⟨nowX.trans now, by simpa using forwarder, by simpa using outstanding, by simpa using part,
      by simpa using settings, by simpa using intake, by simpa using pins, by simp [timeW], by simpa using ageing⟩

/-- The event of a station moved (R23). -/
def State.movedFields (s : State) (key : Key) (index source : Nat) (c : Context) : EventFields :=
  { s.stationFields 1 key index with
    origin := 2
    w4 := packed [(c.key.tag, 16), (claimedNumber s.settings.active c.key.channel, 12), (1, 7), (c.key.channel, 4)]
    w5 := BitVec.ofNat 32 source }

/-- A move, once its source has been released. -/
theorem State.moveStation_eq {source : Nat} (free : (s.releaseStation source .moved s.time.counter 0).lowestFree = some index) :
    s.moveStation source c key =
      ((s.releaseStation source .moved s.time.counter 0).occupy index key .contact .moved
        (c.committed.moved s.settings.active key.channel) s.time.counter .contact
          (contactSilence s.settings.active key.channel)).handOn (s.movedFields key index source c) s.time.counter := by
  have origin : keyWord c.key.tag (claimedNumber s.settings.active c.key.channel) 0 (some c.key.channel) =
      packed [(c.key.tag, 16), (claimedNumber s.settings.active c.key.channel, 12), (1, 7), (c.key.channel, 4)] := by
    simp [keyWord, packed, flagField]
  unfold State.moveStation
  dsimp only
  rw [free, origin]
  dsimp only
  generalize hw : State.occupy _ index key _ _ _ _ _ _ = w
  have settings : w.settings = s.settings := by simp [← hw]
  have fields : w.stationFields 1 key index = s.stationFields 1 key index := by simp [State.stationFields, settings]
  rw [fields]
  rfl

/-- Settles O38: a move of a known source to a key that is not known (R23). -/
theorem stationMoveCarriesStation : Obligations.StationMoveCarriesStation := by
  intro s o r channel target source c between offered sole has part calm held room u a key ceiling timing inRange inRange2
    claims claims2 known unknown quota bound healthy
  obtain ⟨-, now, -⟩ := s.between_iff.mp between
  have heldU : u.heldFor source c.key = true := (s.withCopied_heldFor o r source c.key).trans held
  obtain ⟨-, hc, intact⟩ := State.known_iff.mp known
  have hcU : u.context? source = some c := (s.withCopied_context o r source).trans hc
  have settled := State.heldFor_settled heldU
  have found : u.findStation u.firstNamed = (u, some source) :=
    State.findStation_known (by simpa [u] using claims) ((State.known_congr (by simp [u])).trans known) settled
  have missing : u.findStation u.secondNamed = (u, none) := by
    refine State.findStation_missing (fun x hx => ?_) settled
    obtain rfl : target = x := by
      rw [show u.settings.active = a by simp [u, a], claims2] at hx
      exact Option.some.inj hx
    exact (State.unknown_congr (by simp [u])).trans unknown
  have answers : u.answerCommand 5 (Words.read u.settings.staging Config.firstArgument)
      (Words.read u.settings.staging Config.secondArgument) = (u.moveStation source c key, .done) := by
    rw [(State.answerCommand_running (by simpa [u] using part) _ _).2.2.2]
    show u.stationMove u.firstNamed u.secondNamed = _
    rw [(State.stationMove_tests inRange inRange2 found).2.2 target c missing (by simpa [u] using claims2) hcU, if_pos]
    simpa [u, State.occupiedCount] using quota
  have takes := State.takeCommand_answers has (by decide) (by decide) (by decide) (by simpa [u] using calm) answers
  have events : u.events = s.events := by simp [u]
  have room2 : s.events.holding.length + 2 ≤ Config.holdingPlaces := by simpa [State.eventRoom] using room
  have room1 : u.eventRoom 1 = true := by
    simp only [State.eventRoom, events, decide_eq_true_eq]
    omega
  have rest : (u.releaseStation source .moved u.time.counter 0).time.syncEdge = u.time.syncEdge ∧
      (u.releaseStation source .moved u.time.counter 0).time.ageingTimer = u.time.ageingTimer := by simp
  have moves := fun index free => State.moveStation_eq (s := u) (source := source) (index := index) (c := c) (key := key) free
  obtain ⟨released, reported, settles, errors, quarantined, ageing, nowV, partV, settings, intake, pins, counter, holding⟩ :=
    u.releaseStation_does source c .moved u.time.counter 0 hcU room1 (by decide) heldU
  generalize u.releaseStation source .moved u.time.counter 0 = v at *
  obtain ⟨index, free⟩ := State.lowestFree_found (s := v) bound released.gone (by rw [quarantined]; simpa [u] using healthy)
  have activeU : u.settings.active = a := by simp [u, a]
  rw [moves index free, activeU] at takes
  have entered := v.enters_does index key .contact .moved (c.committed.moved a target) u.time.counter .contact
    (contactSilence a target) (u.movedFields key index source c) (by rw [events] at holding; omega)
  generalize (v.occupy index key .contact .moved (c.committed.moved a target) u.time.counter .contact
    (contactSilence a target)).handOn (u.movedFields key index source c) u.time.counter = x at *
  obtain ⟨context, others, directory, time, errorsX, quarantinedX, said, keeps, flight, slotMap, kept⟩ := entered
  obtain ⟨indexBound, vacant, indexHealthy, lowest⟩ := (v.lowestFree_iff index).mp free
  have contextX (m : Nat) {sequence : BitVec 16} :
      (x.commandAnswer sequence 5 0 .done).ended.context? m = x.context? m :=
    State.context?_congr (s := x) (by simp)
  have contextV (m : Nat) (other : m ≠ source) : v.context? m = s.context? m :=
    (released.others m other).trans (s.withCopied_context o r m)
  have quarantinedV : v.table.quarantined = s.table.quarantined := quarantined.trans (by simp [u])
  have sameU : u.time = s.time ∧ u.table = s.table ∧ u.slotMap = s.slotMap ∧ u.flight = s.flight ∧ u.part = s.part ∧
      u.intake = s.intake ∧ u.pins = s.pins ∧ u.now = s.now := by simp [u]
  obtain ⟨timeU, tableU, slotMapU, flightU, partU, intakeU, pinsU, nowU⟩ := sameU
  have timeX : x.time = { s.time with
      deadlines := rearmed (s.time.deadlines.filter fun d => d.index != source) index (.silence .contact)
        (later s.time.counter (contactSilence a target)) } := by
    obtain ⟨edge, timer⟩ := rest
    rw [time, released.deadlines, timeU]
    rw [timeU] at counter edge timer
    dsimp only
    rw [← counter, ← edge, ← timer]
  have moved : v.reportsSince u (s.releasedFields c source .moved 0) s.time.counter none = true := by
    rw [State.releasedFields_congr (s := s) activeU, timeU, nowU, now] at reported
    exact reported
  have came : x.reports (s.movedFields key index source c) s.time.counter none = true := by
    have fields : u.movedFields key index source c = s.movedFields key index source c := by
      simp [State.movedFields, State.stationFields, activeU, a]
    rw [fields, timeU, nowV, nowU, now] at said
    exact said
  rw [State.heldFilled_congr (s := s) (by simp [u]) activeU] at settles
  have settlesX : SettlesHeld u x source (s.heldFilled c.key (emptyFill none 3)) := by
    unfold SettlesHeld at settles ⊢
    split at settles
    next other => rw [if_pos other, kept.forwarder, settles]
    next own =>
      rw [if_neg own]
      obtain ⟨held, waiting, stalled, toInitiator, nextSerial, inFlight, toMemory, alone⟩ := settles
      constructor <;> simp_all [kept.forwarder, kept.outstanding]
  refine ⟨_, index, exec_command between offered sole has takes ?_, ?_, ?_, fun m below => ?_, ?_, fun other => ?_,
    fun m h1 h2 => ?_, ?_, ?_, ?_, ?_, ?_, ?_, ?_, ?_, ?_, ?_, ?_, ?_, ?_, ?_, ?_, State.ended_attention _⟩
  · simp [kept.now, nowV, nowU, now]
  · by_cases same : index = source
    · exact .inr same
    · exact .inl ((contextV index same).symm.trans vacant)
  · rwa [← quarantinedV]
  · rw [← quarantinedV]
    refine (lowest m below).imp (fun taken => ?_) id
    have other : m ≠ source := fun e => taken (e ▸ released.gone)
    exact ⟨other, fun e => taken ((contextV m other).trans e)⟩
  · rw [contextX, context, timeU]
    rfl
  · rw [contextX, others source other, released.gone]
  · rw [contextX, others m h2, contextV m h1]
  · simp [directory]
  · simp [quarantinedX, quarantinedV]
  · simp [slotMap, released.slotMap, slotMapU]
  · simpa using timeX
  · simp [flight, released.flight, flightU]
  · rw [State.ended_reportsSince]
    exact State.reportsSince_answered
      (State.reportsSince_keeps moved keeps (by rw [kept.settings]) (by rw [kept.forwarder]) (by rw [kept.pins]))
  · rw [State.ended_reports]
    exact State.reports_answered came
  · simp [State.commandAnswer_events, u]
  · rw [State.ended_lastIssued]
    exact State.commandAnswer_lastIssued _ _ _ _ _
  · simp [errorsX, errors, events]
  · exact settlesX.answered.ended
  · simp [kept.part, partV, partU]
  · simp [kept.settings, settings]
  · simp [kept.intake, intake, intakeU]
  · simp [kept.pins, pins, pinsU]

end Sys2Proof.Machine
end

section
/-!
Expiries and completions.
-/

namespace Sys2Proof.Machine

set_option Elab.async false

variable {s t u v w : State} {index : Nat} {key : Key} {c d : Context}

/-! ### A command that comes to a failed check (R27) -/

theorem exec_failIntegrity {i : Instr} {time : Time} (between : s.between = true)
    (does : effect i s = s.failIntegrity index time) (hc : s.context? index = some c)
    (held : s.heldFor index c.key = true) (room : s.damageRoom = true)
    (reset : ∀ straps, i ≠ .powerOnReset straps := by nofun) (low : i ≠ .rstnLow := by nofun) :
    ∃ t, exec i s = .next t ∧ FailedCheck s t index c time none ∧
      SettlesHeld s t index (s.heldFilled c.key (emptyFill none 3)) ∧ t.part = s.part ∧ t.settings = s.settings ∧
      t.intake = s.intake ∧ t.pins.straps = s.pins.straps ∧ t.pins.attention = t.attentionLevel := by
  obtain ⟨-, now, -⟩ := s.between_iff.mp between
  obtain ⟨failed, settles, -, now', part, settings, intake, pins, -⟩ := s.failIntegrity_does index c time hc room held
  rw [now] at failed
  exact ⟨_, exec_calm between does (by simp [now', now]) reset low, failed.ended, settles.ended, part, settings, intake,
    by simp, State.ended_attention _⟩

/-- Held writes of the station whose correction is in flight are settled when it ends. -/
theorem SettlesHeld.own {out : List Request} {f : Flight} (h : SettlesHeld s t f.index out) (flight : s.flight = some f) :
    ForwardsHeld s t out := by
  unfold SettlesHeld at h
  rwa [if_neg (by simp [flight])] at h

/-! ### SILENCE and CONFIRM expire (R114, R131, R132) -/

theorem effect_silenceExpiry {x : Deadline} {stage : Stage} (running : s.part = .running) (due : s.nextDue = some x)
    (kind : x.kind = .silence stage) :
    effect .silenceExpiry s = (s.removeDeadline x.index (.silence stage)).expireSilence x.index stage x.expiry := by
  have up : s.running = true := by simp [State.running, running]
  simp [effect, State.fireSilence, up, due, kind, State.takeDeadline]

theorem effect_confirmExpiry {x : Deadline} (running : s.part = .running) (due : s.nextDue = some x)
    (kind : x.kind = .confirm) :
    effect .confirmExpiry s = (s.removeDeadline x.index .confirm).expireConfirm x.index x.expiry := by
  have up : s.running = true := by simp [State.running, running]
  simp [effect, State.fireConfirm, up, due, kind, State.takeDeadline]

/-- An entry that has left the list is not read of a context. -/
theorem State.expireSilence_removed {stage : Stage} {expiry : Time} (hc : s.context? index = some c) :
    (s.removeDeadline index (.silence stage)).expireSilence index stage expiry =
      if c.intact = false then s.failIntegrity index expiry
      else if c.station = .tracking then
        ((s.writeContext index { c with station := .due }).arm index (.silence .lostWait)
          (later expiry (lostInterval s.settings.active c.key.channel))).handOn
            (({ s.stationFields 5 c.key index with
                stage := stage.code, w7 := later expiry (lostInterval s.settings.active c.key.channel) } :
              EventFields).withHistory c) expiry
      else s.releaseStation index .lost expiry stage.code := by
  have hc' : (s.removeDeadline index (.silence stage)).context? index = some c := hc
  have armed : ∀ (r : Context) (time : Time),
      ((s.removeDeadline index (.silence stage)).writeContext index r).arm index (.silence .lostWait) time =
        (s.writeContext index r).arm index (.silence .lostWait) time := fun r time =>
    State.arm_removeDeadline (s.writeContext index r) index time rfl
  unfold State.expireSilence
  rw [hc']
  dsimp only
  rw [s.failIntegrity_removeDeadline index _ _ hc, armed]
  cases c.intact with
  | false => rfl
  | true =>
    simp only [Bool.not_true, Bool.false_eq_true, if_false, reduceCtorEq]
    split
    · rfl
    · unfold State.releaseStation
      rw [s.release_removeDeadline index _ _ _ _ hc]

/-- Settles O52: by the record, and by the station's state. -/
theorem silenceExpiryActs : Obligations.SilenceExpiryActs := by
  intro s x stage c between running due kind hc held room lost
  obtain ⟨-, now, -⟩ := s.between_iff.mp between
  have does := (effect_silenceExpiry running due kind).trans (State.expireSilence_removed hc)
  refine ⟨fun intact => ?_, fun damaged damageRoom => ?_⟩
  · rw [if_neg (by simp [intact])] at does
    by_cases tracking : c.station = .tracking
    · rw [if_pos tracking] at does
      obtain ⟨f, hf⟩ : ∃ f : EventFields, f = ({ s.stationFields 5 c.key x.index with
        stage := stage.code, w7 := lost } : EventFields).withHistory c := ⟨_, rfl⟩
      obtain ⟨w, hw⟩ : ∃ w, (s.writeContext x.index { c with station := .due }).arm x.index (.silence .lostWait) lost = w :=
        ⟨_, rfl⟩
      have events : w.events = s.events := by simp [← hw]
      have place : w.events.holding.length < Config.holdingPlaces := by
        rw [events]
        simpa [State.eventRoom] using room
      have nowW : w.now = s.now := by simp [← hw]
      obtain ⟨nowV, errors, -⟩ := w.handOn_calm f x.expiry place
      have said := w.handOn_reports f x.expiry place
      rw [nowW, now] at said
      have context (m : Nat) : (w.handOn f x.expiry).ended.context? m = w.context? m :=
        State.context?_congr (s := w) (by simp)
      rw [← hf, hw] at does
      refine ⟨_, exec_calm between does (by simp [nowV, nowW, now]), fun _ => ⟨?_, ?_, fun m other => ?_, ?_, ?_, ?_, ?_, ?_⟩,
        fun no => absurd tracking no, ?_, ?_, ?_, ?_, ?_, ?_, State.ended_attention _⟩
      · simp [← hw]
      · rw [context, ← hw]
        simp [State.context?, State.arm, State.removeDeadline, State.writeContext, intact]
      · rw [context, ← hw]
        simp [State.context?, State.arm, State.removeDeadline, State.writeContext, Table.get?_set, other]
      · simp [← hw, State.arm, State.removeDeadline, State.writeContext, rearmed, lost]
      · simp [← hw]
      · simp [← hw]
      · simp [← hw]
      · rw [State.ended_reports, ← hf]
        exact said
      · simp [← hw]
      · simp [errors, events]
      · simp [← hw]
      · simp [← hw]
      · simp [← hw]
      · simp [← hw]
    · rw [if_neg tracking] at does
      obtain ⟨released, reported, settles, errors, quarantined, -, now', part, settings, intake, pins, -⟩ :=
        s.releaseStation_does x.index c .lost x.expiry stage.code hc room (by decide) held
      generalize s.releaseStation x.index .lost x.expiry stage.code = v at *
      rw [now] at reported
      exact ⟨_, exec_calm between does (by simp [now', now]), fun yes => absurd yes tracking,
        fun _ => ⟨released.ended, settles.ended, by rw [State.ended_reportsSince]; exact reported⟩, quarantined, errors, part,
        settings, intake, by simp [pins], State.ended_attention _⟩
  · rw [if_pos damaged] at does
    exact exec_failIntegrity between does hc held damageRoom

/-- Settles O53: the correction is withdrawn, or the record released. -/
theorem confirmExpiryWithdraws : Obligations.ConfirmExpiryWithdraws := by
  constructor
  · intro s x c issued delivered between running due kind hc intact sent room
    obtain ⟨-, now, -⟩ := s.between_iff.mp between
    obtain ⟨f, hf⟩ : ∃ f, (s.stationFields 9 c.key x.index).withIssued issued delivered = f := ⟨_, rfl⟩
    obtain ⟨w, hw⟩ : ∃ w, (s.removeDeadline x.index .confirm).writeContext x.index
      { c with correction := .none, attempts := min 255 (c.attempts + 1) } = w := ⟨_, rfl⟩
    have does : effect .confirmExpiry s = w.handOn f x.expiry := by
      have hc' : (s.removeDeadline x.index .confirm).context? x.index = some c := hc
      have fields : w.stationFields 9 c.key x.index = s.stationFields 9 c.key x.index := by
        simp [State.stationFields, ← hw]
      have withdrawn : (s.removeDeadline x.index .confirm).expireConfirm x.index x.expiry =
          (s.removeDeadline x.index .confirm).withdraw x.index c issued delivered x.expiry := by
        simp [State.expireConfirm, hc', intact, sent]
      rw [effect_confirmExpiry running due kind, withdrawn, State.withdraw]
      rw [hw, fields, hf]
    have events : w.events = s.events := by simp [← hw]
    have place : w.events.holding.length < Config.holdingPlaces := by
      rw [events]
      simpa [State.eventRoom] using room
    have nowW : w.now = s.now := by simp [← hw]
    obtain ⟨nowV, errors, -⟩ := w.handOn_calm f x.expiry place
    have said := w.handOn_reports f x.expiry place
    rw [nowW, now] at said
    have context (m : Nat) : (w.handOn f x.expiry).ended.context? m = w.context? m :=
      State.context?_congr (s := w) (by simp)
    refine ⟨_, exec_calm between does (by simp [nowV, nowW, now]), ?_, fun m other => ?_, ?_, ?_, ?_, ?_, ?_, ?_, ?_, ?_, ?_,
      ?_, ?_, ?_, State.ended_attention _⟩
    case refine_4 =>
      rw [State.ended_reports, hf]
      exact said
    case refine_1 =>
      rw [context, ← hw]
      simp [State.context?, State.removeDeadline, State.writeContext, intact]
    case refine_2 =>
      rw [context, ← hw]
      simp [State.context?, State.removeDeadline, State.writeContext, Table.get?_set, other]
    case refine_3 => simp [← hw, State.removeDeadline, State.writeContext]
    case refine_9 => simp [errors, events]
    all_goals simp [← hw]
  · intro s x c between running due kind hc damaged held room
    have does : effect .confirmExpiry s = s.failIntegrity x.index x.expiry := by
      have hc' : (s.removeDeadline x.index .confirm).context? x.index = some c := hc
      rw [effect_confirmExpiry running due kind, ← s.failIntegrity_removeDeadline x.index .confirm _ hc]
      simp [State.expireConfirm, hc', damaged]
    exact exec_failIntegrity between does hc held room

end Sys2Proof.Machine
end

section
/-!
Completions of a correction.
-/

namespace Sys2Proof.Machine

set_option Elab.async false

variable {s t u v w : State} {index : Nat} {key : Key} {c d : Context} {f : Flight}

/-! ### A correction completes (R46, R47) -/

theorem State.slotsFilled_congr (slotMap : v.slotMap = s.slotMap) (forwarder : v.forwarder = s.forwarder) (k : Correction) :
    v.slotsFilled index k = s.slotsFilled index k := by
  unfold State.slotsFilled
  rw [slotMap, forwarder]

/-- Where the slot map is as it was, what is held was held for the same station. -/
theorem KeepsHeld.of_frame (forwarder : v.forwarder = s.forwarder) (own : v.own.outstanding = s.own.outstanding)
    (pins : v.pins = s.pins) (active : v.settings.active = s.settings.active)
    (directory : v.table.directory = s.table.directory) (slotMap : v.slotMap = s.slotMap) : KeepsHeld s v :=
  ⟨forwarder, own, by rw [pins], active, directory, fun _ slot owner h => slotMap ▸ h⟩

/-- A correction has completed: its context's record is written and the corrector idle (R46, R47). -/
def State.completed (s : State) (index : Nat) (record : Context) : State :=
  { s.writeContext index record with flight := none }

@[simp] theorem State.completed_frame (s : State) (index : Nat) (record : Context) :
    (s.completed index record).pins = s.pins ∧ (s.completed index record).part = s.part ∧
    (s.completed index record).forwarder = s.forwarder ∧ (s.completed index record).own = s.own ∧
    (s.completed index record).settings = s.settings ∧ (s.completed index record).intake = s.intake ∧
    (s.completed index record).slotMap = s.slotMap ∧ (s.completed index record).time = s.time ∧
    (s.completed index record).events = s.events ∧ (s.completed index record).now = s.now ∧
    (s.completed index record).flight = none ∧
    (s.completed index record).table.directory = s.table.directory ∧
    (s.completed index record).table.quarantined = s.table.quarantined ∧
    (s.completed index record).table.ageing = s.table.ageing := by
  simp [State.completed]

theorem State.completed_context {record : Context} (intact : record.intact = true) (m : Nat) :
    (s.completed index record).context? m = if m = index then some record else s.context? m := by
  have itself : { record with intact := true } = record := by rw [← intact]
  simp only [State.completed, State.context?, State.writeContext, Table.get?_set, itself]

theorem KeepsHeld.completed (record : Context) : KeepsHeld s (s.completed index record) :=
  KeepsHeld.of_frame (by simp) (by simp) (by simp) (by simp) (by simp) (by simp)

theorem effect_notedCompletion (flight : s.flight = some f) (noted : f.full = false) (hc : s.context? f.index = some c) :
    effect .notedCompletion s =
      if c.intact = false then s.failIntegrity f.index s.time.counter
      else
        (s.completed f.index
          { c with
            metrics := some (f.report.metrics (c.metrics.bind Metrics.spread) (c.metrics.bind Metrics.status))
            busy := false }).settleHeld := by
  have does : effect .notedCompletion s = s.completeNoted := rfl
  rw [does]
  unfold State.completeNoted
  rw [flight]
  dsimp only
  rw [hc]
  cases h : c.intact <;> simp [noted, h, State.completed]

/-- Settles O50: the record is noted and its held writes filled, or it is released. -/
theorem notedCorrectionCompletes : Obligations.NotedCorrectionCompletes := by
  intro s f c between flight noted hc held after main filled
  obtain ⟨-, now, -⟩ := s.between_iff.mp between
  have does := effect_notedCompletion flight noted hc
  have completes (intact : c.intact = true) : effect .notedCompletion s = (s.completed f.index after).settleHeld := by
    rw [does, if_neg (by simp [intact])]
    rfl
  have own : ∀ g, s.flight = some g → g.index = f.index := fun g hg => by
    rw [flight] at hg
    rw [Option.some.inj hg]
  refine ⟨fun intact none1 => ?_, fun intact => ?_, fun damaged room => ?_⟩
  · have stays := (s.completed f.index after).settleHeld_empty fun _ => by simpa using none1
    rw [exec_quiet between ((completes intact).trans stays)]
    simp [State.completed, State.writeContext, after, intact]
  · have written := State.completed_context (s := s) (index := f.index) (record := after) intact
    have context : (s.completed f.index after).context? f.index = some after := by rw [written, if_pos rfl]
    obtain ⟨forwards, record, others, slots, kept, -⟩ :=
      State.settleHeld_kept held own (KeepsHeld.completed after) (by simp) context intact
    rw [State.slotsFilled_congr (s := s) (by simp) (by simp)] at slots
    have step := completes intact
    generalize (s.completed f.index after).settleHeld = x at *
    have contextX (m : Nat) : x.ended.context? m = x.context? m := by simp
    refine ⟨_, exec_calm between step (by simp [kept.now, now]), ?_, forwards.ended, ?_, fun m other => ?_, ?_, ?_, ?_, ?_, ?_,
      ?_, ?_, ?_, ?_, ?_, State.ended_attention _⟩
    · simp [kept.flight]
    · rw [contextX]
      exact record
    · rw [contextX, others m other, written, if_neg other]
    · simpa using slots
    · simp [kept.errors]
    · simp [kept.directory]
    · simp [kept.quarantined]
    · simp [kept.ageing]
    · simp [kept.time]
    · simp [kept.part]
    · simp [kept.settings]
    · simp [kept.intake]
    · simp [kept.pins]
  · rw [if_pos damaged] at does
    obtain ⟨t, next, failed, settles, rest⟩ := exec_failIntegrity between does hc held room
    exact ⟨t, next, failed, settles.own flight, rest⟩

/-! ### Under a verdict (R47, R87 to R93) -/

theorem effect_fullCompletion (flight : s.flight = some f) (full : f.full = true) (hc : s.context? f.index = some c) :
    effect .fullCompletion s =
      if c.intact = false then s.failIntegrity f.index s.time.counter
      else
        let conditions := conditionBits f.snapshot f.report.channel (f.input c)
        let j := judge f.snapshot f.report.channel f.report.kind conditions
        let t := s.completed f.index (f.judged c conditions j.verdict)
        let t := t.rearmAfterSilent f.index f.snapshot j.verdict c.station
        let t := if j.verdict.event then t.handOn (t.verdictFields f c conditions j) t.time.counter else t
        (t.setFallback j.fallback).settleHeld := by
  have does : effect .fullCompletion s = s.completeFull := rfl
  rw [does]
  unfold State.completeFull
  rw [flight]
  dsimp only
  rw [hc]
  cases h : c.intact <;> simp [full, h, State.completed]

/-- A next state that changes the station state leads to CONTACT or TRACKING (R6). -/
theorem NextState.apply_changes {n : NextState} {station : StationState} (changes : n.apply station ≠ station) :
    n.apply station = .contact ∨ n.apply station = .tracking := by
  cases n with
  | unchanged => exact absurd rfl changes
  | contact => exact .inl rfl
  | tracking => exact .inr rfl

theorem State.rearmAfterSilent_deadlines {v : Verdict} {before : StationState} {a : Table Word} {record : Context}
    (hc : s.context? index = some record) (station : v.status = .silent → record.station = v.next.apply before) :
    (s.rearmAfterSilent index a v before).time.deadlines =
      if v.status = .silent ∧ v.next.apply before ≠ before then
        if v.next.apply before = .contact then
          rearmed s.time.deadlines index (.silence .contact)
            (later s.time.counter (contactSilence a record.key.channel))
        else
          rearmed s.time.deadlines index (.silence .dueWait) (later s.time.counter (dueInterval a record.key.channel))
      else s.time.deadlines := by
  unfold State.rearmAfterSilent
  by_cases changed : v.status = .silent ∧ v.next.apply before ≠ before
  · obtain ⟨silent, changes⟩ := changed
    have station := station silent
    rw [if_pos ⟨silent, changes⟩, if_pos ⟨silent, changes⟩]
    unfold State.rearmSilence
    rw [hc]
    dsimp only
    rcases NextState.apply_changes changes with next | next
    · rw [station, next]
      simp [State.arm, State.removeDeadline, rearmed]
    · rw [station, next]
      simp [State.arm, State.removeDeadline, rearmed]
  · rw [if_neg changed, if_neg changed]

/-- What a fallback's error changes, where it is tolerated and its event has room (R87). -/
theorem State.setFallback_calm (b : Fallback) (overrun : s.tolerates .verdictRowOverrun = true)
    (long : s.tolerates .verdictChainLong = true) (room : s.events.holding.length < Config.holdingPlaces) :
    (s.setFallback b).now = s.now ∧
      (s.setFallback b).events.errors =
        (match b with
        | .none => s.events.errors
        | .rowOverrun => s.events.errors ||| 32#10
        | .chainLong => s.events.errors ||| 64#10) ∧
      ∀ e, s.hasEvent e = true → (s.setFallback b).hasEvent e = true := by
  cases b with
  | none => exact ⟨rfl, rfl, fun _ h => h⟩
  | rowOverrun =>
    obtain ⟨now, errors, -⟩ := s.setError_calm .verdictRowOverrun s.time.counter overrun room
    exact ⟨now, errors, s.setError_keeps _ _⟩
  | chainLong =>
    obtain ⟨now, errors, -⟩ := s.setError_calm .verdictChainLong s.time.counter long room
    exact ⟨now, errors, s.setError_keeps _ _⟩

/-- Settles O51: the verdict's record is written and its held writes filled, or it is released. -/
theorem fullCorrectionCompletes : Obligations.FullCorrectionCompletes := by
  intro s f c between flight full hc held room overrun long result conditions j v after correction station main filled
  obtain ⟨-, now, -⟩ := s.between_iff.mp between
  have does := effect_fullCompletion flight full hc
  refine ⟨fun intact => ?_, fun damaged tolerated => ?_⟩
  · rw [if_neg (by simp [intact])] at does
    have places : s.events.holding.length + 2 ≤ Config.holdingPlaces := by simpa [State.eventRoom] using room
    have own : ∀ g, s.flight = some g → g.index = f.index := fun g hg => by
      rw [flight] at hg
      rw [Option.some.inj hg]
    obtain ⟨record, hr⟩ : ∃ record, f.judged c conditions v = record := ⟨_, rfl⟩
    have recordIntact : record.intact = true := by rw [← hr]; exact intact
    have recordStation : v.status = .silent → record.station = v.next.apply c.station := fun silent => by
      rw [← hr]
      exact if_pos silent
    have recordKey : record.key = c.key := by rw [← hr]; rfl
    have written := State.completed_context (s := s) (index := f.index) recordIntact
    have context : (s.completed f.index record).context? f.index = some record := by rw [written, if_pos rfl]
    obtain ⟨w, hw⟩ : ∃ w, (s.completed f.index record).rearmAfterSilent f.index f.snapshot v c.station = w := ⟨_, rfl⟩
    have deadlines := State.rearmAfterSilent_deadlines context recordStation (a := f.snapshot)
    rw [hw, recordKey] at deadlines
    have eventsW : w.events = s.events := by simp [← hw]
    have nowW : w.now = s.now := by simp [← hw]
    have counterW : w.time.counter = s.time.counter := by simp [← hw]
    have fields : w.verdictFields f c conditions j = s.verdictFields f c conditions j := by
      simp [State.verdictFields, State.stationFields, ← hw]
    obtain ⟨x, hx⟩ : ∃ x, (if v.event then w.handOn (w.verdictFields f c conditions j) w.time.counter else w) = x :=
      ⟨_, rfl⟩
    have place : w.events.holding.length < Config.holdingPlaces := by rw [eventsW]; omega
    have said : v.event = true → x.reports (s.verdictFields f c conditions j) s.time.counter none = true := fun on => by
      have reported := w.handOn_reports (w.verdictFields f c conditions j) w.time.counter place
      rw [fields, counterW, nowW, now] at reported
      rw [← hx, if_pos on, fields, counterW]
      exact reported
    have calm : x.now = w.now ∧ x.events.errors = w.events.errors ∧
        x.events.holding.length ≤ w.events.holding.length + 1 := by
      rw [← hx]
      split
      · obtain ⟨now, errors, -, length⟩ := w.handOn_calm (w.verdictFields f c conditions j) w.time.counter place
        exact ⟨now, errors, length⟩
      · exact ⟨rfl, rfl, Nat.le_succ _⟩
    obtain ⟨nowX, errorsX, lengthX⟩ := calm
    have frame : x.pins = s.pins ∧ x.part = s.part ∧ x.forwarder = s.forwarder ∧ x.settings = s.settings ∧
        x.intake = s.intake ∧ x.flight = none ∧ x.table = (s.completed f.index record).table ∧ x.slotMap = s.slotMap ∧
        x.time = w.time ∧ x.own.outstanding = s.own.outstanding := by
      rw [← hx, ← hw]
      split <;> simp
    obtain ⟨pins, part, forwarder, settings, intake, idle, table, slotMap, time, outstanding⟩ := frame
    have tolerates (k : ErrorKind) (h : s.tolerates k = true) : x.tolerates k = true := by
      unfold State.tolerates at h ⊢
      rwa [settings]
    obtain ⟨nowY, errors, hasEvent⟩ := x.setFallback_calm j.fallback (tolerates _ overrun) (tolerates _ long)
      (by rw [eventsW] at lengthX; omega)
    rw [errorsX, eventsW] at errors
    have frameY := x.setFallback_frame j.fallback
    have outstandingY : (x.setFallback j.fallback).own.outstanding = s.own.outstanding := by simp [outstanding]
    have saidY (on : v.event = true) := State.reports_of_keeps x (x.setFallback j.fallback) hasEvent (by simp) _ _ _ (said on)
    have step : effect .fullCompletion s = (x.setFallback j.fallback).settleHeld := by
      rw [does, ← hx, ← hw, ← hr]
    generalize x.setFallback j.fallback = y at *
    obtain ⟨-, pinsY, partY, forwarderY, settingsY, intakeY, flightY, tableY, slotMapY, timeY⟩ := frameY
    have keeps : KeepsHeld s y := KeepsHeld.of_frame (forwarderY.trans forwarder) outstandingY (pinsY.trans pins)
      (by rw [settingsY, settings]) (by rw [tableY, table]; simp) (slotMapY.trans slotMap)
    have contextY (m : Nat) : y.context? m = (s.completed f.index record).context? m :=
      State.context?_congr (tableY.trans table)
    obtain ⟨forwards, recordZ, others, slots, kept, onItsWay⟩ :=
      State.settleHeld_kept held own keeps (flightY.trans idle) ((contextY _).trans context) recordIntact
    rw [State.slotsFilled_congr (slotMapY.trans slotMap) (forwarderY.trans forwarder)] at slots
    have saidZ (on : v.event = true) := State.reportsSince_of (saidY on) onItsWay (by rw [kept.settings])
    generalize y.settleHeld = z at *
    have contextZ (m : Nat) : z.ended.context? m = z.context? m := by simp
    refine ⟨_, exec_calm between step (by simp [kept.now, nowY, nowX, nowW, now]), ?_, ?_, ?_, fun m other => ?_, ?_, fun on => ?_, ?_, ?_,
      ?_, ?_, ?_, ?_, ?_, ?_, ?_, State.ended_attention _⟩
    · simp [kept.flight, flightY, idle]
    · rw [← hr] at forwards
      exact forwards.ended
    · rw [contextZ, recordZ, ← hr]
      rfl
    · rw [contextZ, others m other, contextY, written, if_neg other]
    · simp only [State.ended_frame, kept.time, timeY, time]
      simpa using deadlines
    · rw [State.ended_reportsSince]
      exact saidZ on
    · exact (show z.ended.events.errors = y.events.errors by simp [kept.errors]).trans errors
    · simp [kept.directory, tableY, table]
    · simp [kept.quarantined, tableY, table]
    · rw [← hr] at slots
      exact (show z.ended.slotMap = z.slotMap by simp).trans slots
    · simp [kept.part, partY, part]
    · simp [kept.settings, settingsY, settings]
    · simp [kept.intake, intakeY, intake]
    · simp [kept.time, timeY, time, counterW]
    · simp [kept.pins, pinsY, pins]
  · rw [if_pos damaged] at does
    have damageRoom : s.damageRoom = true := by simp [State.damageRoom, room, tolerated]
    obtain ⟨t, next, failed, settles, rest⟩ := exec_failIntegrity between does hc held damageRoom
    exact ⟨t, next, failed, settles.own flight, rest⟩

end Sys2Proof.Machine
end

section
/-!
The taking of a report, and ageing.
-/

namespace Sys2Proof.Machine

set_option Elab.async false

variable {s t u v w : State} {index : Nat} {key : Key} {c d : Context} {f : Flight} {a : Table Word} {report : Report}
  {time : Time}

/-! ### The correction-state test, and SILENCE (R44, R45) -/

/-- The deadlines once SILENCE has been re-armed for a station state (R44). -/
def silenceRearmed (deadlines : List Deadline) (index : Nat) (a : Table Word) (channel : Nat) (station : StationState)
    (time : Time) : List Deadline :=
  match station with
  | .contact => rearmed deadlines index (.silence .contact) (later time (contactSilence a channel))
  | .tracking => rearmed deadlines index (.silence .dueWait) (later time (dueInterval a channel))
  | .due => deadlines
  | .ending => deadlines

theorem State.rearmSilence_eq (hc : s.context? index = some c) (a : Table Word) (time : Time) :
    s.rearmSilence index a time =
      { s with
        time := { s.time with deadlines := silenceRearmed s.time.deadlines index a c.key.channel c.station time } } := by
  unfold State.rearmSilence silenceRearmed
  rw [hc]
  dsimp only
  cases c.station <;> rfl

/-- Whether a report that binds this context is to be fully corrected, where its correction was not sent (R45). -/
def Context.full (c : Context) : Bool :=
  decide (c.station ≠ .ending) && (c.correction == .none || c.correction matches .ready _)

/-- The record after the correction-state test, where its correction was not sent (R45). -/
def Context.tested (c : Context) : Context := { c with correction := if c.full then .none else c.correction }

/-- A record that stands in the table is found there. -/
theorem State.context?_of_stable (stable : Table.set s.table.contexts index c = s.table.contexts) :
    s.context? index = some c := by
  unfold State.context?
  rw [← stable, Table.get?_set_self]

theorem State.testCorrection_unsent (stable : Table.set s.table.contexts index c = s.table.contexts)
    (intact : c.intact = true) (flight : s.flight = some f) (fresh : f.full = false)
    (unsent : ∀ issued delivered, c.correction ≠ .sent issued delivered) (a : Table Word) (report : Report) (time : Time) :
    s.testCorrection index a report time =
      { s with
        flight := some { f with full := c.full }
        table := { s.table with contexts := Table.set s.table.contexts index c.tested } } := by
  have itself : (({ s with table := { s.table with contexts := Table.set s.table.contexts index c } } : State)) = s := by
    rw [stable]
  unfold State.testCorrection
  rw [State.context?_of_stable stable]
  dsimp only
  by_cases ending : c.station = .ending
  · have noted : c.full = false := by simp [Context.full, ending]
    have same : { f with full := false } = f := by rw [← fresh]
    have tested : c.tested = c := by simp [Context.tested, noted]
    rw [if_pos ending, noted, same, tested, ← flight]
    exact itself.symm
  · rw [if_neg ending]
    cases correction : c.correction with
    | none =>
      have full : c.full = true := by simp [Context.full, ending, correction]
      have tested : c.tested = c := by simp [Context.tested, full, ← correction]
      rw [full, tested, stable]
      simp [State.markFull, flight]
    | ready issued =>
      have full : c.full = true := by simp [Context.full, ending, correction]
      simp [State.markFull, State.writeContext, flight, Context.tested, full, intact]
    | issued issued slot =>
      have noted : c.full = false := by simp [Context.full, ending, correction]
      have same : { f with full := false } = f := by rw [← fresh]
      have tested : c.tested = c := by simp [Context.tested, noted]
      rw [noted, same, tested, ← flight]
      exact itself.symm
    | sent issued delivered => exact absurd correction (unsent issued delivered)

/-! ### A report is bound to a context (R44) -/

/-- The record as a report finds it: a DUE station returns to TRACKING (R44). -/
def Context.heard (c : Context) : Context := { c with station := if c.station = .due then .tracking else c.station }

/-- What binds a report once it has been counted: the station state, the correction-state test, and SILENCE (R44). -/
def State.bindHeard (s : State) (index : Nat) (a : Table Word) (report : Report) (time : Time) : State :=
  match s.context? index with
  | none => s
  | some c =>
    let t := if c.station = .due then s.writeContext index { c with station := .tracking } else s
    (t.testCorrection index a report time).goOn fun u => u.rearmSilence index a time

/-- The context and the corrector when a report has reached them, before it is counted (R44). -/
def State.reached (s : State) (index ageBefore : Nat) (report : Report) (c : Context) : State :=
  { s with
    flight := some
      { report := report, snapshot := s.settings.active, takeTime := s.time.counter, index := index, ageBefore := ageBefore,
        full := false }
    table := { s.table with
      contexts := Table.set s.table.contexts index
        { c with busy := true, age := 0, lastHeard := s.time.counter, intact := true } } }

theorem State.bindReport_eq (hc : s.context? index = some c) (age : Nat) (report : Report) :
    s.bindReport index age report =
      (s.reached index age report c).countReport.goOn fun u =>
        u.bindHeard index s.settings.active report s.time.counter := by
  unfold State.bindReport
  rw [hc]
  rfl

theorem State.heard_eq (stable : Table.set s.table.contexts index c = s.table.contexts) (intact : c.intact = true) :
    (if c.station = .due then s.writeContext index { c with station := .tracking } else s) =
      { s with table := { s.table with contexts := Table.set s.table.contexts index c.heard } } := by
  by_cases due : c.station = .due
  · rw [if_pos due]
    simp [State.writeContext, Context.heard, due, intact]
  · have heard : c.heard = c := by simp [Context.heard, due]
    rw [if_neg due, heard, stable]

theorem Context.heard_full (c : Context) : c.heard.full = c.full := by
  unfold Context.heard Context.full
  by_cases due : c.station = .due <;> simp [due]

/-- A report that meets no SENT correction. -/
theorem State.bindHeard_unsent (stable : Table.set s.table.contexts index c = s.table.contexts)
    (intact : c.intact = true) (flight : s.flight = some f) (fresh : f.full = false) (calm : s.now.stopDue = false)
    (unsent : ∀ issued delivered, c.correction ≠ .sent issued delivered) (a : Table Word) (report : Report) (time : Time) :
    s.bindHeard index a report time =
      { s with
        flight := some { f with full := c.full }
        table := { s.table with contexts := Table.set s.table.contexts index c.heard.tested }
        time := { s.time with
          deadlines := silenceRearmed s.time.deadlines index a c.key.channel c.heard.station time } } := by
  unfold State.bindHeard
  rw [State.context?_of_stable stable]
  dsimp only
  rw [State.heard_eq stable intact]
  rw [State.testCorrection_unsent
    (s := { s with table := { s.table with contexts := Table.set s.table.contexts index c.heard } })
    (c := c.heard) (f := f) (by simp [Table.set_set]) intact flight fresh unsent]
  rw [Context.heard_full]
  simp only [Table.set_set, State.goOn, calm, Bool.false_eq_true, if_false]
  rw [State.rearmSilence_eq (c := c.heard.tested) (by simp [State.context?])]
  rfl

theorem State.countReport_quiet (quiet : s.ageingQuiet = true) :
    s.countReport = { s with table := { s.table with ageing := s.ageingCounted } } := by
  unfold State.countReport State.ageByCount State.ageingCounted
  unfold State.ageingQuiet at quiet
  by_cases timed : ageingByTime s.settings.active = true
  · simp [timed]
  · simp only [timed, Bool.false_or, Bool.or_eq_true, beq_iff_eq, decide_eq_true_eq] at quiet
    rw [if_neg timed, if_neg timed, if_neg]
    simp only [Bool.and_eq_true, decide_eq_true_eq]
    omega

/-- The taking of a report that makes no ageing step and meets no SENT correction. -/
theorem State.bindReport_quiet (hc : s.context? index = some c) (calm : s.now.stopDue = false)
    (quiet : s.ageingQuiet = true) (unsent : ∀ issued delivered, c.correction ≠ .sent issued delivered)
    (age : Nat) (report : Report) :
    s.bindReport index age report =
      { s with
        flight := some
          { report := report, snapshot := s.settings.active, takeTime := s.time.counter, index := index, ageBefore := age,
            full := c.full }
        table := { s.table with
          ageing := s.ageingCounted
          contexts := Table.set s.table.contexts index
            { c.heard.tested with busy := true, age := 0, lastHeard := s.time.counter, intact := true } }
        time := { s.time with
          deadlines := silenceRearmed s.time.deadlines index s.settings.active c.key.channel c.heard.station
            s.time.counter } } := by
  have quiet : (s.reached index age report c).ageingQuiet = true := quiet
  rw [State.bindReport_eq hc, State.countReport_quiet quiet, State.goOn, if_neg (by simp [State.reached, calm])]
  rw [State.bindHeard_unsent
    (s := { s.reached index age report c with
      table := { (s.reached index age report c).table with ageing := (s.reached index age report c).ageingCounted } })
    (c := { c with busy := true, age := 0, lastHeard := s.time.counter, intact := true })
    (by simp [State.reached, Table.set_set]) rfl rfl rfl calm unsent]
  simp only [State.reached, Table.set_set]
  rfl

/-! ### The head is taken (R43, R44) -/

/-- The intake queue once its head has been taken (R43). -/
def State.dequeued (s : State) (rest : List Report) : State := { s with intake := { s.intake with queue := rest } }

@[simp] theorem State.dequeued_frame (s : State) (rest : List Report) :
    (s.dequeued rest).pins = s.pins ∧ (s.dequeued rest).part = s.part ∧ (s.dequeued rest).forwarder = s.forwarder ∧
    (s.dequeued rest).own = s.own ∧ (s.dequeued rest).settings = s.settings ∧
    (s.dequeued rest).intake = { s.intake with queue := rest } ∧ (s.dequeued rest).flight = s.flight ∧
    (s.dequeued rest).table = s.table ∧ (s.dequeued rest).slotMap = s.slotMap ∧ (s.dequeued rest).time = s.time ∧
    (s.dequeued rest).events = s.events ∧ (s.dequeued rest).now = s.now ∧
    (s.dequeued rest).pending = s.pending := by
  simp [State.dequeued]

theorem effect_takeHead {rest : List Report} (running : s.part = .running) (idle : s.flight = none)
    (queue : s.intake.queue = report :: rest) :
    effect .takeHead s =
      ((s.dequeued rest).lookup report.key s.time.counter).1.goOn fun v =>
        v.admitReport ((s.dequeued rest).lookup report.key s.time.counter).2 report := by
  have up : s.running = true := by simp [State.running, running]
  have does : effect .takeHead s = s.takeHead := rfl
  rw [does]
  unfold State.takeHead State.dequeued
  rw [up, idle, queue]

theorem effect_takeHead_known {rest : List Report} (between : s.between = true) (running : s.part = .running)
    (idle : s.flight = none) (queue : s.intake.queue = report :: rest) (known : s.known report.key index c = true) :
    effect .takeHead s = (s.dequeued rest).admitReport (some index) report := by
  obtain ⟨-, now, -⟩ := s.between_iff.mp between
  have known : (s.dequeued rest).known report.key index c = true := (State.known_congr (by simp)).trans known
  rw [effect_takeHead running idle queue, State.lookup_known _ _ _ _ _ known, State.goOn, if_neg (by simp [now])]

theorem effect_takeHead_unknown {rest : List Report} (between : s.between = true) (running : s.part = .running)
    (idle : s.flight = none) (queue : s.intake.queue = report :: rest) (unknown : s.unknown report.key = true) :
    effect .takeHead s = (s.dequeued rest).admitReport none report := by
  obtain ⟨-, now, -⟩ := s.between_iff.mp between
  have unknown : (s.dequeued rest).unknown report.key = true := (State.unknown_congr (by simp)).trans unknown
  rw [effect_takeHead running idle queue, State.lookup_unknown _ _ _ unknown, State.goOn, if_neg (by simp [now])]

theorem State.admitReport_heard (hc : s.context? index = some c) (later_ : report.kind ≠ .firstContact) :
    s.admitReport (some index) report = s.bindReport index c.age report := by
  unfold State.admitReport
  dsimp only
  rw [hc]
  cases kind : report.kind with
  | firstContact => exact absurd kind later_
  | keepalive => rfl
  | data => rfl

theorem State.admitReport_restarts (hc : s.context? index = some c) (first : report.kind = .firstContact) :
    s.admitReport (some index) report =
      (s.restart index s.settings.active s.time.counter 1).goOn fun t => t.bindReport index c.age report := by
  unfold State.admitReport
  dsimp only
  rw [hc, first]

theorem State.ageingQuiet_congr (active : t.settings.active = s.settings.active)
    (ageing : t.table.ageing = s.table.ageing) : t.ageingQuiet = s.ageingQuiet := by
  unfold State.ageingQuiet
  rw [active, ageing]

theorem State.ageingCounted_congr (active : t.settings.active = s.settings.active)
    (ageing : t.table.ageing = s.table.ageing) : t.ageingCounted = s.ageingCounted := by
  unfold State.ageingCounted
  rw [active, ageing]

theorem rearmed_rearmed (l : List Deadline) (index : Nat) (kind : DeadlineKind) (expiry : Time) :
    rearmed (rearmed l index kind expiry) index kind expiry = rearmed l index kind expiry := by
  have itself : ({ index := index, kind := kind, expiry := expiry } : Deadline).isFor index kind = true := by
    cases kind <;> simp [Deadline.isFor, DeadlineKind.sameAs]
  simp [rearmed, List.filter_append, itself]

/-- A context of which no deadline is left has one once it is armed. -/
theorem rearmed_forgotten (l : List Deadline) (index : Nat) (kind : DeadlineKind) (expiry : Time) :
    rearmed (l.filter fun d => d.index != index) index kind expiry =
      (l.filter fun d => d.index != index) ++ [{ index := index, kind := kind, expiry := expiry }] := by
  have others : (l.filter fun d => d.index != index).filter (fun d => !d.isFor index kind) =
      l.filter fun d => d.index != index := by
    rw [List.filter_eq_self]
    intro d hd
    have other : d.index ≠ index := by simpa using (List.mem_filter.mp hd).2
    simp [Deadline.isFor, other]
  rw [rearmed, others]

/-- What a report leaves that has been bound to a context without a correction, for which it made no ageing step: the
context is busy and heard, the report is to be fully corrected, and SILENCE is re-armed (R44). -/
structure Bound (w t : State) (index age : Nat) (report : Report) (r : Context) : Prop where
  context : t.context? index = some { r with busy := true, age := 0, lastHeard := w.time.counter }
  contexts : t.table.contexts =
    Table.set w.table.contexts index { r with busy := true, age := 0, lastHeard := w.time.counter }
  flight : t.flight =
    some
      { report := report, snapshot := w.settings.active, takeTime := w.time.counter, index := index, ageBefore := age,
        full := true }
  time : t.time =
    { w.time with
      deadlines := silenceRearmed w.time.deadlines index w.settings.active r.key.channel r.station w.time.counter }
  reports : ∀ f time cause, w.reports f time cause = true → t.reports f time cause = true
  directory : t.table.directory = w.table.directory
  quarantined : t.table.quarantined = w.table.quarantined
  ageing : t.table.ageing = w.ageingCounted
  slotMap : t.slotMap = w.slotMap
  forwarder : t.forwarder = w.forwarder
  intake : t.intake = w.intake
  errors : t.events.errors = w.events.errors
  part : t.part = w.part
  settings : t.settings = w.settings
  straps : t.pins.straps = w.pins.straps
  attention : t.pins.attention = t.attentionLevel

theorem Bound.others {age : Nat} (h : Bound w t index age report c) (m : Nat) (other : m ≠ index) :
    t.context? m = w.context? m := by
  simp [State.context?, h.contexts, Table.get?_set, other]

/-- A taking that binds its report to a context in CONTACT or TRACKING without a correction. -/
theorem exec_binds {age : Nat} (between : s.between = true) (does : effect .takeHead s = w.bindReport index age report)
    (hc : w.context? index = some c) (intact : c.intact = true) (nothing : c.correction = .none)
    (station : c.station = .contact ∨ c.station = .tracking) (calm : w.now.stopDue = false)
    (quiet : w.ageingQuiet = true) : ∃ t, exec .takeHead s = .next t ∧ Bound w t index age report c := by
  have full : c.full = true := by
    rcases station with station | station <;> simp [Context.full, station, nothing]
  have notDue : c.station ≠ .due := by rcases station with station | station <;> simp [station]
  have heard : c.heard = c := by simp [Context.heard, notDue]
  have tested : c.tested = c := by simp [Context.tested, full, ← nothing]
  rw [State.bindReport_quiet hc calm quiet (by simp [nothing]), full, heard, tested] at does
  have written : { c with busy := true, age := 0, lastHeard := w.time.counter, intact := true } =
      { c with busy := true, age := 0, lastHeard := w.time.counter } := by rw [← intact]
  rw [written] at does
  refine ⟨_, exec_calm between does calm, ?_⟩
  constructor
  case reports =>
    intro f time cause said
    rw [State.ended_reports]
    exact said
  case attention => exact State.ended_attention _
  case context => simp [State.context?]
  all_goals simp

/-- Settles O45: a later report binds the station, and a first contact restarts it before. -/
theorem takingBindsKnownStation : Obligations.TakingBindsKnownStation := by
  constructor
  · intro s e rest index c between running idle queue kind known quiet unsent a now full
    obtain ⟨-, calm, -⟩ := s.between_iff.mp between
    obtain ⟨-, hc, -⟩ := State.known_iff.mp known
    have hc' : (s.dequeued rest).context? index = some c := (State.context?_congr (by simp)).trans hc
    have quiet' : (s.dequeued rest).ageingQuiet = true := (State.ageingQuiet_congr (by simp) (by simp)).trans quiet
    have does : effect .takeHead s = (s.dequeued rest).bindReport index c.age e := by
      rw [effect_takeHead_known between running idle queue known, State.admitReport_heard hc' kind]
    rw [State.bindReport_quiet hc' (by simp [calm]) quiet' unsent] at does
    rw [exec_quiet between does]
    have counted : (s.dequeued rest).ageingCounted = s.ageingCounted := State.ageingCounted_congr (by simp) (by simp)
    have full : c.full = full := rfl
    rw [counted]
    simp only [Context.tested, Context.heard_full, full]
    cases station : c.station <;> simp [Context.heard, silenceRearmed, station, State.dequeued, a, now]
  · intro s e rest index c between running idle queue kind known quiet room a now
    obtain ⟨-, calm, -⟩ := s.between_iff.mp between
    obtain ⟨-, hc, intact⟩ := State.known_iff.mp known
    have hc' : (s.dequeued rest).context? index = some c := (State.context?_congr (by simp)).trans hc
    obtain ⟨context, others, slots, time, reported, errors, nowW, directory, quarantined, ageing⟩ :=
      (s.dequeued rest).restart_does s.settings.active s.time.counter 1 hc' intact
        ((State.eventRoom_congr (by simp)).trans room)
    have does : effect .takeHead s =
        ((s.dequeued rest).restart index s.settings.active s.time.counter 1).goOn fun t => t.bindReport index c.age e := by
      rw [effect_takeHead_known between running idle queue known, State.admitReport_restarts hc' kind]
      simp
    obtain ⟨w, hw⟩ : ∃ w, (s.dequeued rest).restart index s.settings.active s.time.counter 1 = w := ⟨_, rfl⟩
    have frame : w.forwarder = s.forwarder ∧ w.settings = s.settings ∧ w.part = s.part ∧ w.pins = s.pins ∧
        w.intake = { s.intake with queue := rest } := by simp [← hw]
    obtain ⟨forwarder, settings, part, pins, intake⟩ := frame
    rw [hw] at context others slots time reported errors nowW directory quarantined ageing does
    have calmW : w.now.stopDue = false := by simp [nowW, calm]
    have ageing : w.table.ageing = s.table.ageing := by simpa using ageing
    have quiet' : w.ageingQuiet = true := (State.ageingQuiet_congr (by rw [settings]) ageing).trans quiet
    have counted : w.ageingCounted = s.ageingCounted := State.ageingCounted_congr (by rw [settings]) ageing
    rw [State.goOn, if_neg (by simp [calmW])] at does
    obtain ⟨t, step, bound⟩ := exec_binds between does context intact rfl (.inl rfl) calmW quiet'
    have sameTime : (s.dequeued rest).time = s.time := by simp
    have fields : (s.dequeued rest).stationFields 3 c.key index = s.stationFields 3 c.key index := by
      simp [State.stationFields]
    have sameCause : (s.dequeued rest).now.cause = none := by simp [calm]
    rw [sameTime] at time
    rw [fields, sameCause] at reported
    refine ⟨t, step, ?_, fun m other => ?_, ?_, ?_, ?_, ?_, ?_, ?_, ?_, ?_, ?_, ?_, ?_, ?_, ?_, bound.attention⟩
    · rw [bound.context, time]
    · rw [bound.others m other, others m other]
      exact State.context?_congr (by simp)
    · rw [bound.flight, settings, time]
    · rw [bound.time, time, settings]
      simp only [silenceRearmed, ← rearmed_forgotten, rearmed_rearmed]
      rfl
    · simp [bound.slotMap, slots]
    · exact bound.reports _ _ _ reported
    · rw [bound.intake, intake]
    · simp [bound.directory, directory]
    · simp [bound.quarantined, quarantined]
    · rw [bound.ageing, counted]
    · simp [bound.errors, errors]
    · rw [bound.forwarder, forwarder]
    · rw [bound.part, part]
    · rw [bound.settings, settings]
    · rw [bound.straps, pins]

end Sys2Proof.Machine
end

section
/-!
A SENT correction at the taking of a report.
-/

namespace Sys2Proof.Machine

set_option Elab.async false

variable {s t u v w : State} {index : Nat} {key : Key} {c d : Context} {f : Flight} {a : Table Word} {report : Report}
  {time delivered : Time} {issued : Machine.Issued}

/-- The state in which the correction-state test is made, for a report that makes no ageing step (R44). -/
def State.met (s : State) (index ageBefore : Nat) (report : Report) (c : Context) : State :=
  { s with
    flight := some
      { report := report, snapshot := s.settings.active, takeTime := s.time.counter, index := index, ageBefore := ageBefore,
        full := false }
    table := { s.table with
      ageing := s.ageingCounted
      contexts := Table.set s.table.contexts index
        { c.heard with busy := true, age := 0, lastHeard := s.time.counter, intact := true } } }

theorem State.bindReport_met (hc : s.context? index = some c) (calm : s.now.stopDue = false)
    (quiet : s.ageingQuiet = true) (age : Nat) (report : Report) :
    s.bindReport index age report =
      ((s.met index age report c).testCorrection index s.settings.active report s.time.counter).goOn fun u =>
        u.rearmSilence index s.settings.active s.time.counter := by
  have quiet : (s.reached index age report c).ageingQuiet = true := quiet
  obtain ⟨w, hw⟩ : ∃ w : State, { s.reached index age report c with
      table := { (s.reached index age report c).table with ageing := (s.reached index age report c).ageingCounted } } = w :=
    ⟨_, rfl⟩
  obtain ⟨r, hr⟩ : ∃ r : Context, { c with busy := true, age := 0, lastHeard := s.time.counter, intact := true } = r :=
    ⟨_, rfl⟩
  have stable : Table.set w.table.contexts index r = w.table.contexts := by
    simp [← hw, ← hr, State.reached, Table.set_set]
  have calmW : (s.reached index age report c).now.stopDue = false := calm
  rw [State.bindReport_eq hc, State.countReport_quiet quiet, hw, State.goOn, ← hw, if_neg (by simp [calmW]), hw,
    State.bindHeard, State.context?_of_stable stable]
  dsimp only
  rw [State.heard_eq stable (by rw [← hr])]
  simp only [← hw, ← hr, State.reached, Table.set_set]
  rfl

theorem State.testCorrection_sent (hc : s.context? index = some c) (station : c.station ≠ .ending)
    (sent : c.correction = .sent issued delivered) (a : Table Word) (report : Report) (time : Time) :
    s.testCorrection index a report time =
      if atOrAfter report.arrival (later delivered (applyMargin a c.key.channel)) then
        (s.confirm index c issued delivered time).markFull
      else s := by
  unfold State.testCorrection
  rw [hc]
  dsimp only
  rw [if_neg station, sent]

/-- What a confirmation does, with room for its event (R71). -/
theorem State.confirm_does (intact : c.intact = true) (room : s.eventRoom 1 = true) (index : Nat)
    (issued : Machine.Issued) (delivered time : Time) :
    let t := s.confirm index c issued delivered time
    t.context? index = some
        { c with
          committed := c.committed.confirm issued
          station := issued.next.apply c.station
          attempts := if issued.status = .success then 0 else c.attempts
          correction := .none } ∧
      (∀ m, m ≠ index → t.context? m = s.context? m) ∧ t.deadlinesFor index .confirm = 0 ∧
      (∀ m kind, m ≠ index → t.deadlinesFor m kind = s.deadlinesFor m kind) ∧
      t.reports ((s.stationFields 8 c.key index).withIssued issued delivered) time s.now.cause = true ∧
      t.events.errors = s.events.errors ∧ t.now = s.now := by
  intro t
  obtain ⟨w, hw⟩ : ∃ w, (s.removeDeadline index .confirm).writeContext index
      { c with
        committed := c.committed.confirm issued
        station := issued.next.apply c.station
        attempts := if issued.status = .success then 0 else c.attempts
        correction := .none } = w := ⟨_, rfl⟩
  have fields : w.stationFields 8 c.key index = s.stationFields 8 c.key index := by simp [State.stationFields, ← hw]
  have does : t = w.handOn ((s.stationFields 8 c.key index).withIssued issued delivered) time := by
    rw [← fields, ← hw]
    rfl
  have eventsW : w.events = s.events := by simp [← hw]
  have nowW : w.now = s.now := by simp [← hw]
  have place : w.events.holding.length < Config.holdingPlaces := by
    rw [eventsW]
    simpa [State.eventRoom] using room
  obtain ⟨now, errors, -⟩ := w.handOn_calm ((s.stationFields 8 c.key index).withIssued issued delivered) time place
  have said := w.handOn_reports ((s.stationFields 8 c.key index).withIssued issued delivered) time place
  rw [nowW] at said
  rw [← does] at now errors said
  have context (m : Nat) : t.context? m = w.context? m := State.context?_congr (by simp [does])
  have deadlines (m : Nat) (kind : DeadlineKind) : t.deadlinesFor m kind = w.deadlinesFor m kind := by
    simp [State.deadlinesFor, does]
  refine ⟨?_, fun m other => ?_, ?_, fun m kind other => ?_, said, errors.trans (by rw [eventsW]), now.trans nowW⟩
  · rw [context, ← hw]
    simp [State.context?, State.removeDeadline, State.writeContext, intact]
  · rw [context, ← hw]
    simp [State.context?, State.removeDeadline, State.writeContext, Table.get?_set, other]
  · rw [deadlines, ← hw]
    rw [State.writeContext_deadlinesFor]
    exact s.deadlinesFor_removeDeadline rfl
  · rw [deadlines, ← hw, State.writeContext_deadlinesFor]
    exact s.deadlinesFor_removeDeadline_other (.inl other)

/-- SILENCE is re-armed for its context alone, and CONFIRM is left. -/
theorem State.rearmSilence_deadlinesFor (s : State) (index m : Nat) (a : Table Word) (time : Time) (kind : DeadlineKind)
    (other : m ≠ index ∨ kind = .confirm) :
    (s.rearmSilence index a time).deadlinesFor m kind = s.deadlinesFor m kind := by
  have apart (stage : Stage) : m ≠ index ∨ kind.sameAs (.silence stage) = false :=
    other.imp id fun h => by rw [h]; rfl
  unfold State.rearmSilence
  split
  · rfl
  next c hc =>
    cases c.station with
    | contact => exact s.deadlinesFor_arm_other (apart _)
    | tracking => exact s.deadlinesFor_arm_other (apart _)
    | due => rfl
    | ending => rfl

/-- Settles O46: the report shows the correction, or is noted only. -/
theorem takingConfirmsSentCorrection : Obligations.TakingConfirmsSentCorrection := by
  intro s e rest index c issued delivered between running idle queue kind known quiet station sent room a now shows before
  obtain ⟨-, calm, -⟩ := s.between_iff.mp between
  obtain ⟨-, hc, intact⟩ := State.known_iff.mp known
  obtain ⟨u, hu⟩ : ∃ u, s.dequeued rest = u := ⟨_, rfl⟩
  have frameU : u.pins = s.pins ∧ u.part = s.part ∧ u.forwarder = s.forwarder ∧ u.own = s.own ∧ u.settings = s.settings ∧
      u.intake = { s.intake with queue := rest } ∧ u.table = s.table ∧ u.slotMap = s.slotMap ∧ u.time = s.time ∧
      u.events = s.events ∧ u.now = s.now := by simp [← hu]
  obtain ⟨pinsU, partU, forwarderU, ownU, settingsU, intakeU, tableU, slotMapU, timeU, eventsU, nowU⟩ := frameU
  have hc' : u.context? index = some c := (State.context?_congr tableU).trans hc
  have quiet' : u.ageingQuiet = true := (State.ageingQuiet_congr (by rw [settingsU]) (by rw [tableU])).trans quiet
  have does : effect .takeHead s = u.bindReport index c.age e := by
    rw [effect_takeHead_known between running idle queue known, hu, State.admitReport_heard hc' kind]
  rw [State.bindReport_met hc' (by simp [nowU, calm]) quiet' c.age e] at does
  obtain ⟨r, hr⟩ : ∃ r : Context,
      { c.heard with busy := true, age := 0, lastHeard := u.time.counter, intact := true } = r := ⟨_, rfl⟩
  obtain ⟨w, hw⟩ : ∃ w, u.met index c.age e c = w := ⟨_, rfl⟩
  have frameW : w.pins = u.pins ∧ w.part = u.part ∧ w.forwarder = u.forwarder ∧ w.own = u.own ∧ w.settings = u.settings ∧
      w.intake = u.intake ∧ w.table.directory = u.table.directory ∧ w.slotMap = u.slotMap ∧ w.time = u.time ∧
      w.events = u.events ∧ w.now = u.now := by simp [← hw, State.met]
  obtain ⟨pinsW, partW, forwarderW, ownW, settingsW, intakeW, directoryW, slotMapW, timeW, eventsW, nowW⟩ := frameW
  have flightW : w.flight = some
      { report := e, snapshot := a, takeTime := now, index := index, ageBefore := c.age, full := false } := by
    simp [← hw, State.met, settingsU, timeU, a, now]
  have contextsW : w.table.contexts = Table.set s.table.contexts index r := by simp [← hw, State.met, ← hr, tableU]
  have contextW : w.context? index = some r := by simp [State.context?, contextsW]
  have othersW (m : Nat) (other : m ≠ index) : w.context? m = s.context? m := by
    simp [State.context?, contextsW, Table.get?_set, other]
  have recordR : r = { c with busy := true, age := 0, lastHeard := now, station := before } := by
    rw [← hr, ← intact, timeU]
    rfl
  have stationR : r.station ≠ .ending := by
    rw [recordR]
    show before ≠ .ending
    simp only [before]
    split
    · decide
    · exact station
  have sentR : r.correction = .sent issued delivered := by rw [recordR]; exact sent
  have keyR : r.key = c.key := by rw [recordR]
  have intactR : r.intact = true := by rw [recordR]; exact intact
  rw [hw, settingsU, State.testCorrection_sent contextW stationR sentR, timeU, keyR] at does
  have sound : atOrAfter e.arrival (later delivered (applyMargin s.settings.active c.key.channel)) = decide shows := rfl
  rw [sound] at does
  have deadlinesW (m : Nat) (kind : DeadlineKind) : w.deadlinesFor m kind = s.deadlinesFor m kind := by
    simp [State.deadlinesFor, timeW, timeU]
  by_cases shown : shows
  · rw [if_pos (by simpa using shown)] at does
    have roomW : w.eventRoom 1 = true := (State.eventRoom_congr (by rw [eventsW, eventsU])).trans room
    obtain ⟨context, others, confirm, deadlines, reported, errors, nowX⟩ :=
      w.confirm_does intactR roomW index issued delivered s.time.counter
    have fields : w.stationFields 8 r.key index = s.stationFields 8 c.key index := by
      simp [State.stationFields, settingsW, settingsU, keyR]
    have cause : w.now.cause = none := by simp [nowW, nowU, calm]
    rw [fields, cause] at reported
    have frame := w.confirm_frame index r issued delivered s.time.counter
    obtain ⟨x, hx⟩ : ∃ x, w.confirm index r issued delivered s.time.counter = x := ⟨_, rfl⟩
    rw [hx] at does context others confirm deadlines reported errors nowX frame
    obtain ⟨-, pinsX, partX, forwarderX, settingsX, intakeX, flightX, slotMapX, directoryX, -⟩ := frame
    have stays : x.markFull.now.stopDue = false := by simp [nowX, nowW, nowU, calm]
    rw [State.goOn, if_neg (by rw [stays]; exact Bool.false_ne_true)] at does
    have contextT (m : Nat) : (x.markFull.rearmSilence index s.settings.active s.time.counter).ended.context? m =
        x.context? m := State.context?_congr (by simp)
    have deadlinesT (m : Nat) (kind : DeadlineKind) (other : m ≠ index ∨ kind = .confirm) :
        (x.markFull.rearmSilence index s.settings.active s.time.counter).ended.deadlinesFor m kind =
          x.deadlinesFor m kind := by
      rw [State.ended_deadlinesFor, State.rearmSilence_deadlinesFor _ _ _ _ _ _ other]
      simp [State.deadlinesFor]
    refine ⟨_, exec_calm between does (by simp [nowX, nowW, nowU, calm]), ?_, ?_, fun _ => ⟨?_, ?_, ?_⟩,
      fun no => absurd shown no, fun m other => ?_, fun m kind other => ?_, ?_, ?_, ?_, ?_, ?_, ?_, ?_,
      State.ended_attention _⟩
    · simp [State.markFull, flightX, flightW, shown]
    · simp [intakeX, intakeW, intakeU]
    · rw [contextT, context, recordR]
      rfl
    · rw [deadlinesT _ _ (.inr rfl), confirm]
    · rw [State.ended_reports]
      exact State.reports_of_keeps x _ (fun _ h => by simpa [State.hasEvent] using h) (by simp) _ _ _ reported
    · rw [contextT, others m other, othersW m other]
    · rw [deadlinesT _ _ (.inl other), deadlines m kind other, deadlinesW]
    · simp [directoryX, directoryW, tableU]
    · simp [errors, eventsW, eventsU]
    · simp [forwarderX, forwarderW, forwarderU]
    · simp [partX, partW, partU]
    · simp [settingsX, settingsW, settingsU]
    · simp [slotMapX, slotMapW, slotMapU]
    · simp [pinsX, pinsW, pinsU]
  · rw [if_neg (by simpa using shown)] at does
    have stays : w.now.stopDue = false := by simp [nowW, nowU, calm]
    rw [State.goOn, if_neg (by simp [stays])] at does
    have contextT (m : Nat) : (w.rearmSilence index s.settings.active s.time.counter).ended.context? m =
        w.context? m := State.context?_congr (by simp)
    refine ⟨_, exec_calm between does (by simp [nowW, nowU, calm]), ?_, ?_, fun yes => absurd yes shown,
      fun _ => ⟨?_, ?_, ?_⟩, fun m other => ?_, fun m kind other => ?_, ?_, ?_, ?_, ?_, ?_, ?_, ?_,
      State.ended_attention _⟩
    · simp [flightW, shown]
    · simp [intakeW, intakeU]
    · rw [contextT, contextW, recordR]
    · simp [eventsW, eventsU]
    · simp [ownW, ownU]
    · rw [contextT, othersW m other]
    · rw [State.ended_deadlinesFor, State.rearmSilence_deadlinesFor _ _ _ _ _ _ (.inl other), deadlinesW]
    · simp [directoryW, tableU]
    · simp [eventsW, eventsU]
    · simp [forwarderW, forwarderU]
    · simp [partW, partU]
    · simp [settingsW, settingsU]
    · simp [slotMapW, slotMapU]
    · simp [pinsW, pinsU]

end Sys2Proof.Machine
end

section
/-!
Admission of a station, and its refusal.
-/

namespace Sys2Proof.Machine

set_option Elab.async false

variable {s t u v w : State} {index channel : Nat} {key : Key} {c d : Context} {report : Report}

/-! ### A station comes in, and its report is bound to it (R12, R14) -/

/-- The record of a station that has just come in (R12). -/
def Context.entered (key : Key) (station : StationState) (origin : Birth) (committed : Committed) (time : Time) : Context :=
  { key := key, station := station, correction := .none, busy := false, committed := committed, attempts := 0, age := 0,
    lastHeard := time, metrics := none, origin := origin, intact := true }

/-- A station comes in, with its event (R12, R14). -/
def State.enter (s : State) (index : Nat) (key : Key) (station : StationState) (origin : Birth) (stage : Stage)
    (interval code : Nat) : State :=
  (s.occupy index key station origin (initialCommitted (mainPosition s.settings.active key.channel)) s.time.counter stage
    interval).handOn { s.stationFields code key index with origin := origin.code } s.time.counter

theorem State.allocate_eq (s : State) (index : Nat) (report : Report) :
    s.allocate index report =
      (s.enter index report.key .contact .contact .contact (contactSilence s.settings.active report.channel) 1).goOn
        fun u => u.bindReport index 0 report := by
  unfold State.allocate State.enter
  simp [State.stationFields, Report.key]

theorem State.adopt_eq (s : State) (index : Nat) (report : Report) :
    s.adopt index report =
      (s.enter index report.key .tracking .adopted .dueWait (dueInterval s.settings.active report.channel) 2).goOn
        fun u => u.bindReport index 0 report := by
  unfold State.adopt State.enter
  simp [State.stationFields, Report.key]

theorem State.occupy_contexts (s : State) (index : Nat) (key : Key) (station : StationState) (origin : Birth)
    (committed : Committed) (time : Time) (stage : Stage) (interval : Nat) :
    (s.occupy index key station origin committed time stage interval).table.contexts =
      Table.set s.table.contexts index (Context.entered key station origin committed time) := by
  simp [State.occupy, State.writeContext, State.arm, State.removeDeadline, Context.entered]

/-- SILENCE armed at the coming in is armed the same at the taking (R44). -/
theorem silenceRearmed_entered (l : List Deadline) (index : Nat) (a : Table Word) (channel : Nat) (time : Time)
    {station : StationState} {stage : Stage} {interval : Nat}
    (waits : station = .contact ∧ stage = .contact ∧ interval = contactSilence a channel ∨
      station = .tracking ∧ stage = .dueWait ∧ interval = dueInterval a channel) :
    silenceRearmed (rearmed l index (.silence stage) (later time interval)) index a channel station time =
      rearmed l index (.silence stage) (later time interval) := by
  rcases waits with ⟨rfl, rfl, rfl⟩ | ⟨rfl, rfl, rfl⟩ <;> exact rearmed_rearmed _ _ _ _

/-- What the taking leaves that lets a station in, on a state with room for its event. -/
structure Entered (u t : State) (index : Nat) (report : Report) (station : StationState) (origin : Birth) (stage : Stage)
    (interval code : Nat) : Prop where
  context : t.context? index = some
    { Context.entered report.key station origin (initialCommitted (mainPosition u.settings.active report.channel))
        u.time.counter with busy := true }
  contexts : t.table.contexts = Table.set u.table.contexts index
    { Context.entered report.key station origin (initialCommitted (mainPosition u.settings.active report.channel))
        u.time.counter with busy := true }
  flight : t.flight =
    some
      { report := report, snapshot := u.settings.active, takeTime := u.time.counter, index := index, ageBefore := 0,
        full := true }
  time : t.time =
    { u.time with deadlines := rearmed u.time.deadlines index (.silence stage) (later u.time.counter interval) }
  said : t.reports { u.stationFields code report.key index with origin := origin.code } u.time.counter none = true
  reports : ∀ f time cause, u.reports f time cause = true → t.reports f time cause = true
  directory : t.table.directory = Table.set u.table.directory report.key.number index
  quarantined : t.table.quarantined = u.table.quarantined
  ageing : t.table.ageing = u.ageingCounted
  slotMap : t.slotMap = u.slotMap
  forwarder : t.forwarder = u.forwarder
  intake : t.intake = u.intake
  errors : t.events.errors = u.events.errors
  part : t.part = u.part
  settings : t.settings = u.settings
  straps : t.pins.straps = u.pins.straps
  attention : t.pins.attention = t.attentionLevel

theorem exec_enters {station : StationState} {origin : Birth} {stage : Stage} {interval code : Nat}
    (between : s.between = true)
    (does : effect .takeHead s =
      (u.enter index report.key station origin stage interval code).goOn fun v => v.bindReport index 0 report)
    (calm : u.now = { cause := none, stopDue := false }) (room : u.eventRoom 1 = true) (quiet : u.ageingQuiet = true)
    (waits : station = .contact ∧ stage = .contact ∧ interval = contactSilence u.settings.active report.channel ∨
      station = .tracking ∧ stage = .dueWait ∧ interval = dueInterval u.settings.active report.channel) :
    ∃ t, exec .takeHead s = .next t ∧ Entered u t index report station origin stage interval code := by
  have place : u.events.holding.length < Config.holdingPlaces := by simpa [State.eventRoom] using room
  obtain ⟨context, -, directory, time, errors, quarantined, said, keeps, -, slotMap, kept⟩ :=
    u.enters_does index report.key station origin (initialCommitted (mainPosition u.settings.active report.key.channel))
      u.time.counter stage interval { u.stationFields code report.key index with origin := origin.code } place
  have contexts : (u.enter index report.key station origin stage interval code).table.contexts =
      Table.set u.table.contexts index (Context.entered report.key station origin
        (initialCommitted (mainPosition u.settings.active report.key.channel)) u.time.counter) := by
    unfold State.enter
    simp only [State.handOn_frame]
    exact State.occupy_contexts _ _ _ _ _ _ _ _ _
  obtain ⟨w, hw⟩ : ∃ w, u.enter index report.key station origin stage interval code = w := ⟨_, rfl⟩
  have named : (u.occupy index report.key station origin
      (initialCommitted (mainPosition u.settings.active report.key.channel)) u.time.counter stage interval).handOn
        { u.stationFields code report.key index with origin := origin.code } u.time.counter = w := hw
  rw [named] at context directory time errors quarantined said keeps slotMap kept
  rw [hw] at does contexts
  have settings : w.settings = u.settings := kept.settings
  have nowW : w.now.stopDue = false := by rw [kept.now, calm]
  rw [State.goOn, if_neg (by rw [nowW]; exact Bool.false_ne_true)] at does
  have quietW : w.ageingQuiet = true := (State.ageingQuiet_congr (by rw [settings]) kept.ageing).trans quiet
  have counted : w.ageingCounted = u.ageingCounted := State.ageingCounted_congr (by rw [settings]) kept.ageing
  obtain ⟨t, step, bound⟩ := exec_binds between does context rfl rfl
    (waits.imp (fun h => h.1) fun h => h.1) nowW quietW
  have counter : w.time.counter = u.time.counter := by rw [time]
  refine ⟨t, step, ?_, ?_, ?_, ?_, ?_, fun f time cause had => ?_, ?_, ?_, ?_, ?_, ?_, ?_, ?_, ?_, ?_, ?_, bound.attention⟩
  · rw [bound.context, counter]
    rfl
  · rw [bound.contexts, contexts, Table.set_set, counter]
    rfl
  · rw [bound.flight, settings, counter]
  · rw [bound.time, settings, counter, time]
    dsimp only
    rw [silenceRearmed_entered _ _ _ report.key.channel _ waits]
  · rw [calm] at said
    exact bound.reports _ _ _ said
  · exact bound.reports _ _ _ (State.reports_of_keeps u w keeps (by rw [settings]) _ _ _ had)
  · rw [bound.directory, directory]
  · rw [bound.quarantined, quarantined]
  · rw [bound.ageing, counted]
  · rw [bound.slotMap, slotMap]
  · rw [bound.forwarder, kept.forwarder]
  · rw [bound.intake, kept.intake]
  · rw [bound.errors, errors]
  · rw [bound.part, kept.part]
  · rw [bound.settings, settings]
  · rw [bound.straps, kept.pins]

/-! ### The reclaim scan (R13) -/

theorem Context.reclaimable_iff : c.reclaimable channel = true ↔ Reclaimable c channel := by
  simp [Context.reclaimable, Reclaimable, and_assoc]

/-- The scan finds the first candidate, where no record before it is damaged. -/
theorem State.reclaimScan_finds (hc : s.context? index = some c) (intact : c.intact = true)
    (candidate : Reclaimable c channel)
    (before : ∀ m d, m < index → s.context? m = some d → d.intact = true ∧ ¬Reclaimable d channel) :
    ∀ l : List Nat, l.Pairwise (· < ·) → index ∈ l → State.reclaimScan channel l s = (s, some index) := by
  intro l sorted mem
  induction l with
  | nil => cases mem
  | cons m rest ih =>
    obtain ⟨first, sorted⟩ := List.pairwise_cons.mp sorted
    unfold State.reclaimScan
    by_cases same : m = index
    · subst same
      rw [hc]
      dsimp only
      rw [if_pos intact, if_pos (Context.reclaimable_iff.mpr candidate)]
    · have found := ih sorted ((List.mem_cons.mp mem).resolve_left (Ne.symm same))
      have earlier : m < index := first index ((List.mem_cons.mp mem).resolve_left (Ne.symm same))
      cases hd : s.context? m with
      | none => exact found
      | some d =>
        obtain ⟨intactD, no⟩ := before m d earlier hd
        dsimp only
        rw [if_pos intactD, if_neg (by simpa [Context.reclaimable_iff] using no)]
        exact found

/-- It finds none where none is a candidate, and none damaged. -/
theorem State.reclaimScan_none (none1 : ∀ m d, s.context? m = some d → d.intact = true ∧ ¬Reclaimable d channel) :
    ∀ l : List Nat, State.reclaimScan channel l s = (s, none) := by
  intro l
  induction l with
  | nil => rfl
  | cons m rest ih =>
    unfold State.reclaimScan
    cases hd : s.context? m with
    | none => exact ih
    | some d =>
      obtain ⟨intact, no⟩ := none1 m d hd
      dsimp only
      rw [if_pos intact, if_neg (by simpa [Context.reclaimable_iff] using no)]
      exact ih

/-! ### The counts of a context given on (R13) -/

theorem Table.set_erase {α : Type} (t : Table α) (n : Nat) (v : α) (wf : Table.wf t = true) :
    Table.set (Table.erase t n) n v = Table.set t n v := by
  rw [Table.wf_iff] at wf
  induction t with
  | nil => rfl
  | cons p t ih =>
    obtain ⟨k, x⟩ := p
    obtain ⟨first, sorted⟩ := List.pairwise_cons.mp wf
    have later_ : n ≤ k → Table.erase t n = t := fun le => by
      unfold Table.erase
      rw [List.filter_eq_self]
      intro q hq
      have := first q hq
      simp only [bne_iff_ne]
      omega
    have ih := ih sorted
    by_cases same : n = k
    · subst same
      have gone : Table.erase ((n, x) :: t) n = t := by
        simpa [Table.erase] using later_ (Nat.le_refl n)
      rw [gone]
      cases t with
      | nil => simp [Table.set]
      | cons q t =>
        have := first q (by simp)
        simp only [Table.set, if_pos this, Nat.lt_irrefl, if_false, if_true]
    · have kept : Table.erase ((k, x) :: t) n = (k, x) :: Table.erase t n := by
        simp [Table.erase, Ne.symm same]
      rw [kept]
      by_cases below : n < k
      · simp [Table.set, below, later_ below.le]
      · simp [Table.set, below, same, ih]

/-- A record set in the place of one of which the same holds leaves what is counted. -/
theorem Table.length_filter_set {α : Type} {t : Table α} {n : Nat} {v w : α} (p : Nat × α → Bool)
    (wf : Table.wf t = true) (h : Table.get? t n = some w) (same : p (n, v) = p (n, w)) :
    ((Table.set t n v).filter p).length = (t.filter p).length := by
  rw [Table.wf_iff] at wf
  induction t with
  | nil => cases h
  | cons q t ih =>
    obtain ⟨k, x⟩ := q
    obtain ⟨first, sorted⟩ := List.pairwise_cons.mp wf
    by_cases here : n = k
    · subst here
      have value : x = w := by simpa [Table.get?] using h
      subst value
      simp [Table.set, List.filter_cons, same]
      split <;> rfl
    · have rest : Table.get? t n = some w := by simpa [Table.get?, here] using h
      have above : ¬ n < k := by
        have := first (n, w) (Table.mem_keys_of_get? t n w rest)
        omega
      simp only [Table.set, if_neg above, if_neg here, List.filter_cons]
      split <;> simp [ih sorted rest]

/-! ### What decides an admission (R12, R14) -/

theorem State.admitFirstContact_allocates (free : s.lowestFree = some index) (room : 0 < s.freeCount)
    (below : s.occupiedCount report.channel < quota s.settings.active report.channel) :
    s.admitFirstContact report = s.allocate index report := by
  unfold State.admitFirstContact
  simp [free, room, below]

/-- Whether a station can be allocated (R12). -/
theorem State.allocation_refused
    (full : s.freeCount = 0 ∨ quota s.settings.active report.channel ≤ s.occupiedCount report.channel) :
    (decide (0 < s.freeCount) && decide (s.occupiedCount report.channel < quota s.settings.active report.channel)) =
      false := by
  simp only [Bool.and_eq_false_iff, decide_eq_false_iff_not]
  omega

theorem State.admitFirstContact_reclaims
    (full : s.freeCount = 0 ∨ quota s.settings.active report.channel ≤ s.occupiedCount report.channel)
    (found : State.reclaimScan report.channel s.table.contexts.keys s = (s, some index)) :
    s.admitFirstContact report =
      (s.releaseStation index .reclaimed s.time.counter 0).goOn fun u => u.allocate index report := by
  unfold State.admitFirstContact
  simp only [State.allocation_refused full, found]

theorem State.admitFirstContact_refuses
    (full : s.freeCount = 0 ∨ quota s.settings.active report.channel ≤ s.occupiedCount report.channel)
    (found : State.reclaimScan report.channel s.table.contexts.keys s = (s, none)) :
    s.admitFirstContact report = s.goOn fun u => u.refuse report .noContext := by
  unfold State.admitFirstContact
  simp only [State.allocation_refused full, found]

theorem State.admitKeepalive_adopts (free : s.lowestFree = some index)
    (on : adoptEnabled s.settings.active report.channel = true)
    (reserve : firstContactReserve s.settings.active < s.freeCount)
    (below : s.occupiedCount report.channel < quota s.settings.active report.channel) :
    s.admitKeepalive report = s.adopt index report := by
  unfold State.admitKeepalive
  simp [free, on, Nat.not_le.mpr reserve, Nat.not_le.mpr below]

theorem State.lowestFree_congr (h : u.table = s.table) : u.lowestFree = s.lowestFree := by
  simp [State.lowestFree, State.context?, h]

theorem State.freeCount_congr (h : u.table = s.table) : u.freeCount = s.freeCount := by
  simp [State.freeCount, State.vacantCount, h]

theorem State.occupiedCount_congr (h : u.table = s.table) : u.occupiedCount channel = s.occupiedCount channel := by
  simp [State.occupiedCount, h]

theorem State.admitReport_unknown_first (first : report.kind = .firstContact) :
    s.admitReport none report = s.admitFirstContact report := by
  simp [State.admitReport, first]

theorem State.admitReport_unknown_keepalive (kind : report.kind = .keepalive) :
    s.admitReport none report = s.admitKeepalive report := by
  simp [State.admitReport, kind]

/-- The first admission: by a context that is free (R12, R14). -/
theorem exec_admits {rest : List Report} {station : StationState} {origin : Birth} {stage : Stage} {interval code : Nat}
    (between : s.between = true) (running : s.part = .running) (idle : s.flight = none)
    (queue : s.intake.queue = report :: rest) (unknown : s.unknown report.key = true) (quiet : s.ageingQuiet = true)
    (room : s.eventRoom 1 = true)
    (admits : (s.dequeued rest).admitReport none report =
      ((s.dequeued rest).enter index report.key station origin stage interval code).goOn
        fun v => v.bindReport index 0 report)
    (waits : station = .contact ∧ stage = .contact ∧ interval = contactSilence s.settings.active report.channel ∨
      station = .tracking ∧ stage = .dueWait ∧ interval = dueInterval s.settings.active report.channel) :
    ∃ t, exec .takeHead s = .next t ∧ Entered (s.dequeued rest) t index report station origin stage interval code := by
  obtain ⟨-, now, -⟩ := s.between_iff.mp between
  have does := (effect_takeHead_unknown between running idle queue unknown).trans admits
  exact exec_enters between does (by simp [now]) ((State.eventRoom_congr (by simp)).trans room)
    ((State.ageingQuiet_congr (by simp) (by simp)).trans quiet) (by simpa using waits)

/-- Settles O47: a free context is given, or an aged one of the channel is released for it. -/
theorem takingAdmitsNewStation : Obligations.TakingAdmitsNewStation := by
  constructor
  · intro s e rest index between running idle queue unknown quiet room a now first admitted below bound vacant healthy lowest key
    obtain ⟨-, calm, -⟩ := s.between_iff.mp between
    have free : (s.dequeued rest).lowestFree = some index :=
      (State.lowestFree_congr (by simp)).trans ((s.lowestFree_iff index).mpr ⟨bound, vacant, healthy, lowest⟩)
    have count : (s.dequeued rest).freeCount = s.freeCount := State.freeCount_congr (by simp)
    have below : (s.dequeued rest).occupiedCount e.channel < quota (s.dequeued rest).settings.active e.channel := by
      rw [State.occupiedCount_congr (s := s) (by simp)]
      simpa using below
    obtain ⟨t, step, entered⟩ : ∃ t, exec .takeHead s = .next t ∧
        Entered (s.dequeued rest) t index e (if first then .contact else .tracking) (if first then .contact else .adopted)
          (if first then .contact else .dueWait) (if first then contactSilence a e.channel else dueInterval a e.channel)
          (if first then 1 else 2) := by
      by_cases kind : first
      · simp only [if_pos kind]
        refine exec_admits between running idle queue unknown quiet room ?_ (.inl ⟨rfl, rfl, rfl⟩)
        rcases admitted with ⟨-, some1⟩ | ⟨other, -⟩
        · rw [State.admitReport_unknown_first kind, State.admitFirstContact_allocates free (by rwa [count]) below,
            State.allocate_eq]
          simp [a]
        · simp only [first, other] at kind
          cases kind
      · simp only [if_neg kind]
        refine exec_admits between running idle queue unknown quiet room ?_ (.inr ⟨rfl, rfl, rfl⟩)
        rcases admitted with ⟨yes, -⟩ | ⟨keepalive, on, reserve⟩
        · exact absurd yes kind
        · rw [State.admitReport_unknown_keepalive keepalive,
            State.admitKeepalive_adopts free (by simpa using on) (by simpa [count] using reserve) below, State.adopt_eq]
          simp [a]
    have others (m : Nat) (other : m ≠ index) : t.context? m = s.context? m := by
      simp [State.context?, entered.contexts, Table.get?_set, other]
    have code : (if first then Birth.contact else Birth.adopted).code = if first then 0 else 1 := by
      split <;> rfl
    have fields (n : Nat) : (s.dequeued rest).stationFields n e.key index = s.stationFields n e.key index := by
      simp [State.stationFields]
    refine ⟨t, step, ?_, ?_, ?_, ?_, ?_, others, ?_, ?_, ?_, ?_, ?_, ?_, ?_, ?_, ?_, entered.attention⟩
    · rw [entered.context]
      simp [Context.entered, initialCommitted, key, now, a, Report.key]
    · simpa using entered.flight
    · rw [entered.directory]
      exact Table.get?_set_self _ _ _
    · simpa using entered.time
    · have said := entered.said
      rw [fields, code, show (s.dequeued rest).time.counter = s.time.counter by simp] at said
      exact said
    · simpa using entered.intake
    · simpa using entered.quarantined
    · rw [entered.ageing]
      exact State.ageingCounted_congr (by simp) (by simp)
    · simpa using entered.errors
    · simpa using entered.forwarder
    · simpa using entered.part
    · simpa using entered.settings
    · simpa using entered.slotMap
    · simpa using entered.straps
  · intro s e rest index c between running idle none1 queue kind unknown quiet room wf a now full hc intact candidate before key
    obtain ⟨-, calm, -⟩ := s.between_iff.mp between
    obtain ⟨u, hu⟩ : ∃ u, s.dequeued rest = u := ⟨_, rfl⟩
    have frameU : u.pins = s.pins ∧ u.part = s.part ∧ u.forwarder = s.forwarder ∧ u.settings = s.settings ∧
        u.intake = { s.intake with queue := rest } ∧ u.flight = s.flight ∧ u.table = s.table ∧ u.slotMap = s.slotMap ∧
        u.time = s.time ∧ u.events = s.events ∧ u.now = s.now := by simp [← hu]
    obtain ⟨pinsU, partU, forwarderU, settingsU, intakeU, flightU, tableU, slotMapU, timeU, eventsU, nowU⟩ := frameU
    have contextU (m : Nat) : u.context? m = s.context? m := State.context?_congr tableU
    have hcU : u.context? index = some c := (contextU index).trans hc
    have sorted : (u.table.contexts.keys).Pairwise (· < ·) := by
      rw [tableU]
      exact List.pairwise_map.mpr ((Table.wf_iff _).mp wf)
    have listed : index ∈ u.table.contexts.keys :=
      List.mem_map.mpr ⟨_, Table.mem_keys_of_get? _ _ _ hcU, rfl⟩
    have found := State.reclaimScan_finds hcU intact candidate
      (fun m d earlier hd => before m d earlier ((contextU m).symm.trans hd)) _ sorted listed
    have fullU : u.freeCount = 0 ∨ quota u.settings.active e.channel ≤ u.occupiedCount e.channel := by
      rwa [State.freeCount_congr tableU, State.occupiedCount_congr tableU, settingsU]
    have rooms : s.events.holding.length + 2 ≤ Config.holdingPlaces := by simpa [State.eventRoom] using room
    have roomU : u.eventRoom 1 = true := by
      rw [State.eventRoom_congr eventsU]
      simp only [State.eventRoom, decide_eq_true_eq]
      omega
    obtain ⟨released, reported, errors, quarantined, length, kept⟩ :=
      u.release_does index c .reclaimed u.time.counter 0 hcU roomU
    have table := u.release_table index .reclaimed u.time.counter 0 hcU
    obtain ⟨v, hv⟩ : ∃ v, u.release index .reclaimed u.time.counter 0 = v := ⟨_, rfl⟩
    rw [hv] at released reported errors quarantined length kept table
    have quietly : u.releaseStation index .reclaimed u.time.counter 0 = v := by
      unfold State.releaseStation
      rw [hv]
      exact v.settleHeld_empty fun _ => by rw [kept.forwarder, forwarderU, none1]
    have contextsV : v.table.contexts = Table.erase s.table.contexts index := by
      rw [table]
      simp [State.vacate, State.abandonFor, flightU, idle, State.removeDeadlines, State.clearSlotsOf, tableU]
    have calmV : v.now = { cause := none, stopDue := false } := by rw [kept.now, nowU, calm]
    have does : effect .takeHead s = (v.enter index e.key .contact .contact .contact
        (contactSilence v.settings.active e.channel) 1).goOn fun x => x.bindReport index 0 e := by
      rw [effect_takeHead_unknown between running idle queue unknown, hu, State.admitReport_unknown_first kind,
        State.admitFirstContact_reclaims fullU found, quietly, State.goOn, if_neg (by simp [calmV]), State.allocate_eq]
    have roomV : v.eventRoom 1 = true := by
      rw [eventsU] at length
      simp only [State.eventRoom, decide_eq_true_eq]
      omega
    have settingsV : v.settings = s.settings := kept.settings.trans settingsU
    have ageingV : v.table.ageing = s.table.ageing := kept.ageing.trans (by rw [tableU])
    have quietV : v.ageingQuiet = true := (State.ageingQuiet_congr (by rw [settingsV]) ageingV).trans quiet
    obtain ⟨t, step, entered⟩ := exec_enters between does calmV roomV quietV (.inl ⟨rfl, rfl, rfl⟩)
    have counter : v.time.counter = s.time.counter := by rw [kept.counter, timeU]
    have contexts : t.table.contexts = Table.set s.table.contexts index
        { Context.entered e.key .contact .contact (initialCommitted (mainPosition a e.channel)) now with busy := true } := by
      rw [entered.contexts, contextsV, Table.set_erase _ _ _ wf, settingsV, counter]
    obtain ⟨sameChannel, -⟩ := candidate
    have counted (p : Nat × Context → Bool) (same : ∀ d : Context, d.key.channel = e.channel → p (index, d) = p (index, c)) :
        (t.table.contexts.filter p).length = (s.table.contexts.filter p).length := by
      rw [contexts]
      exact Table.length_filter_set p wf hc (same _ rfl)
    have occupied : t.table.contexts.length = s.table.contexts.length := by
      simpa using counted (fun _ => true) fun _ _ => rfl
    have quarantinedT : t.table.quarantined = s.table.quarantined := by
      rw [entered.quarantined, quarantined, if_neg (by decide), tableU]
    have fieldsR : u.releasedFields c index .reclaimed 0 = s.releasedFields c index .reclaimed 0 :=
      State.releasedFields_congr (by rw [settingsU])
    have fields : v.stationFields 1 e.key index = s.stationFields 1 e.key index := by
      simp [State.stationFields, settingsV]
    have causeU : u.now.cause = none := by rw [nowU, calm]
    have counterU : u.time.counter = s.time.counter := by rw [timeU]
    have othersT (m : Nat) (other : m ≠ index) : t.context? m = s.context? m := by
      simp [State.context?, contexts, Table.get?_set, other]
    refine ⟨t, step, ?_, othersT, ?_, ?_, ?_, ?_, ?_, ?_, ?_, quarantinedT, ?_, ?_, ?_, ?_, ?_, ?_, ?_, ?_, entered.attention⟩
    · rw [entered.context, settingsV, counter]
      rfl
    · rw [entered.flight, settingsV, counter]
    · rw [entered.directory, released.directory, tableU]
      rfl
    · have sameTime : v.time = { s.time with deadlines := s.time.deadlines.filter fun d => d.index != index } := by
        rw [← hv, State.release, hcU]
        simp [State.vacate, State.abandonFor, flightU, idle, State.removeDeadlines, State.clearSlotsOf, timeU]
      rw [entered.time, sameTime, settingsV]
      dsimp only
      rw [rearmed_forgotten]
    · rw [entered.slotMap, released.slotMap, slotMapU]
    · rw [fieldsR, counterU, causeU] at reported
      exact entered.reports _ _ _ reported
    · have said := entered.said
      rw [fields, counter] at said
      exact said
    · rw [entered.intake, kept.intake, intakeU]
    · rw [entered.ageing]
      exact State.ageingCounted_congr (by rw [settingsV]) ageingV
    · simp [State.freeCount, State.vacantCount, occupied, quarantinedT]
    · exact counted (fun p => p.2.key.channel == e.channel) fun d hd => by simp [hd, sameChannel]
    · rw [entered.errors, errors, eventsU]
    · rw [entered.forwarder, kept.forwarder, forwarderU]
    · rw [entered.part, kept.part, partU]
    · rw [entered.settings, settingsV]
    · rw [entered.straps, kept.pins, pinsU]

end Sys2Proof.Machine
end

section
/-!
Reports that are turned away.
-/

namespace Sys2Proof.Machine

set_option Elab.async false

variable {s t u v w : State} {index : Nat} {c d : Context} {report : Report} {rest : List Report}

/-! ### A refusal (R15) -/

/-- What the end of a taking keeps of the state that it ends, where the corrector was idle. -/
structure TurnedAway (s t : State) : Prop where
  intake : t.intake = s.intake
  flight : t.flight = none
  table : t.table = s.table
  time : t.time = s.time
  slotMap : t.slotMap = s.slotMap
  active : t.settings.active = s.settings.active
  staging : t.settings.staging = s.settings.staging
  straps : t.pins.straps = s.pins.straps
  attention : t.pins.attention = t.attentionLevel
  untouched : t.part = s.part → t.forwarder = s.forwarder ∧ t.settings = s.settings

theorem TurnedAway.ended (idle : s.flight = none) (f : EventFields) (time : Time) :
    TurnedAway s (s.handOn f time).ended := by
  refine ⟨?_, ?_, ?_, ?_, ?_, ?_, ?_, ?_, State.ended_attention _, fun _ => ?_⟩ <;> simp [idle]

/-- An entry to STOPPED with no correction in flight (R180). -/
theorem TurnedAway.stopped (idle : s.flight = none) (running : s.part = .running) (f : EventFields) (time : Time) :
    TurnedAway s
      (State.enterStopped { s.handOn f time with now := { (s.handOn f time).now with stopDue := false } }).ended := by
  have kept (v : State) (none1 : v.flight = none) : v.endFlight = v := by
    unfold State.endFlight
    rw [none1]
  have stays := kept (State.abandonDrain { s.handOn f time with now := { (s.handOn f time).now with stopDue := false } })
    (by simp [idle])
  unfold State.enterStopped
  rw [stays]
  refine ⟨?_, ?_, ?_, ?_, ?_, ?_, ?_, ?_, State.ended_attention _, fun no => ?_⟩
  case refine_9 => simp [running] at no
  all_goals simp [idle]

/-- A refusal hands its event on; where the holding queue is full and the event's kind is on, EVENT_LOSS is set. -/
theorem exec_refuses {f : EventFields} {code : Nat} (between : s.between = true) (running : s.part = .running)
    (idle : s.flight = none) (does : effect .takeHead s = (s.dequeued rest).handOn f s.time.counter)
    (kind : f.kind = code) :
    ∃ t, exec .takeHead s = .next t ∧ TurnedAway (s.dequeued rest) t ∧
      (s.eventRoom 1 = true →
        t.reports f s.time.counter none = true ∧ t.events.errors = s.events.errors ∧ t.part = s.part) ∧
      (s.eventRoom 1 = false → eventEnabled s.settings.active code = true → s.tolerates .eventLoss = true →
        t.events.lost = true ∧ t.events.errors = s.events.errors ||| 128#10 ∧ t.events.holding = s.events.holding ∧
          t.events.sequence = s.events.sequence ∧ t.part = s.part) := by
  obtain ⟨-, calm, -⟩ := s.between_iff.mp between
  have frame : (s.dequeued rest).flight = s.flight ∧ (s.dequeued rest).part = s.part ∧
      (s.dequeued rest).events = s.events ∧ (s.dequeued rest).settings = s.settings ∧
      (s.dequeued rest).now = s.now := by simp
  generalize s.dequeued rest = u at does frame ⊢
  obtain ⟨flight, part, events, settings, now⟩ := frame
  have idleU : u.flight = none := flight.trans idle
  cases room : s.eventRoom 1 with
  | true =>
    have place : u.events.holding.length < Config.holdingPlaces := by
      rw [events]
      simpa [State.eventRoom] using room
    obtain ⟨nowW, errors, -⟩ := u.handOn_calm f s.time.counter place
    have said := u.handOn_reports f s.time.counter place
    rw [now, calm] at said
    refine ⟨_, exec_calm between does (by simp [nowW, now, calm]), TurnedAway.ended idleU _ _, fun _ => ⟨?_, ?_, ?_⟩,
      nofun⟩
    · rw [State.ended_reports]
      exact said
    · simp [errors, events]
    · simp [part]
  | false =>
    have full : Config.holdingPlaces ≤ u.events.holding.length := by
      rw [events]
      simp only [State.eventRoom, decide_eq_false_iff_not] at room
      omega
    have lost := u.handOn_full f s.time.counter full
    rw [kind] at lost
    by_cases due : (u.handOn f s.time.counter).now.stopDue = true
    · have upU : u.part ≠ .stopped := by rw [part, running]; decide
      refine ⟨_, exec_fatal between does due (by simpa using upU), TurnedAway.stopped idleU (part.trans running) _ _,
        nofun, fun _ on tolerated => ?_⟩
      have mild : u.tolerates .eventLoss = true := by
        unfold State.tolerates at tolerated ⊢
        rwa [settings]
      have quiet := State.markError_now { u with events := { u.events with lost := true } } .eventLoss mild
      rw [lost, if_pos (by rwa [settings]), quiet] at due
      simp [now, calm] at due
    · refine ⟨_, exec_calm between does (by simpa using due), TurnedAway.ended idleU _ _, nofun,
        fun _ on _ => ?_⟩
      have marked := State.markError_events { u with events := { u.events with lost := true } } .eventLoss
      rw [if_pos (by rwa [settings])] at lost
      rw [← lost] at marked
      dsimp only at marked
      rw [events] at marked
      refine ⟨?_, ?_, ?_, ?_, ?_⟩
      · simp [marked]
      · simp [marked, ErrorKind.code]
      · simp [marked]
      · simp [marked]
      · simp [part]

/-- What decides a refusal, and its cause (R15). -/
theorem State.admitReport_refuses {cause : RefusalCause} (calm : s.now.stopDue = false)
    (why : (report.kind = .keepalive ∧ adoptEnabled s.settings.active report.channel = false ∧ cause = .adoptOff) ∨
      (report.kind = .keepalive ∧ adoptEnabled s.settings.active report.channel = true ∧
        s.freeCount ≤ firstContactReserve s.settings.active ∧ cause = .reserve) ∨
      (report.kind = .keepalive ∧ adoptEnabled s.settings.active report.channel = true ∧
        firstContactReserve s.settings.active < s.freeCount ∧
        quota s.settings.active report.channel ≤ s.occupiedCount report.channel ∧ cause = .quota) ∨
      (report.kind = .firstContact ∧
        (s.freeCount = 0 ∨ quota s.settings.active report.channel ≤ s.occupiedCount report.channel) ∧
        (∀ m d, s.context? m = some d → d.intact = true ∧ ¬Reclaimable d report.channel) ∧ cause = .noContext)) :
    s.admitReport none report = s.refuse report cause := by
  rcases why with ⟨kind, off, rfl⟩ | ⟨kind, on, reserve, rfl⟩ | ⟨kind, on, reserve, full, rfl⟩ | ⟨kind, full, none1, rfl⟩
  · simp [State.admitReport_unknown_keepalive kind, State.admitKeepalive, off]
  · simp [State.admitReport_unknown_keepalive kind, State.admitKeepalive, on, reserve]
  · simp [State.admitReport_unknown_keepalive kind, State.admitKeepalive, on, Nat.not_le.mpr reserve, full]
  · rw [State.admitReport_unknown_first kind, State.admitFirstContact_refuses full (State.reclaimScan_none none1 _),
      State.goOn, if_neg (by rw [calm]; exact Bool.false_ne_true)]

/-- A damaged record is released at the lookup, and its key is unknown (R27). -/
theorem effect_takeHead_damaged (running : s.part = .running) (idle : s.flight = none)
    (queue : s.intake.queue = report :: rest) (entry : Table.get? s.table.directory report.key.number = some index)
    (hc : s.context? index = some c) (damaged : c.intact = false) :
    effect .takeHead s =
      ((s.dequeued rest).integrityRelease index s.time.counter).goOn fun v => v.admitReport none report := by
  have looked : (s.dequeued rest).lookup report.key s.time.counter =
      ((s.dequeued rest).integrityRelease index s.time.counter, none) := by
    have entry : Table.get? (s.dequeued rest).table.directory report.key.number = some index := by simpa using entry
    have hc : (s.dequeued rest).context? index = some c := (State.context?_congr (by simp)).trans hc
    unfold State.lookup
    rw [entry]
    dsimp only
    rw [hc]
    simp [damaged]
  rw [effect_takeHead running idle queue, looked]

theorem Released.of_dequeued (h : Released (s.dequeued rest) t index) : Released s t index :=
  ⟨h.gone, h.others, h.directory, h.slotMap, h.deadlines, h.flight⟩

/-- Settles O48: DATA goes, a refusal is told with its cause, and a damaged record is released. -/
theorem takingTurnsUnknownAway : Obligations.TakingTurnsUnknownAway := by
  constructor
  · intro s e rest between running idle queue unknown a
    obtain ⟨-, calm, -⟩ := s.between_iff.mp between
    have unknownTaken := effect_takeHead_unknown between running idle queue unknown
    refine ⟨fun data => ?_, fun cause why => ?_⟩
    · have does : effect .takeHead s = s.dequeued rest := by
        rw [unknownTaken]
        simp [State.admitReport, data]
      exact exec_quiet between does
    · have table : (s.dequeued rest).table = s.table := by simp
      have settings : (s.dequeued rest).settings = s.settings := by simp
      have context (m : Nat) : (s.dequeued rest).context? m = s.context? m := State.context?_congr table
      have refused := State.admitReport_refuses (s := s.dequeued rest) (report := e) (cause := cause) (by simp [calm])
        (by
          simp only [settings, State.freeCount_congr table, State.occupiedCount_congr table, context]
          exact why)
      have does : effect .takeHead s = (s.dequeued rest).handOn
          { kind := 6, tag := e.tag, number := claimedNumber a e.channel, burst := e.kind.code,
            channel := some e.channel, reason := cause.code } s.time.counter := by
        rw [unknownTaken, refused]
        simp [State.refuse, a]
      obtain ⟨t, step, away, room, full⟩ := exec_refuses between running idle does rfl
      refine ⟨t, step, ?_, room, full, away.flight, ?_, ?_, ?_, ?_, ?_, ?_, away.attention, fun part => ?_⟩
      · simpa using away.intake
      · simpa using away.table
      · simpa using away.time
      · simpa using away.slotMap
      · simpa using away.active
      · simpa using away.staging
      · simpa using away.straps
      · simpa using away.untouched (by simpa using part)
  · intro s e rest index c between running idle none1 queue data entry hc damaged room
    obtain ⟨-, calm, -⟩ := s.between_iff.mp between
    have hcU : (s.dequeued rest).context? index = some c := (State.context?_congr (by simp)).trans hc
    obtain ⟨released, reported, errors, quarantined, -, kept⟩ :=
      (s.dequeued rest).integrityRelease_does index c s.time.counter hcU
        ((State.damageRoom_congr (by simp) (by simp)).trans room)
    have does := effect_takeHead_damaged running idle queue entry hc damaged
    generalize (s.dequeued rest).integrityRelease index s.time.counter = v at *
    have calmV : v.now = { cause := none, stopDue := false } := by rw [kept.now]; simpa using calm
    have nothing : v.admitReport none e = v := by simp [State.admitReport, data]
    rw [State.goOn, if_neg (by simp [calmV]), nothing] at does
    have fields : (s.dequeued rest).releasedFields c index .integrity 0 = s.releasedFields c index .integrity 0 :=
      State.releasedFields_congr (by simp)
    have cause : (s.dequeued rest).now.cause = none := by simp [calm]
    rw [fields, cause] at reported
    have failed : FailedCheck s v index c s.time.counter none :=
      ⟨released.of_dequeued, by simpa using quarantined, by simpa using errors,
        State.reportsSince_of reported (fun _ h => h) rfl⟩
    refine ⟨_, exec_calm between does (by simp [calmV]), failed.ended, ?_, ?_, ?_, ?_, ?_, ?_, ?_, State.ended_attention _⟩
    · simp [released.flight, idle]
    · simp [kept.intake]
    · simp [kept.ageing]
    · simp [kept.forwarder]
    · simp [kept.part]
    · simp [kept.settings]
    · simp [kept.pins]

end Sys2Proof.Machine
end

section
/-!
The ageing step.
-/

namespace Sys2Proof.Machine

set_option Elab.async false

variable {s t u v w : State} {index : Nat} {c d : Context} {report : Report} {rest : List Report}

/-! ### Canonical tables are known by what they hold -/

/-- A canonical table holds nothing below its first number. -/
theorem Table.get?_below {α : Type} {t : Table α} {k n : Nat} {v : α} (wf : Table.wf ((k, v) :: t) = true)
    (below : n < k) : Table.get? ((k, v) :: t) n = none := by
  rw [Table.wf_iff] at wf
  obtain ⟨first, -⟩ := List.pairwise_cons.mp wf
  cases h : Table.get? ((k, v) :: t) n with
  | none => rfl
  | some w =>
    rcases List.mem_cons.mp (Table.mem_keys_of_get? _ _ _ h) with same | rest
    · cases same
      omega
    · have := first _ rest
      omega

theorem Table.get?_head {α : Type} (t : Table α) (k : Nat) (v : α) : Table.get? ((k, v) :: t) k = some v := if_pos rfl

theorem Table.wf_tail {α : Type} {t : Table α} {p : Nat × α} (wf : Table.wf (p :: t) = true) : Table.wf t = true :=
  (Table.wf_iff t).mpr (List.pairwise_cons.mp ((Table.wf_iff _).mp wf)).2

theorem Table.get?_tail {α : Type} {t : Table α} {k n : Nat} {v : α} (wf : Table.wf ((k, v) :: t) = true) :
    Table.get? t n = if n = k then none else Table.get? ((k, v) :: t) n := by
  split
  next same =>
    subst same
    rw [Table.wf_iff] at wf
    obtain ⟨first, -⟩ := List.pairwise_cons.mp wf
    cases h : Table.get? t n with
    | none => rfl
    | some w => exact absurd (first _ (Table.mem_keys_of_get? _ _ _ h)) (Nat.lt_irrefl n)
  next other => simp [Table.get?, other]

theorem Table.ext {α : Type} {t u : Table α} (wfT : Table.wf t = true) (wfU : Table.wf u = true)
    (same : ∀ n, Table.get? t n = Table.get? u n) : t = u := by
  induction t generalizing u with
  | nil =>
    cases u with
    | nil => rfl
    | cons q u =>
      have found := same q.1
      rw [Table.get?_head] at found
      cases found
  | cons p t ih =>
    obtain ⟨k, v⟩ := p
    cases u with
    | nil =>
      have found := same k
      rw [Table.get?_head] at found
      cases found
    | cons q u =>
      obtain ⟨l, w⟩ := q
      have first := same k
      have second := same l
      rw [Table.get?_head] at first second
      have keys : k = l := by
        by_contra other
        rcases Nat.lt_or_gt_of_ne other with lt | gt
        · rw [Table.get?_below wfU lt] at first
          cases first
        · rw [Table.get?_below wfT gt] at second
          cases second
      subst keys
      rw [Table.get?_head] at first
      cases first
      rw [ih (Table.wf_tail wfT) (Table.wf_tail wfU) fun n => by rw [Table.get?_tail wfT, Table.get?_tail wfU, same]]

theorem Table.get?_map {α : Type} (t : Table α) (g : α → α) (n : Nat) :
    Table.get? (t.map fun p => (p.1, g p.2)) n = (Table.get? t n).map g := by
  induction t with
  | nil => rfl
  | cons p t ih =>
    by_cases same : n = p.1 <;> simp [Table.get?, same, ih]

theorem Table.wf_map {α : Type} {t : Table α} (g : α → α) (wf : Table.wf t = true) :
    Table.wf (t.map fun p => (p.1, g p.2)) = true := by
  rw [Table.wf_iff] at wf ⊢
  exact List.pairwise_map.mpr wf

theorem Table.nodup_keys {α : Type} {t : Table α} (wf : Table.wf t = true) : t.keys.Nodup :=
  (List.pairwise_map.mpr ((Table.wf_iff t).mp wf)).imp fun lt => Nat.ne_of_lt lt

theorem Table.mem_keys_iff {α : Type} {t : Table α} {n : Nat} : n ∈ t.keys ↔ Table.get? t n ≠ none := by
  constructor
  · intro mem
    induction t with
    | nil => cases mem
    | cons p t ih =>
      by_cases same : n = p.1
      · simp [Table.get?, same]
      · have : n ∈ Table.keys t := (List.mem_cons.mp mem).resolve_left same
        simpa [Table.get?, same] using ih this
  · intro found
    obtain ⟨v, hv⟩ := Option.ne_none_iff_exists'.mp found
    exact List.mem_map.mpr ⟨_, Table.mem_keys_of_get? _ _ _ hv, rfl⟩

/-! ### Every context ages (R25) -/

/-- A context one ageing step older (R25). -/
def Context.aged (c : Context) : Context := { c with age := min 3 (c.age + 1) }

/-- Contexts that check age, each once. -/
theorem foldl_ageContext (l : List Nat) (nodup : l.Nodup) (s : State)
    (intact : ∀ m ∈ l, ∀ d, s.context? m = some d → d.intact = true) :
    ∃ contexts, l.foldl State.ageContext s = { s with table := { s.table with contexts := contexts } } ∧
      (Table.wf s.table.contexts = true → Table.wf contexts = true) ∧
      ∀ m, Table.get? contexts m = if m ∈ l then (s.context? m).map Context.aged else s.context? m := by
  induction l generalizing s with
  | nil => exact ⟨s.table.contexts, rfl, id, fun m => by simp [State.context?]⟩
  | cons k l ih =>
    obtain ⟨fresh, nodup⟩ := List.nodup_cons.mp nodup
    rw [List.foldl_cons]
    cases hk : s.context? k with
    | none =>
      have stays : s.ageContext k = s := by simp [State.ageContext, hk]
      obtain ⟨contexts, folds, wf, gets⟩ := ih nodup s fun m mem => intact m (List.mem_cons_of_mem k mem)
      refine ⟨contexts, by rw [stays, folds], wf, fun m => ?_⟩
      rw [gets]
      by_cases same : m = k
      · subst same
        simp [hk]
      · simp [same]
    | some d =>
      have whole := intact k List.mem_cons_self d hk
      have ages : s.ageContext k =
          { s with table := { s.table with contexts := Table.set s.table.contexts k d.aged } } := by
        simp [State.ageContext, hk, whole, State.writeContext, Context.aged]
      have others (m : Nat) (mem : m ∈ l) : m ≠ k := fun same => fresh (same ▸ mem)
      rw [ages]
      obtain ⟨contexts, folds, wf, gets⟩ := ih nodup
        { s with table := { s.table with contexts := Table.set s.table.contexts k d.aged } }
        fun m mem d hd => by
          refine intact m (List.mem_cons_of_mem k mem) d ?_
          simpa [State.context?, Table.get?_set, others m mem] using hd
      refine ⟨contexts, folds, fun h => wf (Table.wf_set _ _ _ h), fun m => ?_⟩
      rw [gets]
      by_cases same : m = k
      · subst same
        simp [fresh, State.context?] at hk ⊢
        simp [hk]
      · simp [State.context?, Table.get?_set, same]

/-- With every record intact, the step ages them all and changes nothing else. -/
theorem State.ageingStep_intact (wf : Table.wf s.table.contexts = true)
    (intact : ∀ m d, s.context? m = some d → d.intact = true) :
    s.ageingStep =
      { s with table := { s.table with contexts := s.table.contexts.map fun p => (p.1, p.2.aged) } } := by
  obtain ⟨contexts, folds, wfX, gets⟩ :=
    foldl_ageContext s.table.contexts.keys (Table.nodup_keys wf) s fun m _ d hd => intact m d hd
  have aged : contexts = s.table.contexts.map fun p => (p.1, p.2.aged) := by
    refine Table.ext (wfX wf) (Table.wf_map Context.aged wf) fun n => ?_
    rw [gets, Table.get?_map]
    split
    · rfl
    next absent =>
      have nothing : Table.get? s.table.contexts n = none := by
        by_contra found
        exact absent (Table.mem_keys_iff.mpr found)
      simp [State.context?, nothing]
  unfold State.ageingStep
  rw [folds, aged]

theorem Table.set_self {α : Type} {t : Table α} {n : Nat} {v : α} (wf : Table.wf t = true)
    (h : Table.get? t n = some v) : Table.set t n v = t := by
  refine Table.ext (Table.wf_set _ _ _ wf) wf fun m => ?_
  rw [Table.get?_set]
  split
  next same => rw [same, h]
  next other => rfl

/-! ### When an ageing step is made (R24, R133) -/

theorem State.ageByCount_ages (counts : ageingByTime s.settings.active = false) (on : 1 ≤ ageingN s.settings.active)
    (reached : 16 * ageingN s.settings.active ≤ s.table.ageing) :
    s.ageByCount = { s.ageingStep with table := { s.ageingStep.table with ageing := 0 } } := by
  unfold State.ageByCount
  rw [if_pos (by simp [counts, on, reached])]

theorem effect_ageingCount (running : s.part = .running) : effect .ageingCount s = s.ageByCount := by
  have up : s.running = true := by simp [State.running, running]
  simp [effect, up]

theorem effect_ageingTimer (running : s.part = .running) (timed : ageingByTime s.settings.active = true)
    (on : 1 ≤ ageingN s.settings.active) (reached : ageingN s.settings.active * 65536 ≤ s.time.ageingTimer) :
    effect .ageingTimer s = { s.ageingStep with time := { s.ageingStep.time with ageingTimer := 0 } } := by
  have up : s.running = true := by simp [State.running, running]
  have does : effect .ageingTimer s = s.fireAgeingTimer := rfl
  rw [does]
  unfold State.fireAgeingTimer
  rw [if_pos (by simp [up, timed, on, reached])]

/-- A report that raises the counter to the limit makes the step within its taking (R24). -/
theorem State.countReport_ages (wf : Table.wf s.table.contexts = true)
    (intact : ∀ m d, s.context? m = some d → d.intact = true) (counts : ageingByTime s.settings.active = false)
    (on : 1 ≤ ageingN s.settings.active) (reached : 16 * ageingN s.settings.active ≤ s.table.ageing + 1) :
    s.countReport =
      { s with
        table := { s.table with contexts := s.table.contexts.map fun p => (p.1, p.2.aged), ageing := 0 } } := by
  obtain ⟨t, ht⟩ : ∃ t : State, { s with table := { s.table with ageing := s.table.ageing + 1 } } = t := ⟨_, rfl⟩
  have step : t.ageingStep = { t with table := { t.table with contexts := t.table.contexts.map fun p => (p.1, p.2.aged) } } :=
    State.ageingStep_intact (by rw [← ht]; exact wf) (by rw [← ht]; exact intact)
  have ages := State.ageByCount_ages (s := t) (by rw [← ht]; exact counts) (by rw [← ht]; exact on)
    (by rw [← ht]; exact reached)
  unfold State.countReport
  rw [if_neg (by simp [counts]), ht, ages, step, ← ht]

/-- Settles O49: every record ages, also within a taking, and a damaged one is released. -/
theorem ageingStepRaisesEveryAge : Obligations.AgeingStepRaisesEveryAge := by
  refine ⟨?_, ?_, ?_⟩
  · intro s between running wf intact on aged
    have step := State.ageingStep_intact wf intact
    refine ⟨fun counts reached => ?_, fun timed reached => ?_⟩
    · have does : effect .ageingCount s = { s with table := { s.table with contexts := aged, ageing := 0 } } := by
        rw [effect_ageingCount running, State.ageByCount_ages counts on reached, step]
        rfl
      exact exec_quiet between does
    · have does : effect .ageingTimer s =
          { s with table := { s.table with contexts := aged }, time := { s.time with ageingTimer := 0 } } := by
        rw [effect_ageingTimer running timed on reached, step]
        rfl
      exact exec_quiet between does
  · intro s e rest index c between running idle queue kind known unsent wf intact counts on reached
    obtain ⟨-, calm, -⟩ := s.between_iff.mp between
    obtain ⟨-, hc, -⟩ := State.known_iff.mp known
    have hc' : (s.dequeued rest).context? index = some c := (State.context?_congr (by simp)).trans hc
    have does : effect .takeHead s = (s.dequeued rest).bindReport index c.age e := by
      rw [effect_takeHead_known between running idle queue known, State.admitReport_heard hc' kind]
    obtain ⟨r, hr⟩ : ∃ r : Context, { c with busy := true, age := 0, lastHeard := s.time.counter, intact := true } = r :=
      ⟨_, rfl⟩
    obtain ⟨w, hw⟩ : ∃ w, (s.dequeued rest).reached index c.age e c = w := ⟨_, rfl⟩
    have contexts : w.table.contexts = Table.set s.table.contexts index r := by
      simp [← hw, ← hr, State.reached]
    have wfW : Table.wf w.table.contexts = true := by
      rw [contexts]
      exact Table.wf_set _ _ _ wf
    have intactW (m : Nat) (d : Context) (hd : w.context? m = some d) : d.intact = true := by
      rw [State.context?, contexts, Table.get?_set] at hd
      split at hd
      · cases hd
        rw [← hr]
      · exact intact m d hd
    have settings : w.settings = s.settings := by simp [← hw, State.reached]
    have ageing : w.table.ageing = s.table.ageing := by simp [← hw, State.reached]
    have counted := State.countReport_ages wfW intactW (by rw [settings]; exact counts) (by rw [settings]; exact on)
      (by rw [settings, ageing]; exact reached)
    obtain ⟨x, hx⟩ : ∃ x : State, { w with table := { w.table with
      contexts := w.table.contexts.map fun p => (p.1, p.2.aged), ageing := 0 } } = x := ⟨_, rfl⟩
    have contextsX : x.table.contexts = w.table.contexts.map fun p => (p.1, p.2.aged) := by rw [← hx]
    have stable : Table.set x.table.contexts index r.aged = x.table.contexts := by
      rw [contextsX]
      refine Table.set_self (Table.wf_map Context.aged wfW) ?_
      rw [Table.get?_map, contexts, Table.get?_set_self]
      rfl
    have calmX : x.now.stopDue = false := by simp [← hx, ← hw, State.reached, calm]
    have bound := State.bindHeard_unsent (f := ⟨e, s.settings.active, s.time.counter, index, c.age, false⟩) stable
      (by rw [← hr]; rfl) (by simp [← hx, ← hw, State.reached]) rfl calmX
      (by rw [← hr]; exact unsent) (s.dequeued rest).settings.active e (s.dequeued rest).time.counter
    rw [State.bindReport_eq hc', hw, counted, hx, State.goOn, if_neg (by rw [calmX]; exact Bool.false_ne_true), bound] at does
    have aged (m : Nat) (other : m ≠ index) : Table.get? x.table.contexts m =
        (s.context? m).map fun d => { d with age := min 3 (d.age + 1) } := by
      rw [contextsX, Table.get?_map, contexts, Table.get?_set, if_neg other]
      rfl
    have frame : x.pins = s.pins ∧ x.now = s.now ∧ x.events = s.events ∧ x.settings = s.settings ∧ x.own = s.own ∧
        x.slotMap = s.slotMap ∧ x.table.directory = s.table.directory ∧ x.forwarder = s.forwarder ∧ x.part = s.part ∧
        x.intake = { s.intake with queue := rest } ∧ x.table.ageing = 0 := by
      simp [← hx, ← hw, State.reached]
    obtain ⟨pins, now, events, settingsX, own, slotMap, directory, forwarder, part, intake, ageingX⟩ := frame
    refine ⟨_, exec_quiet between does (hp := pins) (hn := now) (he := events) (ha := by rw [settingsX]), ?_,
      fun m other => ?_, ageingX, rfl, intake, events, own, slotMap, directory, forwarder, part, settingsX, pins⟩
    · simp only [State.context?, Table.get?_set_self, Option.map_some]
      rw [← hr]
      rfl
    · rw [← aged m other]
      simp [State.context?, Table.get?_set, other]
  · intro s index c between running none1 wf hc damaged intact room counts on reached
    obtain ⟨-, calm, -⟩ := s.between_iff.mp between
    have nodup := Table.nodup_keys wf
    have listed : index ∈ s.table.contexts.keys := Table.mem_keys_iff.mpr (by
      show s.context? index ≠ none
      simp [hc])
    obtain ⟨before, after, split1⟩ := List.append_of_mem listed
    have absent (m : Nat) (out : m ∉ before) (out' : m ∉ after) (other : m ≠ index) : s.context? m = none := by
      by_contra found
      have mem : m ∈ s.table.contexts.keys := Table.mem_keys_iff.mpr found
      rw [split1] at mem
      simp [out, out', other] at mem
    rw [split1] at nodup
    obtain ⟨nodupB, nodupA, apart⟩ := List.nodup_append.mp nodup
    obtain ⟨freshA, nodupA⟩ := List.nodup_cons.mp nodupA
    have freshB : index ∉ before := fun mem => apart _ mem _ List.mem_cons_self rfl
    have disjoint (m : Nat) (mem : m ∈ after) : m ∉ before := fun mem' => apart _ mem' _ (List.mem_cons_of_mem _ mem) rfl
    have others (m : Nat) (mem : m ∈ after) : m ≠ index := fun same => freshA (same ▸ mem)
    obtain ⟨contexts, folds, -, gets⟩ := foldl_ageContext before nodupB s fun m mem d hd =>
      intact m d (fun same => freshB (same ▸ mem)) hd
    obtain ⟨u, hu⟩ : ∃ u : State, { s with table := { s.table with contexts := contexts } } = u := ⟨_, rfl⟩
    have contextU (m : Nat) : u.context? m = if m ∈ before then (s.context? m).map Context.aged else s.context? m := by
      rw [← gets, ← hu]
      rfl
    have hcU : u.context? index = some c := by rw [contextU, if_neg freshB, hc]
    have roomU : u.damageRoom = true := (State.damageRoom_congr (by rw [← hu]) (by rw [← hu])).trans room
    obtain ⟨released, reported, errors, quarantined, -, kept⟩ := u.integrityRelease_does index c u.time.counter hcU roomU
    obtain ⟨v, hv⟩ : ∃ v, u.integrityRelease index u.time.counter = v := ⟨_, rfl⟩
    rw [hv] at released reported errors quarantined kept
    have fails : u.ageContext index = v := by
      have settled : v.settleHeld = v := v.settleHeld_empty fun _ => by rw [kept.forwarder, ← hu, none1]
      simp [State.ageContext, hcU, damaged, State.failIntegrity, hv, settled]
    have contextV (m : Nat) (mem : m ∈ after) : v.context? m = s.context? m := by
      rw [released.others m (others m mem), contextU, if_neg (disjoint m mem)]
    obtain ⟨contexts', folds', -, gets'⟩ := foldl_ageContext after nodupA v fun m mem d hd =>
      intact m d (others m mem) ((contextV m mem).symm.trans hd)
    have step : s.ageingStep = { v with table := { v.table with contexts := contexts' } } := by
      unfold State.ageingStep
      rw [split1, List.foldl_append, folds, hu, List.foldl_cons, fails, folds']
    have does : effect .ageingCount s = { v with table := { v.table with contexts := contexts', ageing := 0 } } := by
      rw [effect_ageingCount running, State.ageByCount_ages counts on reached, step]
    have counterU : u.time.counter = s.time.counter := by rw [← hu]
    have fields : u.releasedFields c index .integrity 0 = s.releasedFields c index .integrity 0 :=
      State.releasedFields_congr (by rw [← hu])
    have cause : u.now.cause = none := by simp [← hu, calm]
    rw [counterU, fields, cause] at reported
    refine ⟨_, exec_calm between does (by simp [kept.now, ← hu, calm]), ?_, fun m other => ?_, by simp, ?_, ?_, ?_, ?_⟩
    · have gone := gets' index
      rw [if_neg freshA, released.gone] at gone
      simpa [State.context?] using gone
    · have found := gets' m
      rw [released.others m other, contextU] at found
      have aged : Table.get? contexts' m = (s.context? m).map Context.aged := by
        rw [found]
        by_cases inA : m ∈ after
        · rw [if_pos inA, if_neg (disjoint m inA)]
        · rw [if_neg inA]
          by_cases inB : m ∈ before
          · rw [if_pos inB]
          · rw [if_neg inB, absent m inB inA other]
            rfl
      exact aged
    · simp [quarantined, ← hu]
    · simp [errors, ← hu]
    · rw [State.ended_reports]
      exact reported
    · simp [kept.part, ← hu]

end Sys2Proof.Machine
end

section
/-!
A channel is closed.
-/

namespace Sys2Proof.Machine

set_option Elab.async false

variable {s t u v w : State} {index channel : Nat} {key : Key} {c d : Context} {p q : Nat → Bool}

/-! ### Contexts released silently (R18, R19) -/

/-- Every record of the indices that go is gone, with what names them (R18). -/
def State.vacated (s : State) (gone : Nat → Bool) : State :=
  { s with
    flight := s.flight.filter fun f => !gone f.index
    slotMap := s.slotMap.filter fun p => !gone p.2
    time := { s.time with deadlines := s.time.deadlines.filter fun d => !gone d.index }
    table := { s.table with
      directory := s.table.directory.filter fun p => !gone p.2
      contexts := s.table.contexts.filter fun p => !gone p.1 } }

theorem State.vacated_context (s : State) (p : Nat → Bool) (m : Nat) :
    (s.vacated p).context? m = if p m = true then none else s.context? m := by
  have kept := Table.get?_filter_key s.table.contexts (fun n => !p n) m
  simp only [State.context?, State.vacated]
  rw [kept]
  cases p m <;> rfl

@[simp] theorem State.vacated_frame (s : State) (p : Nat → Bool) :
    (s.vacated p).pins = s.pins ∧ (s.vacated p).part = s.part ∧ (s.vacated p).forwarder = s.forwarder ∧
    (s.vacated p).own = s.own ∧ (s.vacated p).settings = s.settings ∧ (s.vacated p).intake = s.intake ∧
    (s.vacated p).events = s.events ∧ (s.vacated p).now = s.now ∧ (s.vacated p).time.counter = s.time.counter ∧
    (s.vacated p).table.quarantined = s.table.quarantined ∧ (s.vacated p).table.ageing = s.table.ageing := by
  simp [State.vacated]

theorem State.vacated_none (s : State) : (s.vacated fun _ => false) = s := by
  have kept {α : Type} (o : Option α) : (o.filter fun _ => true) = o := by cases o <;> rfl
  simp [State.vacated, kept]

theorem State.vacated_vacated (s : State) (p q : Nat → Bool) :
    (s.vacated p).vacated q = s.vacated fun i => p i || q i := by
  have both (a b : Bool) : (!(a || b)) = (!b && !a) := by cases a <;> cases b <;> rfl
  simp only [State.vacated, List.filter_filter, Option.filter_filter, both]
  simp only [Bool.and_comm]

theorem Table.filter_set {α : Type} (t : Table α) (n : Nat) (v : α) :
    ((Table.set t n v).filter fun p => !(p.1 == n)) = t.filter fun p => !(p.1 == n) := by
  induction t with
  | nil => simp [Table.set]
  | cons p t ih =>
    obtain ⟨k, w⟩ := p
    unfold Table.set
    by_cases below : n < k
    · simp [if_pos below]
    · by_cases same : n = k
      · subst same
        simp
      · rw [if_neg below, if_neg same, List.filter_cons, List.filter_cons, ih]

theorem State.vacate_vacated {reason : ReleaseReason} (good : reason ≠ .integrity) (s : State) (index : Nat) :
    s.vacate index reason = s.vacated fun i => i == index := by
  unfold State.vacate State.abandonFor State.vacated
  simp only [if_neg good]
  cases flight : s.flight with
  | none => simp [State.clearSlotsOf, State.removeDeadlines, Table.erase, bne, flight]
  | some f =>
    dsimp only
    by_cases own : f.index = index
    · subst own
      rw [if_pos rfl]
      cases hc : s.context? f.index with
      | none =>
        simp [State.endFlight, flight, hc, State.clearSlotsOf, State.removeDeadlines, Table.erase, bne, Option.filter]
      | some c =>
        simp [State.endFlight, flight, hc, State.clearSlotsOf, State.removeDeadlines, Table.erase, bne, Option.filter,
          State.writeContext, Table.filter_set]
    · rw [if_neg own]
      simp [State.clearSlotsOf, State.removeDeadlines, Table.erase, bne, Option.filter, own, flight]

/-- Contexts that check are released silently, each once. -/
theorem foldl_releaseSilently (l : List Nat) (nodup : l.Nodup) (s : State)
    (intact : ∀ m ∈ l, ∃ d, s.context? m = some d ∧ d.intact = true) :
    l.foldl State.releaseSilently s = s.vacated fun i => l.contains i := by
  induction l generalizing s with
  | nil => simpa using s.vacated_none.symm
  | cons k l ih =>
    obtain ⟨fresh, nodup⟩ := List.nodup_cons.mp nodup
    obtain ⟨d, hd, whole⟩ := intact k List.mem_cons_self
    have goes : s.releaseSilently k = s.vacated fun i => i == k := by
      rw [← State.vacate_vacated (reason := .dropped) (by decide)]
      simp [State.releaseSilently, hd, whole]
    rw [List.foldl_cons, goes, ih nodup, State.vacated_vacated]
    · congr 1
    · intro m mem
      have other : (m == k) = false := by
        rw [beq_eq_false_iff_ne]
        rintro rfl
        exact fresh mem
      rw [State.vacated_context, other]
      exact intact m (List.mem_cons_of_mem k mem)

/-! ### A channel's contexts -/

/-- The context of this index is of this local channel. -/
def State.ofChannel (s : State) (channel index : Nat) : Bool :=
  (s.context? index).any fun c => c.key.channel == channel

theorem State.ofChannel_iff : s.ofChannel channel index = true ↔
    ∃ c, s.context? index = some c ∧ c.key.channel = channel := by
  simp [State.ofChannel, Option.any_eq_true]

theorem State.contextsOf_contains (wf : Table.wf s.table.contexts = true) (channel index : Nat) :
    (s.contextsOf channel).contains index = s.ofChannel channel index := by
  rw [Bool.eq_iff_iff, List.contains_iff_mem, State.contextsOf, Table.mem_keys_iff, Table.get?_filter _ _ _ wf,
    State.ofChannel, State.context?]
  cases Table.get? s.table.contexts index <;> simp [Option.filter]

theorem State.contextsOf_length (s : State) (channel : Nat) : (s.contextsOf channel).length = s.occupiedCount channel := by
  simp [State.contextsOf, Table.keys, State.occupiedCount]

/-- A channel whose records check is emptied. -/
theorem State.contextsOf_released (wf : Table.wf s.table.contexts = true)
    (intact : ∀ index c, s.context? index = some c → c.key.channel = channel → c.intact = true) :
    (s.contextsOf channel).foldl State.releaseSilently s = s.vacated (s.ofChannel channel) := by
  have nodup : (s.contextsOf channel).Nodup := Table.nodup_keys (Table.wf_filter _ _ wf)
  rw [foldl_releaseSilently _ nodup]
  · congr 1
    funext i
    exact State.contextsOf_contains wf channel i
  · intro m mem
    rw [← List.contains_iff_mem, State.contextsOf_contains wf, State.ofChannel_iff] at mem
    obtain ⟨c, hc, own⟩ := mem
    exact ⟨c, hc, intact m c hc own⟩

/-! ### CHANNEL_CLOSED, and the changed counts (R19, R165) -/

/-- What the close of a channel leaves, once its held writes have been settled: the channel is off, and its event is on
its way. -/
structure ChannelClosed (x t : State) (channel : Nat) (f : EventFields) : Prop where
  settings : t.settings = { x.settings with active := withChannelOff x.settings.active channel }
  said : t.reports f x.time.counter x.now.cause = true
  keeps : ∀ e, x.hasEvent e = true → t.hasEvent e = true
  errors : t.events.errors = x.events.errors
  consumer : t.events.consumer = x.events.consumer
  holding : t.events.holding.length ≤ x.events.holding.length + 1
  table : t.table = x.table
  slotMap : t.slotMap = x.slotMap
  time : t.time = x.time
  flight : t.flight = x.flight
  intake : t.intake = x.intake
  forwarder : t.forwarder = x.forwarder
  outstanding : t.own.outstanding = x.own.outstanding
  part : t.part = x.part
  pins : t.pins = x.pins
  now : t.now = x.now

theorem ChannelClosed.issueStatus {f : EventFields} (h : ChannelClosed v t channel f) (word : Nat) :
    ChannelClosed v (t.issueStatus word) channel f := by
  obtain ⟨settings, said, keeps, errors, consumer, holding, table, slotMap, time, flight, intake, forwarder, outstanding,
    part, pins, now⟩ := h
  constructor
  case said => exact State.reports_of_keeps t _ (fun e has => t.issueStatus_keeps word e has) (by simp) _ _ _ said
  case keeps => exact fun e has => t.issueStatus_keeps word e (keeps e has)
  all_goals simp [*]

theorem State.closeChannel_does (wf : Table.wf s.table.contexts = true)
    (intact : ∀ index c, s.context? index = some c → c.key.channel = channel → c.intact = true) (cause : Nat)
    (settles : ((s.vacated (s.ofChannel channel)).discardReports channel).settleHeld = v)
    (room : v.events.holding.length < Config.holdingPlaces) :
    ChannelClosed v (s.closeChannel channel cause) channel
      { kind := 11, channel := some channel, reason := cause, w4 := BitVec.ofNat 32 (s.occupiedCount channel) } := by
  obtain ⟨f, hf⟩ : ∃ f : EventFields,
      { kind := 11, channel := some channel, reason := cause, w4 := BitVec.ofNat 32 (s.occupiedCount channel) } = f :=
    ⟨_, rfl⟩
  obtain ⟨w, hw⟩ : ∃ w : State,
      { v with settings := { v.settings with active := withChannelOff v.settings.active channel } } = w := ⟨_, rfl⟩
  have eventsW : w.events = v.events := by rw [← hw]
  have closed : ChannelClosed v (w.handOn f v.time.counter) channel f := by
    obtain ⟨now, errors, -, holding⟩ := w.handOn_calm f v.time.counter (by rw [eventsW]; exact room)
    have said := w.handOn_reports f v.time.counter (by rw [eventsW]; exact room)
    have nowW : w.now = v.now := by rw [← hw]
    rw [nowW] at said
    constructor
    case said => exact said
    case keeps => exact fun e has => w.handOn_keeps f _ e (by rw [← hw]; exact has)
    case errors => rw [errors, eventsW]
    case holding => rwa [eventsW] at holding
    case now => rw [now, nowW]
    all_goals simp [← hw]
  unfold State.closeChannel
  dsimp only at hw ⊢
  rw [State.contextsOf_released wf intact, settles, State.contextsOf_length, hf]
  subst hw
  split
  · split
    · exact closed
    · exact closed.issueStatus _
  · split
    · exact closed.issueStatus _
    · exact (closed.issueStatus _).issueStatus _

/-! ### The writes held for a station of the channel (R143) -/

/-- What the settling of held writes keeps, once the contexts of the stations they were held for are gone. -/
structure SettlesGone (v x : State) : Prop extends SettleKeeps v x where
  contexts : x.table.contexts = v.table.contexts
  slotMap : x.slotMap = v.slotMap
  holding : x.events.holding.length ≤ v.events.holding.length

theorem SettlesGone.refl (v : State) : SettlesGone v v := ⟨SettleKeeps.refl v, rfl, rfl, Nat.le_refl _⟩

theorem State.settleHeld_vacated (p : Nat → Bool) (channel : Nat) (idle : u.flight = none → u.forwarder.held = [])
    (held : ∀ f, u.flight = some f → p f.index = true → ∃ key, u.heldFor f.index key = true) :
    SettlesGone ((u.vacated p).discardReports channel) ((u.vacated p).discardReports channel).settleHeld ∧
      ((u.flight.any fun f => p f.index) = false →
        ((u.vacated p).discardReports channel).settleHeld.forwarder = u.forwarder) ∧
      ∀ f key, u.flight = some f → p f.index = true → u.heldFor f.index key = true →
        ForwardsHeld u ((u.vacated p).discardReports channel).settleHeld (u.heldFilled key (emptyFill none 3)) := by
  obtain ⟨v, hv⟩ : ∃ v, (u.vacated p).discardReports channel = v := ⟨_, rfl⟩
  have forwarder : v.forwarder = u.forwarder := by simp [← hv, State.discardReports]
  have flight : v.flight = u.flight.filter fun f => !p f.index := by simp [← hv, State.discardReports, State.vacated]
  have straps : v.pins.straps = u.pins.straps := by simp [← hv, State.discardReports]
  have outstanding : v.own.outstanding = u.own.outstanding := by simp [← hv, State.discardReports]
  have directory : v.table.directory = u.table.directory.filter fun q => !p q.2 := by
    simp [← hv, State.discardReports, State.vacated]
  have slotMap : v.slotMap = u.slotMap.filter fun q => !p q.2 := by simp [← hv, State.discardReports, State.vacated]
  have settings : v.settings = u.settings := by simp [← hv, State.discardReports]
  rw [hv]
  by_cases ours : (u.flight.any fun f => p f.index) = true
  · obtain ⟨f, hf, own⟩ := (Option.any_eq_true _ _).mp ours
    have now : v.flight = none := by simp [flight, hf, Option.filter, own]
    have release : v.settleHeld = v.releaseHeld := by simp [State.settleHeld, now]
    have cases1 (key : Key) (h : u.heldFor f.index key = true) :
        SettlesGone v v.settleHeld ∧ ForwardsHeld u v.settleHeld (u.heldFilled key (emptyFill none 3)) := by
      rcases u.heldFor_cases f.index key h with none1 | ⟨g, hg, other⟩ | ⟨-, wf, wfS, entry, each⟩
      · have heldV : v.forwarder.held = [] := forwarder ▸ none1
        have nothing : u.heldFilled key (emptyFill none 3) = [] := by simp [State.heldFilled, none1]
        rw [v.settleHeld_empty fun _ => heldV, nothing]
        exact ⟨SettlesGone.refl v, (((Forwards.none v _).congr rfl rfl rfl rfl rfl rfl).held heldV).since forwarder
          outstanding straps⟩
      · rw [hf] at hg
        cases hg
        exact absurd rfl other
      · obtain ⟨fills, table, slots⟩ := v.releaseHeld_unknown key
          (by rw [directory, Table.get?_filter _ _ _ wf, entry]; simp [Option.filter, own]) (by
            intro h mem
            obtain ⟨sameKey, slot, hs, owner⟩ := each h (forwarder ▸ mem)
            refine ⟨sameKey, slot, hs, ?_⟩
            rw [slotMap, Table.get?_filter _ _ _ wfS]
            cases found : Table.get? u.slotMap slot with
            | none => rfl
            | some o => simp [Option.filter, owner o found, own])
        obtain ⟨forwards, -, pins, part, settings', intake, flight', time, now', errors, -, -, -, holding⟩ := fills.emptied
        have filled : v.heldFilled key (emptyFill none 3) = u.heldFilled key (emptyFill none 3) :=
          State.heldFilled_congr (by rw [forwarder]) (by rw [settings])
        rw [filled] at forwards
        rw [release]
        refine ⟨⟨⟨by rw [table], by rw [table], by rw [table], pins, part, settings', intake, flight', time, now', errors⟩,
          by rw [table], slots, holding⟩, forwards.since forwarder outstanding straps⟩
    obtain ⟨key, h⟩ := held f hf own
    refine ⟨(cases1 key h).1, fun no => ?_, fun g key' hg _ h' => ?_⟩
    · rw [ours] at no
      cases no
    · rw [hf] at hg
      cases hg
      exact (cases1 key' h').2
  · have stays : v.settleHeld = v := v.settleHeld_empty fun none1 => by
      rw [forwarder]
      refine idle ?_
      cases hf : u.flight with
      | none => rfl
      | some f =>
        have elsewhere : p f.index = false := by simpa [hf] using ours
        simp [flight, hf, Option.filter, elsewhere] at none1
    rw [stays]
    refine ⟨SettlesGone.refl v, fun _ => forwarder, fun f key hf own => ?_⟩
    simp [hf, own] at ours

/-! ### CHANNEL_CLOSE (R19, R165) -/

theorem withChannelOff_read (a : Table Word) (channel word : Nat) (other : word ≠ channelWord channel 0) :
    Words.read (withChannelOff a channel) word = Words.read a word := by
  unfold withChannelOff
  rw [Words.read_write, if_neg other]

theorem withChannelOff_open (a : Table Word) (channel : Nat) : channelOpen (withChannelOff a channel) channel = false := by
  unfold channelOpen withChannelOff
  rw [Words.read_write, if_pos rfl, BitVec.getLsbD_and]
  simp

/-- Settles O35: the contexts go silently, the held writes after them, and the event tells how many. -/
theorem channelCloseEmptiesChannel : Obligations.ChannelCloseEmptiesChannel := by
  intro s o r between offered sole has part calm idle held room wf u channel ours bound isOpen intact
  obtain ⟨-, now, -⟩ := s.between_iff.mp between
  have table : u.table = s.table := by simp [u]
  have flight : u.flight = s.flight := by simp [u]
  have settings : u.settings.active = s.settings.active := by simp [u]
  have context (m : Nat) : u.context? m = s.context? m := State.context?_congr table
  have oursU : u.ofChannel channel = ours := by
    funext i
    simp only [State.ofChannel, context, ours]
  have heldU (f : Flight) (c : Context) (hf : s.flight = some f) (hc : s.context? f.index = some c) :
      u.heldFor f.index c.key = true := (s.withCopied_heldFor o r f.index c.key).trans (held f c hf hc)
  obtain ⟨settles, stays, forwards⟩ := State.settleHeld_vacated (u := u) ours channel
    (fun none1 => (show u.forwarder.held = s.forwarder.held by simp [u]).trans (idle (flight ▸ none1)))
    (fun f hf own => by
      rw [← oursU, State.ofChannel_iff] at own
      obtain ⟨c, hc, -⟩ := own
      exact ⟨c.key, heldU f c (flight ▸ hf) ((context _).symm.trans hc)⟩)
  obtain ⟨x, hx⟩ : ∃ x, ((u.vacated ours).discardReports channel).settleHeld = x := ⟨_, rfl⟩
  rw [hx] at settles stays forwards
  have frame : ((u.vacated ours).discardReports channel).events = s.events ∧
      ((u.vacated ours).discardReports channel).now = s.now ∧
      ((u.vacated ours).discardReports channel).time.counter = s.time.counter ∧
      ((u.vacated ours).discardReports channel).settings = u.settings := by simp [State.discardReports, u]
  obtain ⟨events, nowV, counter, settingsV⟩ := frame
  have place : x.events.holding.length < Config.holdingPlaces := by
    have := settles.holding
    rw [events] at this
    simp only [State.eventRoom, decide_eq_true_eq] at room
    omega
  have closed := State.closeChannel_does (s := u) (v := x) (by rw [table]; exact wf)
    (fun m c hc => intact m c ((context m).symm.trans hc)) 1 (by rw [oursU]; exact hx) place
  have answers : u.answerCommand 2 (Words.read u.settings.staging Config.firstArgument)
      (Words.read u.settings.staging Config.secondArgument) = (u.closeChannel channel 1, .done) := by
    rw [(State.answerCommand_running (by simpa [u] using part) _ _).1]
    show u.channelClose channel = _
    have within : ¬7 < channel := by
      have : channel < 8 := bound
      omega
    rw [State.channelClose, if_neg within, settings, isOpen]
    rfl
  have takes := State.takeCommand_answers has (by decide) (by decide) (by decide) (by simpa [u] using calm) answers
  have counted : u.occupiedCount channel = s.occupiedCount channel := by simp [State.occupiedCount, table]
  rw [counted] at closed
  generalize u.closeChannel channel 1 = t at *
  have activeT : t.settings.active = withChannelOff s.settings.active channel := by
    rw [closed.settings, settles.settings, settingsV, settings]
  refine ⟨_, exec_command between offered sole has takes ?_, fun m => ?_, ?_, ?_, ?_, ?_, ?_, ?_, ?_, ?_, ?_, fun word other => ?_,
    ?_, ?_, ?_, ?_, fun f c hf hc own => ?_, fun none1 => ?_, ?_, ?_, State.ended_attention _⟩
  · simp [closed.now, settles.now, State.discardReports, u, now]
  · refine (State.context?_congr (s := t) (by simp)).trans ?_
    rw [State.context?, closed.table, settles.contexts]
    exact (u.vacated_context ours m).trans (by rw [context])
  · simp [closed.table, settles.directory, State.discardReports, State.vacated, table]
  · simp [closed.slotMap, settles.slotMap, State.discardReports, State.vacated, u]
  · simp [closed.time, settles.time, State.discardReports, State.vacated, u]
  · simp [closed.flight, settles.flight, State.discardReports, State.vacated, u]
  · simp [closed.table, settles.quarantined, State.discardReports, table]
  · simp [closed.intake, settles.intake, State.discardReports, u]
  · simp [closed.intake, settles.intake, State.discardReports, Table.get?_erase]
  · simp [closed.settings, settles.settings]
  · simp [activeT, withChannelOff_open]
  · simp [activeT, withChannelOff_read _ _ _ other]
  · have said := closed.said
    rw [settles.now, nowV, now, settles.time, counter] at said
    rw [State.ended_reports]
    exact State.reports_answered said
  · simp [State.commandAnswer_events, u]
  · rw [State.ended_lastIssued]
    exact State.commandAnswer_lastIssued _ _ _ _ _
  · simp [closed.errors, settles.errors, State.discardReports, u]
  · have ownU : ours f.index = true := by
      rw [← oursU, State.ofChannel_iff]
      exact ⟨c, (context _).trans hc, own⟩
    have sent := forwards f c.key (flight.trans hf) ownU (heldU f c hf hc)
    rw [State.heldFilled_congr (s := s) (by simp [u]) settings] at sent
    obtain ⟨a1, a2, a3, a4, a5, a6, a7, a8⟩ := sent
    rw [← closed.forwarder] at a1 a2 a3 a4 a5 a6 a7 a8
    rw [← closed.outstanding] at a7
    exact (ForwardsHeld.mk a1 a2 a3 a4 a5 a6 a7 a8).answered.ended
  · simp [closed.forwarder, stays (flight.symm ▸ none1)]
  · simp [closed.part, settles.part, State.discardReports, u, part]
  · simp [closed.pins, settles.pins, State.discardReports, u]

end Sys2Proof.Machine
end

section
/-!
An apply that passes.
-/

namespace Sys2Proof.Machine

set_option Elab.async false

variable {s t u v w x : State} {o : Origin} {r : Request} {index channel : Nat} {c d : Context} {l : List Nat}

/-! ### Channels closed one after another (R161, step 2) -/

/-- The context of this index is of one of these channels. -/
def State.ofChannels (s : State) (l : List Nat) (index : Nat) : Bool := l.any fun channel => s.ofChannel channel index

/-- The CHANNEL_CLOSED event of an apply (R165). -/
def State.applyClosed (s : State) (channel : Nat) : EventFields :=
  { kind := 11, channel := some channel, reason := 2, w4 := BitVec.ofNat 32 (s.occupiedCount channel) }

/-- What the closing of channels leaves that the settings in force do not open: their contexts and reports are gone, and
their events are on their way. -/
structure ChannelsClosed (s t : State) (l : List Nat) : Prop where
  table : t.table = (s.vacated (s.ofChannels l)).table
  slotMap : t.slotMap = (s.vacated (s.ofChannels l)).slotMap
  time : t.time = (s.vacated (s.ofChannels l)).time
  flight : t.flight = (s.vacated (s.ofChannels l)).flight
  queue : t.intake.queue = s.intake.queue.filter fun e => !l.contains e.channel
  lastSequence : ∀ c, Table.get? t.intake.lastSequence c =
    if c ∈ l then none else Table.get? s.intake.lastSequence c
  staging : t.settings.staging = s.settings.staging
  draining : t.settings.draining = s.settings.draining
  active : ∀ word, Words.read t.settings.active word = Words.read s.settings.active word
  said : ∀ channel ∈ l, t.reports (s.applyClosed channel) s.time.counter s.now.cause = true
  keeps : ∀ e, s.hasEvent e = true → t.hasEvent e = true
  errors : t.events.errors = s.events.errors
  consumer : t.events.consumer = s.events.consumer
  forwarder : t.forwarder = s.forwarder
  part : t.part = s.part
  pins : t.pins = s.pins
  now : t.now = s.now

/-- A channel that is off already reads the same (R165). -/
theorem withChannelOff_off {a : Table Word} (off : channelOpen a channel = false) (word : Nat) :
    Words.read (withChannelOff a channel) word = Words.read a word := by
  by_cases own : word = channelWord channel 0
  · subst own
    unfold withChannelOff
    rw [Words.read_write, if_pos rfl]
    unfold channelOpen at off
    generalize Words.read a (channelWord channel 0) = x at off ⊢
    have mask : ∀ i : Fin 32, i.val ≠ 0 → (0xFFFFFFFE#32).getLsbD i = true := by decide
    refine BitVec.eq_of_getLsbD_eq fun i hi => ?_
    rw [BitVec.getLsbD_and]
    by_cases first : i = 0
    · rw [first, off, Bool.false_and]
    · rw [mask ⟨i, hi⟩ first, Bool.and_true]
  · exact withChannelOff_read a channel word own

/-- What is read of the settings decides whether an event is kept (R169). -/
theorem State.reports_of_reads {f : EventFields} {time : Time} {cause : Option Nat}
    (keeps : ∀ e, s.hasEvent e = true → t.hasEvent e = true)
    (active : ∀ word, Words.read t.settings.active word = Words.read s.settings.active word)
    (said : s.reports f time cause = true) : t.reports f time cause = true := by
  unfold State.reports eventEnabled at *
  rw [active]
  rw [Bool.or_eq_true] at *
  exact said.imp id (keeps _)

/-- A canonical table finds each entry it lists. -/
theorem Table.get?_of_mem {α : Type} {t : Table α} {p : Nat × α} (wf : Table.wf t = true) (mem : p ∈ t) :
    Table.get? t p.1 = some p.2 := by
  induction t with
  | nil => cases mem
  | cons q t ih =>
    obtain ⟨k, v⟩ := q
    rcases List.mem_cons.mp mem with rfl | mem
    · exact if_pos rfl
    · have lt := (List.pairwise_cons.mp ((Table.wf_iff _).mp wf)).1 p mem
      have other : p.1 ≠ k := by
        dsimp only at lt
        omega
      simpa [Table.get?, other] using ih (Table.wf_tail wf) mem

/-- A channel's contexts stay when others go. -/
theorem State.occupiedCount_vacated {other : Nat} (wf : Table.wf s.table.contexts = true) (apart : other ≠ channel) :
    (s.vacated (s.ofChannel channel)).occupiedCount other = s.occupiedCount other := by
  unfold State.occupiedCount
  simp only [State.vacated, List.filter_filter]
  congr 1
  refine List.filter_congr fun p mem => ?_
  have found : s.context? p.1 = some p.2 := Table.get?_of_mem wf mem
  by_cases own : p.2.key.channel = other
  · simp [State.ofChannel, found, own, apart]
  · simp [own]

theorem State.ofChannel_vacated {other : Nat} (apart : other ≠ channel) (m : Nat) :
    (s.vacated (s.ofChannel channel)).ofChannel other m = s.ofChannel other m := by
  unfold State.ofChannel
  rw [State.vacated_context]
  cases hc : s.context? m with
  | none => simp
  | some c =>
    by_cases own : c.key.channel = other
    · simp [own, apart]
    · split <;> simp [own]

theorem State.vacated_congr (gone : Nat → Bool) (table : w.table = x.table) (slotMap : w.slotMap = x.slotMap)
    (time : w.time = x.time) (flight : w.flight = x.flight) :
    (w.vacated gone).table = (x.vacated gone).table ∧ (w.vacated gone).slotMap = (x.vacated gone).slotMap ∧
      (w.vacated gone).time = (x.vacated gone).time ∧ (w.vacated gone).flight = (x.vacated gone).flight := by
  simp [State.vacated, table, slotMap, time, flight]

theorem ChannelsClosed.nil (s : State) : ChannelsClosed s s [] := by
  have stays : s.vacated (s.ofChannels []) = s := s.vacated_none
  constructor
  case said => exact fun channel mem => by cases mem
  case keeps => exact fun _ h => h
  case active => exact fun _ => rfl
  all_goals simp [stays]

/-- With nothing held, a channel is closed at once. -/
theorem State.closeChannel_unheld (held : s.forwarder.held = []) (wf : Table.wf s.table.contexts = true)
    (intact : ∀ m d, s.context? m = some d → d.intact = true) (room : s.events.holding.length < Config.holdingPlaces)
    (channel : Nat) :
    ChannelClosed ((s.vacated (s.ofChannel channel)).discardReports channel) (s.closeChannel channel 2) channel
      (s.applyClosed channel) := by
  refine State.closeChannel_does wf (fun m d hd _ => intact m d hd) 2 (State.settleHeld_empty _ fun _ => ?_) ?_
  · simpa [State.discardReports] using held
  · simpa [State.discardReports] using room

/-- One channel closed, and then others. -/
theorem ChannelsClosed.cons (fresh : channel ∉ l) (wf : Table.wf s.table.contexts = true)
    (off : channelOpen s.settings.active channel = false)
    (closed : ChannelClosed ((s.vacated (s.ofChannel channel)).discardReports channel) w channel (s.applyClosed channel))
    (rest : ChannelsClosed w t l) : ChannelsClosed s t (channel :: l) := by
  have apart (other : Nat) (mem : other ∈ l) : other ≠ channel := fun same => fresh (same ▸ mem)
  have tableW : w.table = (s.vacated (s.ofChannel channel)).table := by simp [closed.table, State.discardReports]
  have slotMapW : w.slotMap = (s.vacated (s.ofChannel channel)).slotMap := by simp [closed.slotMap, State.discardReports]
  have timeW : w.time = (s.vacated (s.ofChannel channel)).time := by simp [closed.time, State.discardReports]
  have flightW : w.flight = (s.vacated (s.ofChannel channel)).flight := by simp [closed.flight, State.discardReports]
  have settingsW : w.settings = { s.settings with active := withChannelOff s.settings.active channel } := by
    simp [closed.settings, State.discardReports]
  have readsW (word : Nat) : Words.read w.settings.active word = Words.read s.settings.active word := by
    rw [settingsW]
    exact withChannelOff_off off word
  have nowW : w.now = s.now := by simp [closed.now, State.discardReports]
  have counterW : w.time.counter = s.time.counter := by simp [timeW]
  have ofW : w.ofChannels l = s.ofChannels l := by
    funext m
    unfold State.ofChannels
    rw [Bool.eq_iff_iff, List.any_eq_true, List.any_eq_true]
    refine exists_congr fun other => and_congr_right fun mem => ?_
    rw [← State.ofChannel_vacated (s := s) (apart other mem) m]
    simp [State.ofChannel, State.context?, tableW]
  have events : w.events.errors = s.events.errors ∧ w.events.consumer = s.events.consumer := by
    simp [closed.errors, closed.consumer, State.discardReports]
  have all : s.vacated (s.ofChannels (channel :: l)) = (s.vacated (s.ofChannel channel)).vacated (s.ofChannels l) := by
    rw [State.vacated_vacated]
    rfl
  obtain ⟨tableV, slotMapV, timeV, flightV⟩ := State.vacated_congr (s.ofChannels l) tableW slotMapW timeW flightW
  have keepsW (e : EventRecord) (has : s.hasEvent e = true) : w.hasEvent e = true :=
    closed.keeps e (by simpa [State.hasEvent, State.discardReports] using has)
  constructor
  case table => rw [rest.table, ofW, tableV, all]
  case slotMap => rw [rest.slotMap, ofW, slotMapV, all]
  case time => rw [rest.time, ofW, timeV, all]
  case flight => rw [rest.flight, ofW, flightV, all]
  case queue =>
    rw [rest.queue, closed.intake]
    simp only [State.discardReports, State.vacated_frame, List.filter_filter]
    refine List.filter_congr fun e _ => ?_
    rw [List.contains_cons, Bool.not_or, Bool.and_comm]
    rfl
  case lastSequence =>
    intro c
    rw [rest.lastSequence, closed.intake]
    simp only [State.discardReports, State.vacated_frame, Table.get?_erase]
    by_cases own : c = channel
    · simp [own]
    · simp [own]
  case staging => rw [rest.staging, settingsW]
  case draining => rw [rest.draining, settingsW]
  case active => exact fun word => (rest.active word).trans (readsW word)
  case said =>
    intro other mem
    rcases List.mem_cons.mp mem with rfl | mem
    · have said := closed.said
      refine State.reports_of_reads rest.keeps rest.active ?_
      simpa [State.discardReports] using said
    · have said := rest.said other mem
      have counted : w.applyClosed other = s.applyClosed other := by
        unfold State.applyClosed
        rw [← State.occupiedCount_vacated wf (apart other mem), State.occupiedCount_congr tableW]
      rwa [counted, counterW, nowW] at said
  case keeps => exact fun e has => rest.keeps e (keepsW e has)
  case errors => rw [rest.errors, events.1]
  case consumer => rw [rest.consumer, events.2]
  case forwarder => rw [rest.forwarder, closed.forwarder]; simp [State.discardReports]
  case part => rw [rest.part, closed.part]; simp [State.discardReports]
  case pins => rw [rest.pins, closed.pins]; simp [State.discardReports]
  case now => rw [rest.now, nowW]

theorem foldl_closeChannel (l : List Nat) (nodup : l.Nodup) (s : State) (held : s.forwarder.held = [])
    (wf : Table.wf s.table.contexts = true) (intact : ∀ m d, s.context? m = some d → d.intact = true)
    (room : s.events.holding.length + l.length ≤ Config.holdingPlaces)
    (off : ∀ channel ∈ l, channelOpen s.settings.active channel = false) :
    ChannelsClosed s (l.foldl (fun u channel => u.closeChannel channel 2) s) l := by
  induction l generalizing s with
  | nil => exact ChannelsClosed.nil s
  | cons channel l ih =>
    obtain ⟨fresh, nodup⟩ := List.nodup_cons.mp nodup
    rw [List.length_cons] at room
    have offC := off channel List.mem_cons_self
    have closed := State.closeChannel_unheld held wf intact (by omega) channel
    rw [List.foldl_cons]
    refine ChannelsClosed.cons fresh wf offC closed ?_
    generalize s.closeChannel channel 2 = w at closed ⊢
    have tableW : w.table = (s.vacated (s.ofChannel channel)).table := by simp [closed.table, State.discardReports]
    refine ih nodup w ?_ ?_ (fun m d hd => ?_) ?_ fun other mem => ?_
    · simpa [closed.forwarder, State.discardReports] using held
    · rw [tableW]
      exact Table.wf_filter _ _ wf
    · have context : w.context? m = (s.vacated (s.ofChannel channel)).context? m := State.context?_congr tableW
      rw [context, State.vacated_context] at hd
      split at hd
      · cases hd
      · exact intact m d hd
    · have := closed.holding
      simp only [State.discardReports, State.vacated_frame] at this
      omega
    · have settingsW : w.settings.active = withChannelOff s.settings.active channel := by
        simp [closed.settings, State.discardReports]
      unfold channelOpen
      rw [settingsW, withChannelOff_off offC]
      exact off other (List.mem_cons_of_mem _ mem)

/-! ### Channels opened, and the slot map cleared (R96, R161) -/

theorem foldl_openChannel (l : List Nat) (s : State) :
    ∃ sequences, l.foldl State.openChannel s = { s with intake := { s.intake with lastSequence := sequences } } ∧
      ∀ c, Table.get? sequences c = if c ∈ l then none else Table.get? s.intake.lastSequence c := by
  induction l generalizing s with
  | nil => exact ⟨s.intake.lastSequence, rfl, fun c => by simp⟩
  | cons k l ih =>
    obtain ⟨sequences, folds, gets⟩ := ih (s.openChannel k)
    refine ⟨sequences, folds, fun c => ?_⟩
    rw [gets]
    simp only [State.openChannel, Table.get?_erase]
    by_cases own : c = k <;> simp [own]

/-- A context whose slot is gone: a correction ISSUED is READY again (R96). -/
def Context.returned (c : Context) : Context :=
  match c.correction with
  | .none => c
  | .ready _ => c
  | .issued issued _ => { c with correction := .ready issued }
  | .sent _ _ => c

theorem Context.returned_intact (c : Context) : c.returned.intact = c.intact := by
  unfold Context.returned
  cases c.correction <;> rfl

theorem Context.returned_issued {issued : Machine.Issued} {slot : Nat} (h : c.correction = .issued issued slot) :
    c.returned = { c with correction := .ready issued } := by
  unfold Context.returned
  rw [h]

theorem Context.returned_returned (c : Context) : c.returned.returned = c.returned := by
  cases h : c.correction with
  | issued issued slot =>
    rw [Context.returned_issued h]
    rfl
  | none | ready _ | sent _ _ =>
    have stays : c.returned = c := by
      unfold Context.returned
      rw [h]
    rw [stays, stays]

theorem State.returnToReady_does (intact : ∀ m d, s.context? m = some d → d.intact = true) (index : Nat) :
    ∃ contexts, s.returnToReady index = { s with table := { s.table with contexts := contexts } } ∧
      ∀ m, Table.get? contexts m = if m = index then (s.context? m).map Context.returned else s.context? m := by
  cases hc : s.context? index with
  | none =>
    refine ⟨s.table.contexts, by simp [State.returnToReady, hc], fun m => ?_⟩
    split
    next same => rw [same, hc]; exact hc
    next => rfl
  | some c =>
    have whole := intact index c hc
    have stays (h : c.returned = c) : ∀ m, Table.get? s.table.contexts m =
        if m = index then (s.context? m).map Context.returned else s.context? m := fun m => by
      split
      next same => rw [same, hc, Option.map_some, h]; exact hc
      next => rfl
    cases h : c.correction with
    | issued issued slot =>
      refine ⟨Table.set s.table.contexts index c.returned, ?_, fun m => ?_⟩
      · rw [Context.returned_issued h]
        simp [State.returnToReady, hc, whole, h, State.writeContext]
      · rw [Table.get?_set]
        split
        next same => rw [same, hc]; rfl
        next => rfl
    | none | ready _ | sent _ _ =>
      exact ⟨s.table.contexts, by simp [State.returnToReady, hc, whole, h],
        stays (by unfold Context.returned; rw [h])⟩

theorem foldl_returnToReady (l : List Nat) (s : State) (intact : ∀ m d, s.context? m = some d → d.intact = true) :
    ∃ contexts, l.foldl State.returnToReady s = { s with table := { s.table with contexts := contexts } } ∧
      ∀ m, Table.get? contexts m = if m ∈ l then (s.context? m).map Context.returned else s.context? m := by
  induction l generalizing s with
  | nil => exact ⟨s.table.contexts, rfl, fun m => by simp [State.context?]⟩
  | cons k l ih =>
    obtain ⟨first, does, gets⟩ := State.returnToReady_does intact k
    have context (m : Nat) : (s.returnToReady k).context? m =
        if m = k then (s.context? m).map Context.returned else s.context? m := by
      rw [does, ← gets]
      rfl
    obtain ⟨contexts, folds, gets'⟩ := ih (s.returnToReady k) fun m d hd => by
      rw [context] at hd
      split at hd
      · obtain ⟨c, hc, rfl⟩ := Option.map_eq_some_iff.mp hd
        rw [Context.returned_intact]
        exact intact m c hc
      · exact intact m d hd
    refine ⟨contexts, by rw [List.foldl_cons, folds, does], fun m => ?_⟩
    rw [gets', context]
    by_cases own : m = k
    · cases s.context? m <;> simp [own, Context.returned_returned]
    · simp [own]

theorem State.clearSlotMap_does (intact : ∀ m d, s.context? m = some d → d.intact = true) :
    ∃ contexts, s.clearSlotMap = { s with table := { s.table with contexts := contexts }, slotMap := [] } ∧
      ∀ m, Table.get? contexts m =
        if m ∈ s.slotMap.map (fun p => p.2) then (s.context? m).map Context.returned else s.context? m := by
  obtain ⟨contexts, folds, gets⟩ := foldl_returnToReady (s.slotMap.map fun p => p.2) s intact
  exact ⟨contexts, by rw [State.clearSlotMap, folds], gets⟩

/-! ### The event ring started afresh (R161, step 5) -/

theorem State.restartRing_events (s : State) :
    s.restartRing.events = { s.events with producer := 0, consumer := 0, mark := 0 } := by
  simp [State.restartRing]

theorem State.restartRing_keeps (e : EventRecord) (has : s.hasEvent e = true) : s.restartRing.hasEvent e = true :=
  State.issueStatus_keeps _ _ e has

/-! ### Adoption (R161) -/

/-- The channels that an adoption closes, and those it opens (R161). -/
def closingChannels (old new : Table Word) : List Nat :=
  (List.range Config.channelCount).filter fun c => channelOpen old c && !channelOpen new c

def openingChannels (old new : Table Word) : List Nat :=
  (List.range Config.channelCount).filter fun c => !channelOpen old c && channelOpen new c

/-- The words of the staging copy as the settings in force (R161, step 1). -/
def State.adopting (s : State) : State :=
  let t : State := { s with settings := { s.settings with active := adoptedWords s.settings.staging } }
  if stagingMoved s.settings.active (adoptedWords s.settings.staging) then t.rejudgeHeld else t

/-- The slot map and the event ring after an adoption (R96, R161). -/
def State.moved (s : State) (old new : Table Word) : State :=
  let t := if stagingMoved old new then s.clearSlotMap else s
  if eventRingMoved old new then t.restartRing else t

/-- The end of an adoption (R161). -/
def State.adopted (s : State) : State :=
  { s with
    table := { s.table with ageing := 0 }
    time := { s.time with ageingTimer := 0 }
    part := s.part.afterApply }

theorem State.adoptSettings_eq {old new : Table Word} (hold : s.settings.active = old)
    (hnew : adoptedWords s.settings.staging = new) :
    s.adoptSettings =
      (((openingChannels old new).foldl State.openChannel
        ((closingChannels old new).foldl (fun u c => u.closeChannel c 2) s.adopting)).moved old new).adopted := by
  subst hold hnew
  rfl

theorem mem_closingChannels {old new : Table Word} : channel ∈ closingChannels old new ↔
    channel < Config.channelCount ∧ channelOpen old channel = true ∧ channelOpen new channel = false := by
  simp [closingChannels]

theorem mem_openingChannels {old new : Table Word} : channel ∈ openingChannels old new ↔
    channel < Config.channelCount ∧ channelOpen old channel = false ∧ channelOpen new channel = true := by
  simp [openingChannels]

theorem stagingMoved_iff {old new : Table Word} : stagingMoved old new = true ↔
    stagingBase old ≠ stagingBase new ∨ stagingSlots old ≠ stagingSlots new := by
  simp [stagingMoved]

theorem eventRingMoved_iff {old new : Table Word} : eventRingMoved old new = true ↔
    eventBase old ≠ eventBase new ∨ eventSlots old ≠ eventSlots new := by
  simp [eventRingMoved]

/-- The settings in force below the control words are those of the staging copy (R161). -/
theorem adoptedWords_read (staging : Table Word) (word : Nat) (below : word < Config.applyWord) :
    Words.read (adoptedWords staging) word = Words.read staging word := by
  have kept := Table.get?_filter_key staging (fun n => !(decide (Config.applyWord ≤ n) && decide (n ≤ Config.consumerWord)) &&
    !(decide (Config.applyResultWord ≤ n) && decide (n ≤ 4077))) word
  have inside : (!(decide (Config.applyWord ≤ word) && decide (word ≤ Config.consumerWord)) &&
      !(decide (Config.applyResultWord ≤ word) && decide (word ≤ 4077))) = true := by
    have areas : Config.applyWord ≤ Config.applyResultWord := by decide
    simp
    omega
  rw [if_pos inside] at kept
  unfold Words.read adoptedWords
  rw [kept]

theorem controlOf_applied {sequence : BitVec 16} (part : s.part ≠ .stopped) (valid : s.validate = .applied)
    (named : sequence = BitVec.ofNat 16 (setting s.settings.staging Config.applyWord 15 0)) :
    controlOf Config.applyWord s = s.adoptSettings.applyAnswer sequence .applied := by
  subst named
  show s.applySettings _ = _
  rw [State.applySettings, if_neg part, valid]

end Sys2Proof.Machine
end

section
/-!
The first apply that passes, and one in RUNNING.
-/

namespace Sys2Proof.Machine

set_option Elab.async false

variable {s t u v w x : State} {o : Origin} {r : Request} {index channel : Nat} {c d : Context} {old new : Table Word}

/-! ### Steps of an adoption (R96, R161) -/

/-- What the change of the staging area and of the event ring leaves. -/
structure Moved (s t : State) (area ring : Bool) : Prop where
  context : ∀ m, t.context? m =
    if area = true ∧ m ∈ s.slotMap.map (fun p => p.2) then (s.context? m).map Context.returned else s.context? m
  slotMap : t.slotMap = if area = true then [] else s.slotMap
  events : t.events = if ring = true then { s.events with producer := 0, consumer := 0, mark := 0 } else s.events
  keeps : ∀ e, s.hasEvent e = true → t.hasEvent e = true
  directory : t.table.directory = s.table.directory
  quarantined : t.table.quarantined = s.table.quarantined
  pins : t.pins = s.pins
  part : t.part = s.part
  forwarder : t.forwarder = s.forwarder
  settings : t.settings = s.settings
  intake : t.intake = s.intake
  flight : t.flight = s.flight
  time : t.time = s.time
  now : t.now = s.now

theorem Moved.ring {area : Bool} (h : Moved s t area false) : Moved s t.restartRing area true := by
  obtain ⟨context, slotMap, events, keeps, directory, quarantined, pins, part, forwarder, settings, intake, flight, time,
    now⟩ := h
  constructor
  case context => exact context
  case events => rw [State.restartRing_events, events]; rfl
  case keeps => exact fun e has => State.restartRing_keeps e (keeps e has)
  all_goals simpa

theorem State.moved_does (intact : ∀ m d, s.context? m = some d → d.intact = true) (old new : Table Word) :
    Moved s (s.moved old new) (stagingMoved old new) (eventRingMoved old new) := by
  have area : Moved s (if stagingMoved old new then s.clearSlotMap else s) (stagingMoved old new) false := by
    cases stagingMoved old new with
    | false =>
      rw [if_neg Bool.false_ne_true]
      constructor
      case keeps => exact fun _ h => h
      all_goals simp
    | true =>
      obtain ⟨contexts, does, gets⟩ := State.clearSlotMap_does intact
      rw [if_pos rfl, does]
      constructor
      case context =>
        intro m
        refine (gets m).trans ?_
        simp only [true_and]
      case keeps => exact fun _ h => h
      all_goals simp
  unfold State.moved
  cases eventRingMoved old new with
  | false => exact area
  | true => exact area.ring

/-- With nothing held, no write is judged against the new staging area. -/
theorem State.adopting_unheld (held : s.forwarder.held = []) :
    s.adopting = { s with settings := { s.settings with active := adoptedWords s.settings.staging } } := by
  unfold State.adopting
  split
  · have stays : ({ s.forwarder with held := [] } : Forwarder) = s.forwarder := by rw [← held]
    simp [State.rejudgeHeld, held, stays]
  · rfl

theorem State.adopting_kept (s : State) :
    s.adopting.pins = s.pins ∧ s.adopting.part = s.part ∧ s.adopting.own = s.own ∧
      s.adopting.settings = { s.settings with active := adoptedWords s.settings.staging } ∧
      s.adopting.intake = s.intake ∧ s.adopting.flight = s.flight ∧ s.adopting.table = s.table ∧
      s.adopting.slotMap = s.slotMap ∧ s.adopting.time = s.time ∧ s.adopting.events = s.events ∧
      s.adopting.now = s.now := by
  unfold State.adopting
  split <;> simp

@[simp] theorem State.adopted_frame (s : State) :
    s.adopted.pins = s.pins ∧ s.adopted.forwarder = s.forwarder ∧ s.adopted.own = s.own ∧
    s.adopted.settings = s.settings ∧ s.adopted.intake = s.intake ∧ s.adopted.flight = s.flight ∧
    s.adopted.slotMap = s.slotMap ∧ s.adopted.events = s.events ∧ s.adopted.now = s.now := by
  simp [State.adopted]

/-! ### The first apply (R161, R179) -/

theorem exec_applied {sequence : BitVec 16} (between : s.between = true) (offered : s.offers o r = true)
    (sole : s.soleControl r Config.applyWord = true) (part : s.part ≠ .stopped)
    (valid : (s.withCopied o r).validate = .applied)
    (named : sequence = BitVec.ofNat 16 (setting (s.withCopied o r).settings.staging Config.applyWord 15 0))
    (does : (s.withCopied o r).adoptSettings = t) (calm : t.now.stopDue = false) :
    exec (.applyWrite o) s = .next (t.applyAnswer sequence .applied).ended := by
  obtain ⟨-, -, settings, covers, -⟩ := (s.soleControl_iff r _).mp sole
  have answers : controlOf Config.applyWord (s.withCopied o r) = t.applyAnswer sequence .applied := by
    rw [controlOf_applied (by simpa using part) valid named, does]
  exact exec_sole (c := .applyWrite o) rfl between offered (by simp) sole (by simp [State.controls, settings, covers])
    answers (by simpa using calm)

/-- In SETUP no channel is open, and an adoption closes none. -/
theorem closingChannels_closed (closed : ∀ c, c < Config.channelCount → channelOpen old c = false) :
    closingChannels old new = [] := by
  refine List.eq_nil_iff_forall_not_mem.mpr fun c mem => ?_
  obtain ⟨bound, isOpen, -⟩ := mem_closingChannels.mp mem
  rw [closed c bound] at isOpen
  cases isOpen

/-- What the first apply that passes adopts. -/
theorem State.adoptSettings_first (none1 : s.slotMap = []) (setup : s.part = .setup)
    (closed : ∀ c, c < Config.channelCount → channelOpen s.settings.active c = false)
    (hnew : adoptedWords s.settings.staging = new) :
    let t := s.adoptSettings
    t.part = .running ∧ t.settings = { s.settings with active := new } ∧
      (∀ c, c < Config.channelCount → channelOpen new c = true → Table.get? t.intake.lastSequence c = none) ∧
      t.table = { s.table with ageing := 0 } ∧ t.time = { s.time with ageingTimer := 0 } ∧
      t.intake.queue = s.intake.queue ∧ t.flight = s.flight ∧ t.slotMap = [] ∧ t.events.errors = s.events.errors ∧
      t.events.holding = s.events.holding ∧ t.events.sequence = s.events.sequence ∧ t.pins = s.pins ∧ t.now = s.now := by
  intro t
  obtain ⟨sequences, opens, gets⟩ := foldl_openChannel (openingChannels s.settings.active new) s.adopting
  obtain ⟨v, hv⟩ : ∃ v : State, { s.adopting with intake := { s.adopting.intake with lastSequence := sequences } } = v :=
    ⟨_, rfl⟩
  have does : t = (v.moved s.settings.active new).adopted := by
    show s.adoptSettings = _
    rw [State.adoptSettings_eq rfl hnew, closingChannels_closed closed, List.foldl_nil, opens, hv]
  obtain ⟨pins, part, -, settings, intake, flight, table, slotMap, time, events, now⟩ := s.adopting_kept
  have cleared : (if stagingMoved s.settings.active new then v.clearSlotMap else v) = v := by
    have nothing : v.slotMap = [] := by rw [← hv]; exact slotMap.trans none1
    have stays : ({ v with slotMap := [] } : State) = v := by rw [← nothing]
    split
    · simp only [State.clearSlotMap, nothing, List.map_nil, List.foldl_nil]
      exact stays
    · rfl
  obtain ⟨w, hw⟩ : ∃ w, (if eventRingMoved s.settings.active new then v.restartRing else v) = w := ⟨_, rfl⟩
  have frame : w.pins = v.pins ∧ w.part = v.part ∧ w.settings = v.settings ∧ w.intake = v.intake ∧ w.flight = v.flight ∧
      w.table = v.table ∧ w.slotMap = v.slotMap ∧ w.time = v.time ∧ w.now = v.now ∧
      w.events.errors = v.events.errors ∧ w.events.holding = v.events.holding ∧
      w.events.sequence = v.events.sequence := by
    rw [← hw]
    split <;> simp
  obtain ⟨pinsW, partW, settingsW, intakeW, flightW, tableW, slotMapW, timeW, nowW, errorsW, holdingW, sequenceW⟩ := frame
  have last : t = w.adopted := by rw [does, State.moved, cleared, ← hw]
  rw [last]
  refine ⟨?_, ?_, fun c bound isOpen => ?_, ?_, ?_, ?_, ?_, ?_, ?_, ?_, ?_, ?_, ?_⟩
  · simp [State.adopted, partW, ← hv, part, setup, PartState.afterApply]
  · simp [settingsW, ← hv, settings, hnew]
  · have mem : c ∈ openingChannels s.settings.active new := mem_openingChannels.mpr ⟨bound, closed c bound, isOpen⟩
    simp [intakeW, ← hv, gets, mem]
  · simp [State.adopted, tableW, ← hv, table]
  · simp [State.adopted, timeW, ← hv, time]
  · simp [intakeW, ← hv, intake]
  · simp [flightW, ← hv, flight]
  · simp [slotMapW, ← hv, slotMap, none1]
  · simp [errorsW, ← hv, events]
  · simp [holdingW, ← hv, events]
  · simp [sequenceW, ← hv, events]
  · simp [pinsW, ← hv, pins]
  · simp [nowW, ← hv, now]

/-! ### An apply in RUNNING (R96, R161) -/

/-- What an apply in RUNNING adopts, with nothing held and every record intact. -/
structure Reconfigured (s t : State) (old new : Table Word) : Prop where
  part : t.part = .running
  staging : t.settings.staging = s.settings.staging
  draining : t.settings.draining = s.settings.draining
  active : ∀ word, Words.read t.settings.active word = Words.read new word
  gone : ∀ m, s.ofChannels (closingChannels old new) m = true → t.context? m = none
  stays : ∀ m, s.ofChannels (closingChannels old new) m = false →
    (stagingMoved old new = false ∨ ∀ slot, Table.get? s.slotMap slot ≠ some m) → t.context? m = s.context? m
  returned : ∀ slot m, s.ofChannels (closingChannels old new) m = false → stagingMoved old new = true →
    Table.get? s.slotMap slot = some m → t.context? m = (s.context? m).map Context.returned
  directory : t.table.directory = s.table.directory.filter fun p => !s.ofChannels (closingChannels old new) p.2
  quarantined : t.table.quarantined = s.table.quarantined
  ageing : t.table.ageing = 0
  slotMap : t.slotMap =
    if stagingMoved old new = true then []
    else s.slotMap.filter fun p => !s.ofChannels (closingChannels old new) p.2
  time : t.time = { s.time with
    deadlines := s.time.deadlines.filter fun d => !s.ofChannels (closingChannels old new) d.index
    ageingTimer := 0 }
  flight : t.flight = s.flight.filter fun f => !s.ofChannels (closingChannels old new) f.index
  queue : t.intake.queue = s.intake.queue.filter fun e => !(closingChannels old new).contains e.channel
  lastSequence : ∀ c, Table.get? t.intake.lastSequence c =
    if c ∈ openingChannels old new then none
    else if c ∈ closingChannels old new then none
    else Table.get? s.intake.lastSequence c
  said : ∀ c ∈ closingChannels old new, t.reports (s.applyClosed c) s.time.counter s.now.cause = true
  ring : eventRingMoved old new = true → t.events.producer = 0 ∧ t.events.consumer = 0 ∧ t.events.mark = 0
  consumer : eventRingMoved old new = false → t.events.consumer = s.events.consumer
  errors : t.events.errors = s.events.errors
  forwarder : t.forwarder = s.forwarder
  pins : t.pins = s.pins
  now : t.now = s.now

/-- The slots that stay mapped name the contexts that stay. -/
theorem mem_slotMap_filter {slots : Table Nat} (wf : Table.wf slots = true) (gone : Nat → Bool) (m : Nat) :
    m ∈ (slots.filter fun p => !gone p.2).map (fun p => p.2) ↔
      gone m = false ∧ ∃ slot, Table.get? slots slot = some m := by
  simp only [List.mem_map, List.mem_filter, Bool.not_eq_true']
  constructor
  · rintro ⟨p, ⟨mem, stays⟩, rfl⟩
    exact ⟨stays, p.1, Table.get?_of_mem wf mem⟩
  · rintro ⟨stays, slot, found⟩
    exact ⟨(slot, m), ⟨Table.mem_keys_of_get? _ _ _ found, stays⟩, rfl⟩

theorem State.adoptSettings_running (held : s.forwarder.held = []) (running : s.part = .running)
    (wf : Table.wf s.table.contexts = true) (wfSlots : Table.wf s.slotMap = true)
    (intact : ∀ m d, s.context? m = some d → d.intact = true) (room : s.eventRoom Config.channelCount = true)
    (hold : s.settings.active = old) (hnew : adoptedWords s.settings.staging = new) :
    Reconfigured s s.adoptSettings old new := by
  obtain ⟨l, hl⟩ : ∃ l, closingChannels old new = l := ⟨_, rfl⟩
  have places : s.events.holding.length + l.length ≤ Config.holdingPlaces := by
    have short : l.length ≤ Config.channelCount := by
      rw [← hl]
      exact (List.length_filter_le _ _).trans (by simp)
    simp only [State.eventRoom, decide_eq_true_eq] at room
    omega
  have nodup : l.Nodup := by
    rw [← hl]
    exact List.nodup_range.filter _
  obtain ⟨v, hv⟩ : ∃ v, s.adopting = v := ⟨_, rfl⟩
  have adopting := State.adopting_unheld held
  rw [hv, hnew] at adopting
  have activeV : v.settings.active = new := by rw [adopting]
  have closed := foldl_closeChannel l nodup v (by rw [adopting]; exact held) (by rw [adopting]; exact wf)
    (by rw [adopting]; exact intact) (by rw [adopting]; exact places) (fun c mem => by
      rw [← hl] at mem
      rw [activeV]
      exact (mem_closingChannels.mp mem).2.2)
  obtain ⟨w, hw⟩ : ∃ w, l.foldl (fun u c => u.closeChannel c 2) v = w := ⟨_, rfl⟩
  rw [hw] at closed
  obtain ⟨sequences, opens, gets⟩ := foldl_openChannel (openingChannels old new) w
  obtain ⟨x, hx⟩ : ∃ x : State, { w with intake := { w.intake with lastSequence := sequences } } = x := ⟨_, rfl⟩
  have ofV : v.ofChannels l = s.ofChannels l := by rw [adopting]; rfl
  have contextX (m : Nat) : x.context? m = if s.ofChannels l m = true then none else s.context? m := by
    have sameX : x.table = (v.vacated (v.ofChannels l)).table := by rw [← hx]; exact closed.table
    rw [State.context?_congr sameX, State.vacated_context, ofV, adopting]
    rfl
  have intactX (m : Nat) (d : Context) (hd : x.context? m = some d) : d.intact = true := by
    rw [contextX] at hd
    split at hd
    · cases hd
    · exact intact m d hd
  have moved := State.moved_does intactX old new
  have does : s.adoptSettings = (x.moved old new).adopted := by
    rw [State.adoptSettings_eq hold hnew, hv, hl, hw, opens, hx]
  obtain ⟨y, hy⟩ : ∃ y, x.moved old new = y := ⟨_, rfl⟩
  rw [hy] at moved does
  have slotMapX : x.slotMap = s.slotMap.filter fun p => !s.ofChannels l p.2 := by
    rw [← hx, ← ofV]
    refine closed.slotMap.trans ?_
    rw [adopting]
    rfl
  have eventsY : y.events.errors = s.events.errors ∧ (eventRingMoved old new = false → y.events.consumer = s.events.consumer) ∧
      (eventRingMoved old new = true → y.events.producer = 0 ∧ y.events.consumer = 0 ∧ y.events.mark = 0) := by
    have errorsX : x.events.errors = s.events.errors := by rw [← hx, ← show v.events = s.events by rw [adopting]]; exact closed.errors
    have consumerX : x.events.consumer = s.events.consumer := by
      rw [← hx, ← show v.events = s.events by rw [adopting]]
      exact closed.consumer
    rw [moved.events]
    cases eventRingMoved old new <;> simp [errorsX, consumerX]
  have settingsY : y.settings = w.settings := by rw [moved.settings, ← hx]
  have contextY (m : Nat) : y.adopted.context? m =
      if stagingMoved old new = true ∧ m ∈ x.slotMap.map (fun p => p.2) then (x.context? m).map Context.returned
      else x.context? m := moved.context m
  have mapped (m : Nat) : m ∈ x.slotMap.map (fun p => p.2) ↔
      s.ofChannels l m = false ∧ ∃ slot, Table.get? s.slotMap slot = some m := by
    rw [slotMapX]
    exact mem_slotMap_filter wfSlots _ m
  have tableX : x.table = (v.vacated (s.ofChannels l)).table := by
    rw [← hx, ← ofV]
    exact closed.table
  have timeX : x.time = (v.vacated (s.ofChannels l)).time := by
    rw [← hx, ← ofV]
    exact closed.time
  have flightX : x.flight = (v.vacated (s.ofChannels l)).flight := by
    rw [← hx, ← ofV]
    exact closed.flight
  rw [does]
  constructor
  case part => simp [State.adopted, moved.part, ← hx, closed.part, adopting, running, PartState.afterApply]
  case staging => simp [settingsY, closed.staging, adopting]
  case draining => simp [settingsY, closed.draining, adopting]
  case active =>
    intro word
    have same : y.adopted.settings.active = w.settings.active := by simp [settingsY]
    rw [same, closed.active, activeV]
  case gone =>
    intro m goes
    rw [hl] at goes
    rw [contextY, if_neg (fun both => by simp [mapped, goes] at both), contextX, if_pos goes]
  case stays =>
    intro m goes apart
    rw [hl] at goes
    have unmapped : ¬(stagingMoved old new = true ∧ m ∈ x.slotMap.map fun p => p.2) := by
      rintro ⟨area, mem⟩
      obtain ⟨-, slot, found⟩ := (mapped m).mp mem
      rcases apart with still | free
      · rw [area] at still
        cases still
      · exact free slot found
    rw [contextY, if_neg unmapped, contextX, if_neg (by simp [goes])]
  case returned =>
    intro slot m goes area found
    rw [hl] at goes
    rw [contextY, if_pos ⟨area, (mapped m).mpr ⟨goes, slot, found⟩⟩, contextX, if_neg (by simp [goes])]
  case directory =>
    have same : y.adopted.table.directory = x.table.directory := moved.directory
    rw [same, tableX, adopting, hl]
    rfl
  case quarantined =>
    have same : y.adopted.table.quarantined = x.table.quarantined := moved.quarantined
    rw [same, tableX, adopting]
    rfl
  case ageing => rfl
  case slotMap =>
    have same : y.adopted.slotMap = y.slotMap := rfl
    rw [same, moved.slotMap, slotMapX, hl]
  case time =>
    have same : y.adopted.time = { x.time with ageingTimer := 0 } := by rw [← moved.time]; rfl
    rw [same, timeX, adopting, hl]
    rfl
  case flight =>
    have same : y.adopted.flight = x.flight := moved.flight
    rw [same, flightX, adopting, hl]
    rfl
  case queue =>
    have same : y.adopted.intake.queue = w.intake.queue := by simp [moved.intake, ← hx]
    rw [same, closed.queue, adopting, hl]
  case lastSequence =>
    intro c
    have same : y.adopted.intake.lastSequence = sequences := by simp [moved.intake, ← hx]
    rw [same, gets, closed.lastSequence, adopting, hl]
  case said =>
    intro c mem
    rw [hl] at mem
    have said := closed.said c mem
    have fields : v.applyClosed c = s.applyClosed c := by rw [adopting]; rfl
    have counter : v.time.counter = s.time.counter := by rw [adopting]
    have cause : v.now.cause = s.now.cause := by rw [adopting]
    rw [fields, counter, cause] at said
    exact State.reports_of_keeps w _ (fun e has => moved.keeps e (by rw [← hx]; exact has)) (by simp [settingsY]) _ _ _ said
  case ring => exact eventsY.2.2
  case consumer => exact eventsY.2.1
  case errors => exact eventsY.1
  case forwarder => simp [moved.forwarder, ← hx, closed.forwarder, adopting]
  case pins => simp [moved.pins, ← hx, closed.pins, adopting]
  case now => simp [moved.now, ← hx, closed.now, adopting]

theorem State.applyAnswer_keeps (s : State) (sequence : BitVec 16) (a : ApplyResult) (e : EventRecord)
    (has : s.hasEvent e = true) : (s.applyAnswer sequence a).hasEvent e = true :=
  State.issueStatus_keeps _ _ e has

theorem State.applyAnswer_context (s : State) (sequence : BitVec 16) (a : ApplyResult) (m : Nat) :
    (s.applyAnswer sequence a).ended.context? m = s.context? m := State.context?_congr (by simp)

/-- Settles O32: the first apply starts the part, and a later one closes, opens and moves. -/
theorem firstApplyStartsRunning : Obligations.FirstApplyStartsRunning := by
  constructor
  · intro s o r between offered sole setup none1 closed u sequence valid
    obtain ⟨-, now, -⟩ := s.between_iff.mp between
    obtain ⟨part, settings, opened, table, time, queue, flight, slotMap, errors, holding, sequences, pins, nowT⟩ :=
      State.adoptSettings_first (s := u) (by simpa [u] using none1) (by simpa [u] using setup) (by simpa [u] using closed) rfl
    have step := exec_applied between offered sole (by rw [setup]; decide) valid rfl rfl
      (by rw [nowT]; simp [u, now])
    generalize u.adoptSettings = t at *
    refine ⟨_, step, ?_, ?_, fun word below => ?_, ?_, ?_, fun c bound isOpen => ?_, ?_, ?_, ?_, ?_, ?_, ?_, ?_, ?_, ?_,
      State.ended_attention _⟩
    · simp [part]
    · simp [settings]
    · simp [settings, adoptedWords_read _ _ below]
    · simp [State.applyAnswer_events, sequence, u]
    · rw [State.ended_lastIssued]
      exact State.applyAnswer_lastIssued _ _ _
    · have isOpen : channelOpen (adoptedWords u.settings.staging) c = true := by simpa [settings] using isOpen
      simpa using opened c bound isOpen
    · simp [table, u]
    · simp [time, u]
    · simp [queue, u]
    · simp [flight, u]
    · simp [slotMap]
    · simp [errors, u]
    · simp [holding, u]
    · simp [sequences, u]
    · simp [pins, u]
  · intro s o r between offered sole running none1 room wf wfSlots intact u old new sequence closes opens goes areaMoves
      ringMoves valid
    obtain ⟨-, now, -⟩ := s.between_iff.mp between
    have tableU : u.table = s.table := by simp [u]
    have contextU (m : Nat) : u.context? m = s.context? m := State.context?_congr tableU
    have adopts := State.adoptSettings_running (s := u) (old := old) (new := new) (by simpa [u] using none1)
      (by simpa [u] using running) (by rw [tableU]; exact wf) (by simpa [u] using wfSlots)
      (fun m d hd => intact m d ((contextU m).symm.trans hd)) ((State.eventRoom_congr (by simp [u])).trans room)
      (by simp [u, old]) rfl
    have step := exec_applied between offered sole (by rw [running]; decide) valid rfl rfl
      (by rw [adopts.now]; simp [u, now])
    have closing (c : Nat) : c ∈ closingChannels old new ↔ closes c = true := by
      simp [mem_closingChannels, closes, and_assoc]
    have opening (c : Nat) : c ∈ openingChannels old new ↔ opens c = true := by
      simp [mem_openingChannels, opens, and_assoc]
    have going : u.ofChannels (closingChannels old new) = goes := by
      funext m
      unfold State.ofChannels State.ofChannel
      simp only [contextU, goes]
      cases s.context? m with
      | none => simp
      | some c =>
        rw [Bool.eq_iff_iff, List.any_eq_true]
        simp only [Option.any_some, beq_iff_eq, ← closing]
        exact ⟨fun ⟨ch, mem, same⟩ => same ▸ mem, fun mem => ⟨_, mem, rfl⟩⟩
    have closingContains (c : Nat) : (closingChannels old new).contains c = closes c := by
      rw [Bool.eq_iff_iff, List.contains_iff_mem, closing]
    have areaIff : stagingMoved old new = true ↔ areaMoves := stagingMoved_iff
    have ringIff : eventRingMoved old new = true ↔ ringMoves := eventRingMoved_iff
    generalize u.adoptSettings = t at *
    obtain ⟨part, staging, draining, active, gone, stays, returned, directory, quarantined, ageing, slotMap, time, flight,
      queue, lastSequence, said, ring, consumer, errors, forwarder, pins, nowT⟩ := adopts
    rw [going] at gone stays returned directory slotMap time flight
    refine ⟨_, step, ?_, ?_, ?_, fun word => ?_, fun m went => ?_, fun m kept apart => ?_,
      fun slot m c issued k kept area found hc held => ?_, ?_, ?_, ?_, fun area => ?_, fun still => ?_, ?_, ?_, ?_, fun c => ?_,
      fun c closed => ?_, fun moves => ?_, fun still => ?_, ?_, ?_, ?_, ?_, ?_, State.ended_attention _⟩
    · simp [part]
    · simp [staging]
    · simp [draining, u]
    · simp [active]
    · rw [State.applyAnswer_context, gone m went]
    · have quiet : stagingMoved old new = false ∨ ∀ slot, Table.get? u.slotMap slot ≠ some m := by
        refine apart.imp (fun still => ?_) fun free => by simpa [u] using free
        rw [Bool.eq_false_iff, ne_eq, areaIff]
        exact still
      rw [State.applyAnswer_context, stays m kept quiet, contextU]
    · rw [State.applyAnswer_context, returned slot m kept (areaIff.mpr area) (by simpa [u] using found), contextU, hc,
        Option.map_some, Context.returned_issued held]
    · simp [directory, tableU]
    · simp [quarantined, tableU]
    · simp [ageing]
    · simp [slotMap, areaIff.mpr area]
    · have still : stagingMoved old new = false := by
        rw [Bool.eq_false_iff, ne_eq, areaIff]
        exact still
      simp [slotMap, still, u]
    · simp [time, u]
    · simp [flight, u]
    · simp only [closingContains] at queue
      simp [queue, u]
    · have last := lastSequence c
      simp only [opening, closing] at last
      have same : (t.applyAnswer sequence .applied).ended.intake.lastSequence = t.intake.lastSequence := by simp
      rw [same, last]
      have before : u.intake.lastSequence = s.intake.lastSequence := by simp [u]
      rw [before]
      by_cases closed : closes c = true
      · simp [closed]
      · by_cases opened : opens c = true
        · simp [opened]
        · simp [closed, opened]
    · have told := said c ((closing c).mpr closed)
      have fields : u.applyClosed c = s.applyClosed c := by
        unfold State.applyClosed
        rw [State.occupiedCount_congr tableU]
      have counter : u.time.counter = s.time.counter := by simp [u]
      have cause : u.now.cause = none := by simp [u, now]
      rw [fields, counter, cause] at told
      rw [State.ended_reports]
      exact State.reports_of_keeps t _ (t.applyAnswer_keeps _ _) (by simp) _ _ _ told
    · have fresh := ring (ringIff.mpr moves)
      simpa using fresh
    · have kept := consumer (by
        rw [Bool.eq_false_iff, ne_eq, ringIff]
        exact still)
      simpa [u] using kept
    · simp [State.applyAnswer_events, sequence, u]
    · rw [State.ended_lastIssued]
      exact State.applyAnswer_lastIssued _ _ _
    · simp [errors, u]
    · simp [forwarder]
    · simp [pins, u]

end Sys2Proof.Machine
end
